-- ==== Sys2Proof/Word.lean ====
section
/-! DEFINITION. The word types of the machine and the sparse maps its register files and memory are written in. -/
namespace Sys2Proof

/-- One byte of memory. -/
abbrev Byte := BitVec 8

/-- A vector lane, a 32-bit register or syllable. -/
abbrev Word32 := BitVec 32

/-- A scalar, index or parameter register. -/
abbrev Word64 := BitVec 64

/-- A sparse file: a list of (number, value) entries, numbers rising, no entry equal to the file's default value.
What an unlisted number reads as is the argument `d` of the operations below. -/
abbrev SMap (α : Type) := List (Nat × α)

/-- The value held at number `k`; the default `d` where nothing is listed. -/
def SMap.get {α : Type} (d : α) : SMap α → Nat → α
  | [], _ => d
  | (a, v) :: t, k => if a = k then v else SMap.get d t k

/-- Every entry of number `k` taken out. -/
def SMap.erase {α : Type} (m : SMap α) (k : Nat) : SMap α := m.filter fun e => !(e.1 == k)

/-- The entry `(k, v)` placed before the first larger number. -/
def SMap.insert {α : Type} (k : Nat) (v : α) : SMap α → SMap α
  | [] => [(k, v)]
  | (a, w) :: t => if k < a then (k, v) :: (a, w) :: t else (a, w) :: SMap.insert k v t

/-- Number `k` made to hold `v`; a value equal to the default is not listed. -/
def SMap.set {α : Type} [DecidableEq α] (d : α) (m : SMap α) (k : Nat) (v : α) : SMap α :=
  if v = d then m.erase k else SMap.insert k v (m.erase k)

/-- The canonical form: numbers strictly rising, no entry equal to the default. -/
def SMap.wf {α : Type} [DecidableEq α] (d : α) : SMap α → Bool
  | [] => true
  | [(_, v)] => !decide (v = d)
  | (a, v) :: (b, w) :: t => decide (a < b) && !decide (v = d) && SMap.wf d ((b, w) :: t)

end Sys2Proof
end

