-- ==== Sys2Proof/Machine/Sha3.lean ====
section
/-! DEFINITION. SHA3-512 and SHAKE (FIPS 202), which image tags, launches, boot and signatures use (01 R38, 18 R364, 22 R432,
R436). -/
namespace Sys2Proof.Machine

/-- One step of the shift register whose output bits make the round constants: x^8 + x^6 + x^5 + x^4 + 1. -/
def rcStep (r : Nat) : Nat := if r < 128 then 2 * r else Nat.xor (2 * r - 256) 0x71

/-- The register after n steps. -/
def rcReg : Nat → Nat
  | 0 => 1
  | n + 1 => rcStep (rcReg n)

/-- The constant of round i: output bit j + 7i of the register stands at bit 2^j − 1. -/
def roundConst (i : Nat) : Word64 :=
  (List.range 7).foldl (fun w j => if (rcReg (j + 7 * i)).testBit 0 then w ||| .ofNat 64 (2 ^ (2 ^ j - 1)) else w) 0

/-- The rotation of lane (x, y): the walk (x, y) → (y, 2x + 3y) reaches it from (1, 0) at step t, and it turns by
(t + 1)(t + 2) / 2; lane (0, 0) stays. -/
def laneTurn : Nat → Nat → Nat × Nat → Nat × Nat → Nat
  | 0, _, _, _ => 0
  | n + 1, t, at_, l =>
    if at_ = l then (t + 1) * (t + 2) / 2 % 64 else laneTurn n (t + 1) (at_.2, (2 * at_.1 + 3 * at_.2) % 5) l

def laneAt (a : List Word64) (x y : Nat) : Word64 := a.getD (x % 5 + 5 * (y % 5)) 0

/-- One round on 25 lanes: theta, rho with pi, chi, iota. -/
def keccakRound (a : List Word64) (rc : Word64) : List Word64 :=
  let c := (List.range 5).map fun x =>
    laneAt a x 0 ^^^ laneAt a x 1 ^^^ laneAt a x 2 ^^^ laneAt a x 3 ^^^ laneAt a x 4
  let d := (List.range 5).map fun x => c.getD ((x + 4) % 5) 0 ^^^ (c.getD ((x + 1) % 5) 0).rotateLeft 1
  let t := (List.range 25).map fun i => a.getD i 0 ^^^ d.getD (i % 5) 0
  -- lane (y, 2x + 3y) of b is lane (x, y) of t rotated: b at (X, Y) comes from x = X + 3Y, y = X
  let b := (List.range 25).map fun i =>
    let x := (i % 5 + 3 * (i / 5)) % 5
    let y := i % 5
    (t.getD (x + 5 * y) 0).rotateLeft (laneTurn 24 0 (1, 0) (x, y))
  let e := (List.range 25).map fun i =>
    laneAt b (i % 5) (i / 5) ^^^ (~~~ laneAt b (i % 5 + 1) (i / 5) &&& laneAt b (i % 5 + 2) (i / 5))
  match e with
  | h :: l => (h ^^^ rc) :: l
  | [] => []

def keccakF (a : List Word64) : List Word64 := (List.range 24).foldl (fun x i => keccakRound x (roundConst i)) a

/-- Lane i of a block of bytes, little-endian. -/
def blockLane (b : List Byte) (i : Nat) : Word64 :=
  .ofNat 64 (((b.drop (8 * i)).take 8).foldr (fun x n => x.toNat + 256 * n) 0)

/-- One block of r bytes absorbed. -/
def absorb (r : Nat) (a : List Word64) (b : List Byte) : List Word64 :=
  keccakF ((List.range 25).map fun i => if i < r / 8 then a.getD i 0 ^^^ blockLane b i else a.getD i 0)

/-- n whole blocks absorbed. -/
def absorbAll (r : Nat) : Nat → List Word64 → List Byte → List Word64
  | 0, a, _ => a
  | n + 1, a, b => absorbAll r n (absorb r a (b.take r)) (b.drop r)

/-- The message padded to whole blocks of r bytes, with its domain suffix. -/
def spongePad (r suffix : Nat) (m : List Byte) : List Byte :=
  let k := r - m.length % r
  m ++ if k = 1 then [.ofNat 8 (suffix + 0x80)] else .ofNat 8 suffix :: (List.replicate (k - 2) 0 ++ [0x80])

/-- The sponge after a message. -/
def spongeIn (r suffix : Nat) (m : List Byte) : List Word64 :=
  let p := spongePad r suffix m
  absorbAll r (p.length / r) (List.replicate 25 0) p

/-- The first r bytes of the lanes. -/
def laneBytes (r : Nat) (a : List Word64) : List Byte :=
  (a.take (r / 8)).flatMap fun x => (List.range 8).map fun i => .ofNat 8 (x.toNat / 256 ^ i)

/-- n blocks of r bytes squeezed. -/
def squeeze (r : Nat) : Nat → List Word64 → List Byte
  | 0, _ => []
  | n + 1, a => laneBytes r a ++ squeeze r n (keccakF a)

/-- The first n bytes of SHAKE256, and of SHAKE128. -/
def shake256 (m : List Byte) (n : Nat) : List Byte := (squeeze 136 ((n + 135) / 136) (spongeIn 136 0x1F m)).take n
def shake128 (m : List Byte) (n : Nat) : List Byte := (squeeze 168 ((n + 167) / 168) (spongeIn 168 0x1F m)).take n

/-- The digest as a number whose byte i is byte i of the digest. -/
def sha3 (m : List Byte) : BitVec 512 := .ofNat 512 (((spongeIn 72 0x06 m).take 8).foldr (fun x n => x.toNat + 2 ^ 64 * n) 0)

end Sys2Proof.Machine
end

