-- ==== Sys2Proof/Machine/MlDsa.lean ====
section
/-! DEFINITION. ML-DSA-87 of FIPS 204, which the boot ROM verifies and signs with (22 R432, R436): key generation, signing and
verification with an empty context. A polynomial is its 256 coefficients modulo q, the one of x^0 first. -/
namespace Sys2Proof.Machine.MlDsa

/-! Parameters. -/

def q : Nat := 8380417
/-- Rows and columns of the matrix A, and the bound of the secret's coefficients. -/
def rows : Nat := 8
def cols : Nat := 7
def eta : Nat := 2
/-- Dropped bits of t. -/
def dropped : Nat := 13
/-- Nonzero coefficients of the challenge, range of y, low-order range, bound on the challenge's products, most hints. -/
def tau : Nat := 60
def gamma1 : Nat := 2 ^ 19
def gamma2 : Nat := (q - 1) / 32
def beta : Nat := tau * eta
def omega : Nat := 75

abbrev Poly := List Nat

/-! Arithmetic modulo q. -/

def negq (a : Nat) : Nat := (q - a % q) % q
def addP (a b : Poly) : Poly := List.zipWith (fun x y => (x + y) % q) a b
def subP (a b : Poly) : Poly := List.zipWith (fun x y => (x + negq y) % q) a b
def mulHat (a b : Poly) : Poly := List.zipWith (fun x y => x * y % q) a b
def zeroP : Poly := List.replicate 256 0

/-- The distance of a residue from 0. -/
def absq (a : Nat) : Nat := Nat.min (a % q) (q - a % q)
def normP (a : Poly) : Nat := a.foldl (fun m x => Nat.max m (absq x)) 0
def normV (v : List Poly) : Nat := v.foldl (fun m x => Nat.max m (normP x)) 0

/-- The value of a polynomial at x. -/
def evalAt (a : Poly) (x : Nat) : Nat := a.foldr (fun c acc => (c + x * acc) % q) 0

/-- Powers of the 512th root of unity 1753, and of its inverse. -/
def root (e : Nat) : Nat := 1753 ^ (e % 512) % q
def rootInv (e : Nat) : Nat := root (512 - e % 512)

/-- The eight bits of i in the opposite order. -/
def rev8 (i : Nat) : Nat := (List.range 8).foldl (fun m k => 2 * m + i / 2 ^ k % 2) 0

/-- The transform: position i is the value at the power 2 · rev8 i + 1 of the root. -/
def ntt (a : Poly) : Poly := (List.range 256).map fun i => evalAt a (root (2 * rev8 i + 1))

/-- Its inverse; 8347681 is the inverse of 256. -/
def nttInv (a : Poly) : Poly :=
  let u := (List.range 256).map fun m => a.getD (rev8 m) 0
  (List.range 256).map fun j => 8347681 * rootInv j % q * evalAt u (rootInv (2 * j)) % q

/-! Rounding. -/

/-- t as t1 · 2^13 + t0, t0 modulo q. -/
def power2Round (r : Nat) : Nat × Nat :=
  let m := r % 2 ^ dropped
  if m ≤ 2 ^ (dropped - 1) then (r / 2 ^ dropped, m) else (r / 2 ^ dropped + 1, q - (2 ^ dropped - m))

/-- High part, and the low part with its sign: whether it is above 0, and its distance from 0. -/
def decompose (r : Nat) : Nat × Bool × Nat :=
  let a := 2 * gamma2
  let m := r % q % a
  let pos := decide (m ≤ gamma2)
  let hi := if pos then r % q / a else r % q / a + 1
  if hi = 16 then (0, false, if pos then 1 - m else a - m + 1)
  else (hi, decide (0 < m) && pos, if pos then m else a - m)

def highBits (r : Nat) : Nat := (decompose r).1
def lowNorm (a : Poly) : Nat := a.foldl (fun m x => Nat.max m (decompose x).2.2) 0

/-- The hint that r + z and r differ in their high parts, and its use. -/
def makeHint (z r : Nat) : Bool := highBits r != highBits ((r + z) % q)
def useHint (h : Bool) (r : Nat) : Nat :=
  let x := decompose r
  if !h then x.1 else if x.2.1 then (x.1 + 1) % 16 else (x.1 + 15) % 16

/-! Packing: coefficients of n bits, the least significant bit first. -/

def packBits (n : Nat) (l : List Nat) : List Byte :=
  let v := l.foldr (fun x y => x % 2 ^ n + 2 ^ n * y) 0
  (List.range (n * l.length / 8)).map fun i => .ofNat 8 (v / 256 ^ i)

def bytesNat (l : List Byte) : Nat := l.foldr (fun x n => x.toNat + 256 * n) 0

def unpackBits (n : Nat) (l : List Byte) : Poly :=
  let v := bytesNat l
  (List.range 256).map fun i => v / 2 ^ (n * i) % 2 ^ n

/-- The pieces of n bytes of a list. -/
def pieces (n : Nat) : Nat → List Byte → List (List Byte)
  | 0, _ => []
  | k + 1, l => l.take n :: pieces n k (l.drop n)

/-- A polynomial of the range of y as 20-bit fields, and back. -/
def packY (a : Poly) : List Byte := packBits 20 (a.map fun x => (gamma1 + negq x) % q)
def unpackY (l : List Byte) : Poly := (unpackBits 20 l).map fun v => (gamma1 + q - v) % q

/-! Sampling. -/

/-- The first k coefficients below q of three bytes each. -/
def rejUniform : Nat → List Byte → Poly
  | k + 1, a :: b :: c :: l =>
    let z := c.toNat % 128 * 65536 + b.toNat * 256 + a.toNat
    if z < q then z :: rejUniform k l else rejUniform (k + 1) l
  | _, _ => []

/-- The first k coefficients from −2 to 2 of half bytes. -/
def rejSmall : Nat → List Nat → Poly
  | k + 1, b :: l => if b < 15 then (q + 2 - b % 5) % q :: rejSmall k l else rejSmall (k + 1) l
  | _, _ => []

/-- Entry (r, s) of the matrix, in the transform's form. More bytes are squeezed than a run of rejections takes
(DESIGN CHOICE, log 95). -/
def matrixEntry (rho : List Byte) (r s : Nat) : Poly := rejUniform 256 (shake128 (rho ++ [.ofNat 8 s, .ofNat 8 r]) 1680)

def matrix (rho : List Byte) : List (List Poly) :=
  (List.range rows).map fun r => (List.range cols).map fun s => matrixEntry rho r s

def smallPoly (seed : List Byte) (n : Nat) : Poly :=
  rejSmall 256 ((shake256 (seed ++ [.ofNat 8 n, .ofNat 8 (n / 256)]) 544).flatMap fun b => [b.toNat % 16, b.toNat / 16])

/-- The vector y of the counter n. -/
def maskVec (seed : List Byte) (n : Nat) : List Poly :=
  (List.range cols).map fun r =>
    unpackY (shake256 (seed ++ [.ofNat 8 (n + r), .ofNat 8 ((n + r) / 256)]) 640)

/-- The challenge: from place i up, a place j at most i takes a sign and its old coefficient goes to i. -/
def ballRun (signs : Nat) : Nat → Nat → List Byte → Poly → Poly
  | k + 1, i, b :: l, c =>
    if b.toNat ≤ i then
      let c1 := (c.set i (c.getD b.toNat 0)).set b.toNat (if signs / 2 ^ (i + tau - 256) % 2 = 1 then q - 1 else 1)
      ballRun signs k (i + 1) l c1
    else ballRun signs (k + 1) i l c
  | _, _, _, c => c

def challenge (seed : List Byte) : Poly :=
  let l := shake256 seed 1360
  ballRun (bytesNat (l.take 8)) tau (256 - tau) (l.drop 8) zeroP

/-! Keys. -/

/-- The product of the matrix with a vector, both in the transform's form. -/
def mulMatrix (m : List (List Poly)) (v : List Poly) : List Poly :=
  m.map fun row => (List.zipWith mulHat row v).foldl addP zeroP

structure Key where
  rho  : List Byte
  seed : List Byte
  tr   : List Byte
  s1   : List Poly
  s2   : List Poly
  t0   : List Poly
  /-- the encoded public key -/
  pk   : List Byte
deriving DecidableEq, Repr

def keyGen (xi : List Byte) : Key :=
  let h := shake256 (xi ++ [.ofNat 8 rows, .ofNat 8 cols]) 128
  let rho := h.take 32
  let rho1 := (h.drop 32).take 64
  let s1 := (List.range cols).map fun r => smallPoly rho1 r
  let s2 := (List.range rows).map fun r => smallPoly rho1 (r + cols)
  let t := List.zipWith addP ((mulMatrix (matrix rho) (s1.map ntt)).map nttInv) s2
  let pk := rho ++ t.flatMap fun a => packBits 10 (a.map fun x => (power2Round x).1)
  { rho := rho, seed := h.drop 96, tr := shake256 pk 64, s1 := s1, s2 := s2, t0 := t.map fun a => a.map fun x => (power2Round x).2
    pk := pk }

/-! Hints. -/

def packHints (h : List (List Bool)) : List Byte :=
  let places := h.map fun l => (List.range 256).filter fun j => l.getD j false
  let all := places.flatMap id
  let ends := (List.range rows).map fun i => ((places.take (i + 1)).map (·.length)).foldl (· + ·) 0
  (all ++ List.replicate (omega - all.length) 0 ++ ends).map fun n => .ofNat 8 n

/-- Strictly rising. -/
def rising : List Nat → Bool
  | a :: b :: l => decide (a < b) && rising (b :: l)
  | _ => true

/-- The rows of hints that the bytes give, or none where they are no hints. -/
def unpackHints (l : List Byte) : Option (List (List Bool)) :=
  let y := l.map (·.toNat)
  let at_ (i : Nat) : Nat := y.getD (omega + i) 0
  let starts (i : Nat) : Nat := if i = 0 then 0 else at_ (i - 1)
  let row (i : Nat) : List Nat := ((y.take omega).take (at_ i)).drop (starts i)
  let is := List.range rows
  if is.all (fun i => decide (starts i ≤ at_ i) && decide (at_ i ≤ omega) && rising (row i))
      && ((y.take omega).drop (at_ (rows - 1))).all (· == 0) then
    some (is.map fun i => (List.range 256).map fun j => (row i).contains j)
  else none

/-! Signing and verification. -/

/-- The digest that is signed, of a message with an empty context. -/
def messageRep (tr m : List Byte) : List Byte := shake256 (tr ++ [0, 0] ++ m) 64

def packHigh (w : List Poly) : List Byte := w.flatMap fun a => packBits 4 a

/-- One attempt with the counter n: the signature, or none where it is rejected. -/
def attempt (k : Key) (mat : List (List Poly)) (mu seed : List Byte) (n : Nat) : Option (List Byte) :=
  let y := maskVec seed n
  let w := (mulMatrix mat (y.map ntt)).map nttInv
  let ct := shake256 (mu ++ packHigh (w.map fun a => a.map highBits)) 64
  let c := ntt (challenge ct)
  let times (v : List Poly) : List Poly := v.map fun a => nttInv (mulHat c (ntt a))
  let z := List.zipWith addP y (times k.s1)
  let r := List.zipWith subP w (times k.s2)
  let ct0 := times k.t0
  let h := List.zipWith (fun t r => List.zipWith (fun t r => makeHint (negq t) ((r + t) % q)) t r) ct0 r
  let ones := (h.map fun l => (l.filter id).length).foldl (· + ·) 0
  if normV z ≥ gamma1 - beta ∨ (r.foldl (fun m a => Nat.max m (lowNorm a)) 0) ≥ gamma2 - beta ∨ normV ct0 ≥ gamma2 ∨ ones > omega then none
  else some (ct ++ z.flatMap packY ++ packHints h)

/-- Attempts until one is not rejected, n at most. -/
def attempts (k : Key) (mat : List (List Poly)) (mu seed : List Byte) : Nat → Nat → Option (List Byte)
  | 0, _ => none
  | n + 1, kappa => match attempt k mat mu seed kappa with
    | some l => some l
    | none => attempts k mat mu seed n (kappa + cols)

/-- The signature of a message with the random bytes rnd: the counter has 16 bits (log 95). -/
def sign (k : Key) (m rnd : List Byte) : Option (List Byte) :=
  let mu := messageRep k.tr m
  attempts k (matrix k.rho) mu (shake256 (k.seed ++ rnd ++ mu) 64) 9362 0

/-- A signature verifies over a message under a public key. -/
def verify (pk m sig : List Byte) : Bool :=
  let t1 := (pieces 320 rows (pk.drop 32)).map (unpackBits 10)
  let ct := sig.take 64
  let z := (pieces 640 cols (sig.drop 64)).map unpackY
  match unpackHints (sig.drop (64 + 640 * cols)) with
  | none => false
  | some h =>
    let c := ntt (challenge ct)
    let az := mulMatrix (matrix (pk.take 32)) (z.map ntt)
    let w := List.zipWith (fun a t => nttInv (subP a (mulHat c (ntt (t.map fun x => x * 2 ^ dropped % q))))) az t1
    let w1 := List.zipWith (fun hs a => List.zipWith useHint hs a) h w
    decide (normV z < gamma1 - beta) && ct == shake256 (messageRep (shake256 pk 64) m ++ packHigh w1) 64
      && decide (pk.length = 2592) && decide (sig.length = 4627)

end Sys2Proof.Machine.MlDsa
end

