-- ==== Sys2Proof/Machine/Bits.lean ====
section
/-! DEFINITION. Bit fields, signed readings and narrowing of integers (02 R5, R6, R48 to R53). -/
namespace Sys2Proof.Machine

/-- The field [hi:lo] of a number (R5). -/
def field (x hi lo : Nat) : Nat := (x >>> lo) % 2 ^ (hi + 1 - lo)

/-- Bit n of a number. -/
def bit (x n : Nat) : Bool := x.testBit n

/-- 1 for true, 0 for false. -/
def b2n (b : Bool) : Nat := if b then 1 else 0

/-- The low w bits of x read as two's complement. -/
def toSigned (w x : Nat) : Int :=
  let y := x % 2 ^ w
  if 2 * y < 2 ^ w then (y : Int) else (y : Int) - (2 ^ w : Nat)

/-- The low w bits of an integer, as a number. -/
def ofInt (w : Nat) (x : Int) : Nat := (x % ((2 ^ w : Nat) : Int)).toNat

/-- x clamped to the w-bit two's complement range (R50). -/
def satI (x : Int) (w : Nat) : Int :=
  let hi : Int := (2 ^ (w - 1) : Nat)
  if x < -hi then -hi else if x > hi - 1 then hi - 1 else x

/-- x clamped to 0 to 2^w - 1 (R50). -/
def satN (x : Int) (w : Nat) : Int :=
  let hi : Int := (2 ^ w : Nat)
  if x < 0 then 0 else if x > hi - 1 then hi - 1 else x

/-- Sat32 and Sat64 (R6). -/
def sat32 (x : Int) : Int := satI x 32
def sat64 (x : Int) : Int := satI x 64

/-- BitRev(x, n): the low n bits of x in reverse order (R6). -/
def bitRev : Nat → Nat → Nat
  | _, 0 => 0
  | x, n + 1 => (x % 2) * 2 ^ n + bitRev (x / 2) n

/-- One integer result narrowed to w bits (R50): its bits, and whether saturation changed it. -/
def narrowInt (signed sat : Bool) (w : Nat) (x : Int) : Nat × Bool :=
  if sat then
    let y := if signed then satI x w else satN x w
    (ofInt w y, decide (y ≠ x))
  else (ofInt w x, false)

/-- The sum of f over 0 to n - 1. -/
def sumTo (f : Nat → Int) : Nat → Int
  | 0 => 0
  | n + 1 => sumTo f n + f n

/-- Number of one bits among the low n bits of x. -/
def popcount (x : Nat) : Nat → Nat
  | 0 => 0
  | n + 1 => popcount x n + b2n (x.testBit n)

/-- ⌈a / b⌉. -/
def ceilDiv (a b : Nat) : Nat := (a + b - 1) / b

/-- The rounding modes of R54. -/
inductive RMode | rne | rtz | sr | raz
deriving DecidableEq, Repr

/-- The 2-bit rounding field (R54). -/
def RMode.ofBits (n : Nat) : RMode :=
  match n % 4 with
  | 0 => .rne
  | 1 => .rtz
  | 2 => .sr
  | _ => .raz

/-- A magnitude m shifted right by s and rounded in `mode` with random word u: the common body of R53 and R55. -/
def roundShift (mode : RMode) (u m s : Nat) : Nat :=
  let a := m / 2 ^ s
  let r := m % 2 ^ s
  if r = 0 then a else
  match mode with
  | .rne => if 2 * r > 2 ^ s ∨ (2 * r = 2 ^ s ∧ a % 2 = 1) then a + 1 else a
  | .rtz => a
  | .raz => a + 1
  | .sr => if u < r * 2 ^ 32 / 2 ^ s then a + 1 else a

/-- ShiftRound (R53): a rounding right shift that acts on the magnitude. -/
def shiftRound (x : Int) (s : Nat) (mode : RMode) (u : Nat) : Int :=
  let m : Int := roundShift mode u x.natAbs s
  if x < 0 then -m else m

end Sys2Proof.Machine
end

