-- ==== Sys2Proof/Machine/Float.lean ====
section
/-! DEFINITION. F32 and BF16 arithmetic (02 R54 to R69): an exact value, one rounding, the flags of R64.
A BF16 operand is read through its exact widening to F32 (R58); the destination format is its number of trailing
significand bits, 23 for F32 and 7 for BF16. -/
namespace Sys2Proof.Machine

/-- The sticky flags of R64, in bits: [4] NV, [3] DZ, [2] OF, [1] UF, [0] NX. -/
abbrev Flags := BitVec 5

def Flags.nv : Flags := 16
def Flags.dz : Flags := 8
def Flags.of : Flags := 4
def Flags.uf : Flags := 2
def Flags.nx : Flags := 1

/-- A result pattern with the flags that the operation raises. -/
structure FRes where
  bits  : Nat
  flags : Flags := 0
deriving DecidableEq, Repr

/-- What an F32 pattern stands for (R57): m · 2^e for a finite one. -/
inductive FVal
  | nan
  | inf (s : Bool)
  | fin (s : Bool) (m : Nat) (e : Int)
deriving DecidableEq, Repr

/-- The value of an F32 pattern (R57). -/
def fval (x : Nat) : FVal :=
  let s := bit x 31
  let e := field x 30 23
  let t := field x 22 0
  if e = 255 then (if t = 0 then .inf s else .nan)
  else if e = 0 then .fin s t (-149)
  else .fin s (2 ^ 23 + t) ((e : Int) - 150)

/-- A BF16 pattern widened to F32 (R58). -/
def widenBF (x : Nat) : Nat := (x % 2 ^ 16) * 2 ^ 16

def isNaN32 (x : Nat) : Bool := field x 30 23 == 255 && field x 22 0 != 0
def isInf32 (x : Nat) : Bool := field x 30 23 == 255 && field x 22 0 == 0
def isZero32 (x : Nat) : Bool := x % 2 ^ 31 == 0
/-- A signalling NaN: T[22] clear (R61). -/
def isSNaN32 (x : Nat) : Bool := isNaN32 x && !bit x 22

/-- The sign bit of a destination with t trailing bits. -/
def signBit (t : Nat) (s : Bool) : Nat := b2n s * 2 ^ (t + 8)
/-- Signed infinity, largest finite value and canonical NaN of a destination (R56, R61). -/
def infBits (t : Nat) (s : Bool) : Nat := signBit t s + 255 * 2 ^ t
def maxBits (t : Nat) (s : Bool) : Nat := signBit t s + 255 * 2 ^ t - 1
def canonNaN (t : Nat) : Nat := 255 * 2 ^ t + 2 ^ (t - 1)

/-- A NaN operand delivered to a destination: sign and leading payload kept, quiet bit set (R61). -/
def quietTo (t x : Nat) : Nat :=
  let p := field x 22 0 / 2 ^ (23 - t)
  signBit t (bit x 31) + 255 * 2 ^ t + (if p.testBit (t - 1) then p else p + 2 ^ (t - 1))

/-- The first NaN among the operands, quieted (R61). -/
def firstNaNBits (t : Nat) : List Nat → Option Nat
  | [] => none
  | x :: xs => if isNaN32 x then some (quietTo t x) else firstNaNBits t xs

/-- A NaN operand decides the result; NV is raised when an operand is signalling (R61, R64). DEDUCED (log 18). -/
def firstNaN (t : Nat) (l : List Nat) : Option FRes :=
  (firstNaNBits t l).map fun b => { bits := b, flags := if l.any isSNaN32 then Flags.nv else 0 }

/-- A magnitude m · 2^e rounded to a multiple of 2^q: the multiple, and whether it is inexact. -/
def roundAt (mode : RMode) (u m : Nat) (e q : Int) : Nat × Bool :=
  if q ≤ e then (m * 2 ^ (e - q).toNat, false)
  else
    let s := (q - e).toNat
    (roundShift mode u m s, m % 2 ^ s != 0)

/-- The exact nonzero result (-1)^s · m · 2^e rounded once to a destination (R55, R56, R60, R64). DEDUCED (log 18). -/
def roundFin (t : Nat) (mode : RMode) (u : Nat) (sat s : Bool) (m : Nat) (e : Int) : FRes :=
  let lead : Int := (Nat.log2 m : Int) + e
  let q0 : Int := lead - (t : Int)
  let q : Int := max q0 (-126 - (t : Int))
  let (k, inexact) := roundAt mode u m e q
  -- overflow: the rounded magnitude reaches 2^128 (R56)
  if k ≠ 0 ∧ (Nat.log2 k : Int) + q ≥ 128 then
    { bits := if mode = .rtz then maxBits t s else if sat then maxBits t s else infBits t s
      flags := Flags.of ||| Flags.nx }
  else
    let (k0, _) := roundAt mode u m e q0
    let tiny := decide ((Nat.log2 k0 : Int) + q0 < -126)
    { bits := signBit t s + (q + (t : Int) + 126).toNat * 2 ^ t + k
      flags := if inexact then (if tiny then Flags.uf ||| Flags.nx else Flags.nx) else 0 }

/-- As roundFin, with a signed zero for m = 0. -/
def roundTo (t : Nat) (mode : RMode) (u : Nat) (sat s : Bool) (m : Nat) (e : Int) : FRes :=
  if m = 0 then { bits := signBit t s } else roundFin t mode u sat s m e

/-- A signed exact value n · 2^e rounded; `zs` is the sign of an exact zero. -/
def roundInt (t : Nat) (mode : RMode) (u : Nat) (sat zs : Bool) (n e : Int) : FRes :=
  roundTo t mode u sat (if n = 0 then zs else decide (n < 0)) n.natAbs e

/-- m as a signed integer. -/
def signedMag (s : Bool) (m : Nat) : Int := if s then -(m : Int) else m

/-- The exact sum of two finite values: an integer over 2^e. -/
def exactAdd (s1 : Bool) (m1 : Nat) (e1 : Int) (s2 : Bool) (m2 : Nat) (e2 : Int) : Int × Int :=
  let e := min e1 e2
  (signedMag s1 m1 * ((2 ^ (e1 - e).toNat : Nat) : Int) + signedMag s2 m2 * ((2 ^ (e2 - e).toNat : Nat) : Int), e)

/-- a + b on F32 patterns, rounded to the destination (R59, R60, R62). -/
def fadd (t : Nat) (mode : RMode) (u : Nat) (sat : Bool) (a b : Nat) : FRes :=
  match firstNaN t [a, b] with
  | some r => r
  | none =>
    match fval a, fval b with
    | .inf s1, .inf s2 => if s1 = s2 then { bits := infBits t s1 } else { bits := canonNaN t, flags := Flags.nv }
    | .inf s1, _ => { bits := infBits t s1 }
    | _, .inf s2 => { bits := infBits t s2 }
    | .fin s1 m1 e1, .fin s2 m2 e2 =>
      let (n, e) := exactAdd s1 m1 e1 s2 m2 e2
      roundInt t mode u sat (s1 && s2) n e
    | _, _ => { bits := canonNaN t, flags := Flags.nv }

/-- The pattern with its sign inverted. -/
def fnegBits (x : Nat) : Nat := Nat.xor (x % 2 ^ 32) (2 ^ 31)

/-- a − b; a NaN keeps its own sign (R61). -/
def fsub (t : Nat) (mode : RMode) (u : Nat) (sat : Bool) (a b : Nat) : FRes :=
  match firstNaN t [a, b] with
  | some r => r
  | none => fadd t mode u sat a (fnegBits b)

/-- a · b (R59, R60, R62). -/
def fmul (t : Nat) (mode : RMode) (u : Nat) (sat : Bool) (a b : Nat) : FRes :=
  match firstNaN t [a, b] with
  | some r => r
  | none =>
    match fval a, fval b with
    | .inf s1, .inf s2 => { bits := infBits t (s1 != s2) }
    | .inf s1, .fin s2 m _ => if m = 0 then { bits := canonNaN t, flags := Flags.nv } else { bits := infBits t (s1 != s2) }
    | .fin s1 m _, .inf s2 => if m = 0 then { bits := canonNaN t, flags := Flags.nv } else { bits := infBits t (s1 != s2) }
    | .fin s1 m1 e1, .fin s2 m2 e2 => roundTo t mode u sat (s1 != s2) (m1 * m2) (e1 + e2)
    | _, _ => { bits := canonNaN t, flags := Flags.nv }

/-- 0 · ∞ in either order. -/
def zeroTimesInf (a b : Nat) : Bool := (isZero32 a && isInf32 b) || (isInf32 a && isZero32 b)

/-- ±(a · b) ± c rounded once (R59, R62, R187): np negates the product, nc the addend. -/
def ffma (t : Nat) (mode : RMode) (u : Nat) (sat np nc : Bool) (a b c : Nat) : FRes :=
  if zeroTimesInf a b then { bits := canonNaN t, flags := Flags.nv }
  else match firstNaN t [a, b, c] with
  | some r => r
  | none =>
    let c' := if nc then fnegBits c else c
    match fval a, fval b, fval c' with
    | .fin s1 m1 e1, .fin s2 m2 e2, .fin s3 m3 e3 =>
      let sp := (s1 != s2) != np
      let (n, e) := exactAdd sp (m1 * m2) (e1 + e2) s3 m3 e3
      roundInt t mode u sat (sp && s3) n e
    | .fin _ _ _, .fin _ _ _, .inf s3 => { bits := infBits t s3 }
    | _, _, .inf s3 =>
      let sp := (bit a 31 != bit b 31) != np
      if sp = s3 then { bits := infBits t s3 } else { bits := canonNaN t, flags := Flags.nv }
    | _, _, _ => { bits := infBits t ((bit a 31 != bit b 31) != np) }

/-- An integer key that orders the non-NaN patterns, −0 below +0. -/
def orderKey (x : Nat) : Int :=
  let m : Int := (x % 2 ^ 31 : Nat)
  if bit x 31 then -m - 1 else m

/-- Minimum and maximum (R63); `t` is the destination's format. -/
def fminmax (t : Nat) (isMax : Bool) (a b : Nat) : FRes :=
  match firstNaN t [a, b] with
  | some r => r
  | none =>
    let pickA := if isMax then orderKey b ≤ orderKey a else orderKey a ≤ orderKey b
    { bits := (if pickA then a % 2 ^ 32 else b % 2 ^ 32) / 2 ^ (23 - t) }

/-- The outcome of comparing two patterns (R63). -/
inductive FOrd | lt | eq | gt | un
deriving DecidableEq, Repr

def fcompare (a b : Nat) : FOrd :=
  if isNaN32 a || isNaN32 b then .un
  else if isZero32 a && isZero32 b then .eq
  else if orderKey a < orderKey b then .lt else if orderKey a = orderKey b then .eq else .gt

/-- A signalling operand of a comparison raises NV (R63). -/
def cmpFlags (a b : Nat) : Flags := if isSNaN32 a || isSNaN32 b then Flags.nv else 0

/-- An F32 pattern rounded to a destination (R65): to F32 a copy, to BF16 one rounding. -/
def fnarrow (t : Nat) (mode : RMode) (u : Nat) (sat : Bool) (a : Nat) : FRes :=
  if t = 23 then { bits := a % 2 ^ 32 }
  else match fval a with
  | .nan => { bits := quietTo t a, flags := if isSNaN32 a then Flags.nv else 0 }
  | .inf s => { bits := infBits t s }
  | .fin s m e => roundTo t mode u sat s m e

/-- An exact integer n · 2^(−f) to a float destination (R65). -/
def fromFixed (t : Nat) (mode : RMode) (u : Nat) (sat : Bool) (n : Int) (f : Nat) : FRes :=
  roundInt t mode u sat false n (-(f : Int))

/-- A float to an integer grid of n fraction bits, w bits wide, saturating (R65): the bits and the flags. -/
def toFixed (signed : Bool) (w n : Nat) (mode : RMode) (u a : Nat) : FRes :=
  let clamp (r : Int) (nx : Bool) : FRes :=
    let y := if signed then satI r w else satN r w
    { bits := ofInt w y, flags := if y ≠ r then Flags.nv else if nx then Flags.nx else 0 }
  match fval a with
  | .nan => { bits := 0, flags := Flags.nv }
  | .inf s =>
    let big : Int := (2 ^ (w + 1) : Nat)
    clamp (if s then -big else big) false
  | .fin s m e =>
    let (k, nx) := roundAt mode u m (e + (n : Int)) 0
    clamp (signedMag s k) nx

/-- RoundInt of R91: m · 2^e to an integer magnitude. -/
def roundMag (mode : RMode) (u m : Nat) (e : Int) : Nat := (roundAt mode u m e 0).1

/-- One level of a fixed tree (R67): neighbouring nodes added in RNE to F32. -/
def treeLevel : List Nat → List Nat × Flags
  | a :: b :: t =>
    let r := fadd 23 .rne 0 false a b
    let (t', f) := treeLevel t
    (r.bits :: t', r.flags ||| f)
  | l => (l, 0)

/-- Levels of the tree until one node is left; `n` bounds their number. -/
def treeUp : Nat → List Nat → Flags → FRes
  | 0, l, f => { bits := l.headD 0, flags := f }
  | n + 1, l, f =>
    let (l', f') := treeLevel l
    treeUp n l' (f ||| f')

/-- The least d with 2^d ≥ n. -/
def log2Ceil (n : Nat) : Nat := if n ≤ 1 then 0 else Nat.log2 (n - 1) + 1

/-- TreeSum (R67): zero leaves enter as +0.0, padding to a power of two. -/
def treeSum (leaves : List Nat) : FRes :=
  let d := log2Ceil leaves.length
  let l := leaves.map fun x => if isZero32 x then 0 else x
  treeUp d (l ++ List.replicate (2 ^ d - leaves.length) 0) 0

/-! Special functions (R69): each gives an exact value, or one cut off far below the last place with its lowest bit
set (sticky). UNVERIFIED: 320 fraction bits are taken to separate every value from every rounding boundary (log 7). -/

/-- Fraction bits of the working precision of EXP2 and LOG2. -/
def fnPrec : Nat := 320

/-- Integer square root, by bits from 2^k down. -/
def isqrtGo : Nat → Nat → Nat → Nat
  | 0, _, r => r
  | k + 1, n, r => let c := r + 2 ^ k; if c * c ≤ n then isqrtGo k n c else isqrtGo k n r

def isqrt (n : Nat) : Nat := isqrtGo (Nat.log2 n / 2 + 1) n 0

/-- Σ over k from 1 of 2^p / (k · 2^k): ln 2 with p fraction bits. -/
def ln2Go : Nat → Nat → Nat → Nat
  | 0, _, _ => 0
  | k + 1, p, i => 2 ^ p / (i * 2 ^ i) + ln2Go k p (i + 1)

def ln2 (p : Nat) : Nat := ln2Go (p + 2) p 1

/-- Σ y^k / k! with p fraction bits; `term` is the k-th term. -/
def expGo : Nat → Nat → Nat → Nat → Nat → Nat
  | 0, _, _, _, _ => 0
  | f + 1, p, y, term, k => term + expGo f p y (term * y / 2 ^ p / (k + 1)) (k + 1)

/-- 2^(f / 2^j) with p fraction bits, for 0 ≤ f < 2^j. -/
def exp2Frac (p f j : Nat) : Nat :=
  let q := p + 64
  expGo 120 q (f * ln2 q / 2 ^ j) (2 ^ q) 0 / 2 ^ 64

/-- atanh series: Σ t^(2k+1) / (2k+1) with p fraction bits. -/
def atanhGo : Nat → Nat → Nat → Nat → Nat → Nat
  | 0, _, _, _, _ => 0
  | f + 1, p, t2, pw, k => pw / (2 * k + 1) + atanhGo f p t2 (pw * t2 / 2 ^ p) (k + 1)

/-- log2 of z / 2^n with p fraction bits, for 2^n ≤ z < 2^(n+1). -/
def log2Frac (p z n : Nat) : Nat :=
  let q := p + 64
  let t := (z - 2 ^ n) * 2 ^ q / (z + 2 ^ n)
  2 * atanhGo 160 q (t * t / 2 ^ q) t 0 * 2 ^ q / ln2 q / 2 ^ 64

/-- Which special function. -/
inductive SpFn | exp2 | log2 | rcp | rsqrt
deriving DecidableEq, Repr

/-- 2^x for a finite x = ±m · 2^e (R69). UNVERIFIED (log 7). -/
def exp2Fin (t : Nat) (mode : RMode) (u : Nat) (sat s : Bool) (m : Nat) (e : Int) : FRes :=
  if m = 0 then roundTo t mode u sat false 1 0
  else
    let lead : Int := (Nat.log2 m : Int) + e
    if lead ≥ 11 then roundTo t mode u sat false 1 (if s then -4096 else 4096)
    else if 0 ≤ e then roundTo t mode u sat false 1 (signedMag s (m * 2 ^ e.toNat))
    else
      let j := (-e).toNat
      let n : Int := signedMag s m / ((2 ^ j : Nat) : Int)
      let f := (signedMag s m % ((2 ^ j : Nat) : Int)).toNat
      if f = 0 then roundTo t mode u sat false 1 n
      else roundTo t mode u sat false (2 * exp2Frac fnPrec f j + 1) (n - (fnPrec : Int) - 1)

/-- log2 of a positive m · 2^e (R69). -/
def log2Fin (t : Nat) (mode : RMode) (u : Nat) (sat : Bool) (m : Nat) (e : Int) : FRes :=
  let n := Nat.log2 m
  let lead : Int := (n : Int) + e
  if m = 2 ^ n then roundInt t mode u sat false lead 0
  else
    let v : Int := lead * ((2 ^ fnPrec : Nat) : Int) + (log2Frac fnPrec m n : Int)
    let w : Int := 2 * v + 1
    roundInt t mode u sat false w (-(fnPrec : Int) - 1)

/-- 1/x of a nonzero m · 2^e: a quotient of 128 bits and a sticky bit (R69). -/
def rcpFin (t : Nat) (mode : RMode) (u : Nat) (sat s : Bool) (m : Nat) (e : Int) : FRes :=
  let k := 128 + Nat.log2 m
  let q := 2 ^ k / m
  roundTo t mode u sat s (2 * q + b2n (2 ^ k % m != 0)) (-e - (k : Int) - 1)

/-- 1/√x of a positive m · 2^e (R69). -/
def rsqrtFin (t : Nat) (mode : RMode) (u : Nat) (sat : Bool) (m : Nat) (e : Int) : FRes :=
  let m' := if e % 2 = 0 then m else 2 * m
  let e' : Int := if e % 2 = 0 then e else e - 1
  let k : Nat := 160
  let q := isqrt (2 ^ (2 * k) / m')
  roundTo t mode u sat false (2 * q + b2n (q * q * m' != 2 ^ (2 * k))) (-(e' / 2) - (k : Int) - 1)

/-- A special function of an F32 pattern, rounded once to the destination (R69). -/
def spFn (fn : SpFn) (t : Nat) (mode : RMode) (u : Nat) (sat : Bool) (a : Nat) : FRes :=
  match firstNaN t [a] with
  | some r => r
  | none =>
    match fval a, fn with
    | .nan, _ => { bits := canonNaN t, flags := Flags.nv }
    | .inf s, .exp2 => if s then { bits := 0 } else { bits := infBits t false }
    | .inf s, .log2 => if s then { bits := canonNaN t, flags := Flags.nv } else { bits := infBits t false }
    | .inf s, .rcp => { bits := signBit t s }
    | .inf s, .rsqrt => if s then { bits := canonNaN t, flags := Flags.nv } else { bits := 0 }
    | .fin s m e, .exp2 => exp2Fin t mode u sat s m e
    | .fin s m e, .log2 =>
      if m = 0 then { bits := infBits t true, flags := Flags.dz }
      else if s then { bits := canonNaN t, flags := Flags.nv } else log2Fin t mode u sat m e
    | .fin s m e, .rcp =>
      if m = 0 then { bits := infBits t s, flags := Flags.dz } else rcpFin t mode u sat s m e
    | .fin s m e, .rsqrt =>
      if m = 0 then { bits := infBits t s, flags := Flags.dz }
      else if s then { bits := canonNaN t, flags := Flags.nv } else rsqrtFin t mode u sat m e

end Sys2Proof.Machine
end

