-- ==== Sys2Proof/Config.lean ====
section
/-! DEFINITION. What the spec leaves to the part and its fuses, and the values it leaves open. Each is opaque: nothing can
evaluate it, so a statement holds whatever it is (log 2). -/
namespace Sys2Proof.Config

/-- A value the spec leaves open, by the count of such uses (State.fresh). -/
opaque freeValue : Nat → Word64

/-- The digest of Frara's public key and the least firmware version in D0's fuses (22 R432). -/
opaque fusedDigest : BitVec 512
opaque fusedVersion : Nat

/-- The fused device seed of D0, from which its identity key comes (22 R436). -/
opaque deviceSeed : BitVec 256

/-- The DER certificate of the device identity key, by byte, and its length (22 R436). -/
opaque certificateByte : Nat → Byte
opaque certificateLength : Nat

/-- The fused minimum nominal voltage in mV at a frequency in MHz (23 R445). -/
opaque minVoltage : Nat → Nat

/-- What enumeration finds on a die: its defective physical clusters, memory present as sized, GiB (22 R435, 20 R425). -/
opaque dieDefects : Nat → BitVec 18
opaque dieSized : Nat → Bool

/-- D0's ROM does not run after a power-up, by the count of free values; a die answers D0's first send (22 R430, R434). -/
opaque romFails : Nat → Bool
opaque dieAnswers : Nat → Bool

/-- Errors that a die corrects in a clock cycle (19 R388). -/
opaque correctedErrors : Nat → Nat → Word64

/-- The remap entries that firmware commits at enumeration, by die and logical cluster (22 R435, 18 R366). -/
opaque bootMap : Nat → Nat → Byte

end Sys2Proof.Config
end

