-- ==== Sys2Proof/Syntax.lean ====
section
/-! DEFINITION. The instructions, slot operations and events of the machine: one constructor for each row of
spec/opcode_table.json, with the operands its encoding carries (04 R98 to R123, 05, 08, 09, 10). -/
namespace Sys2Proof

/-- An immediate field of n bits with the payloads of the EXT syllables that follow its syllable (R105). -/
structure Imm (n : Nat) where
  base : BitVec n
  ext  : List (BitVec 25) := []
deriving DecidableEq, Repr

/-- The four streams of a task, in the order of R41. -/
inductive Str | c | m | x | v
deriving DecidableEq, Repr

/-- One test of a BTREE: its predicate, its invert bit and its target offset (R109). -/
structure BTest where
  p   : BitVec 4
  inv : BitVec 1
  off : BitVec 12
deriving DecidableEq, Repr

/-- The sub-units of the matrix stream, in the order of R113. -/
inductive SubUnit | ew | en | ar | dr | rs | pe | xa
deriving DecidableEq, Repr

/-- The value of a configuration write: a register (I = 0) or a signed immediate (I = 1) (R228, R261). -/
inductive CfgSrc
  | reg (xr : BitVec 6)
  | imm (v : BitVec 19)
deriving DecidableEq, Repr

/-- The count of a VLOOP: an immediate or a k register (R211). -/
inductive VLoopSrc
  | imm (n : BitVec 8)
  | kreg (n : BitVec 5)
deriving DecidableEq, Repr

/-- The fields of a 56-bit slot below its opcode (R119). -/
structure SlotF where
  fmt : BitVec 3 := 0
  vd  : BitVec 6 := 0
  va  : BitVec 6 := 0
  vb  : BitVec 6 := 0
  vc  : BitVec 6 := 0
  mu  : BitVec 1 := 0
  mi  : BitVec 1 := 0
  ms  : BitVec 3 := 0
  swa : BitVec 2 := 0
  swb : BitVec 2 := 0
  swc : BitVec 2 := 0
  rnd : BitVec 2 := 0
  sat : BitVec 1 := 0
  imm : BitVec 7 := 0
deriving DecidableEq, Repr

/-- A message of the fabric: its 16-byte header and its data (20 R404, R405). -/
structure Msg where
  typ  : BitVec 8
  scl  : BitVec 4 := 0
  dcl  : BitVec 4 := 0
  ch   : BitVec 2 := 0
  ddie : BitVec 6 := 0
  sdie : BitVec 6 := 0
  seq  : BitVec 20 := 0
  arg  : Word64 := 0
  data : List Byte := []
deriving DecidableEq, Repr

/-- A flit payload of a link direction, 240 bytes (20 R402). -/
structure Flit where
  payload : List Byte
deriving DecidableEq, Repr

/-- A frame at a scale-out port (20 R418): whether it is sent or received there, its type field and its payload. -/
structure PortFrame where
  sent : Bool
  etherType : BitVec 16
  flit : Flit
deriving DecidableEq, Repr

/-- One row of the opcode table each. The operations of the VA, VB, VL and VX slots carry no operands of their own: the
fields below a slot's opcode are the same for all of them (R119), and stand in the issue context while the slot acts
(Ctx.slot), as they stand in the HCW. -/
inductive Instr where
  /-- NOP (R136): Common-set syllable with no effect. -/
  | nop
  /-- END (R136): The bundle's other syllables take effect, then the stream issues nothing further. -/
  | endStream
  /-- BR (R138): Unconditional branch relative to the bundle address. -/
  | br (off : BitVec 16)
  /-- BXI (R138): Branch when a condition on a register and a signed immediate holds. -/
  | bxi (c : BitVec 3) (x : BitVec 6) (imm : Imm 6) (off : BitVec 10)
  /-- BXX (R138): Branch when a condition on two registers holds. -/
  | bxx (c : BitVec 3) (x : BitVec 6) (y : BitVec 6) (off : BitVec 10)
  /-- LOOP_REG (R139): Starts a hardware loop with its count taken from a register. -/
  | loopReg (l : BitVec 1) (r : BitVec 6) (e : BitVec 10)
  /-- LOOP_IMM (R139): Starts a hardware loop with an immediate count. -/
  | loopImm (l : BitVec 1) (n : Imm 13) (e : BitVec 10)
  /-- GATE (R144): Timed wait on a semaphore, copy channel or receive barrier, retiring no earlier than its target cycle. -/
  | gate (c : BitVec 3) (n : BitVec 5) (off : Imm 17)
  /-- CHECK (R145): Tests that a named task has retired and joins with it, or raises CHECK_FAIL. -/
  | check (l : BitVec 4) (off : BitVec 12)
  /-- SEMP (R142): Releases a semaphore by a count. -/
  | semp (m : BitVec 4) (n : BitVec 8)
  /-- SEMW (R142): Waits until a semaphore reaches a count, then acquires it. -/
  | semw (m : BitVec 4) (n : BitVec 8)
  /-- MARK (R146): Orders the stream's load and store queues. -/
  | mark
  /-- IMOV (R137): Writes a sign-extended immediate to a register. -/
  | imov (rd : BitVec 6) (imm : Imm 19)
  /-- IADD (R137): Adds a sign-extended immediate to a register. -/
  | iadd (rd : BitVec 6) (ra : BitVec 6) (imm : Imm 13)
  /-- BREAK (R147): Raises BREAK with a 16-bit code. -/
  | brk (c : BitVec 16)
  /-- SYSCALL (R147): Raises SYSCALL with a 16-bit code. -/
  | syscall (c : BitVec 16)
  /-- ADD (R148): 64-bit register addition. -/
  | add (rd : BitVec 6) (ra : BitVec 6) (rb : BitVec 6) (g : BitVec 5)
  /-- SUB (R148): 64-bit register subtraction. -/
  | sub (rd : BitVec 6) (ra : BitVec 6) (rb : BitVec 6) (g : BitVec 5)
  /-- MIN (R148): Signed minimum of two registers. -/
  | min (rd : BitVec 6) (ra : BitVec 6) (rb : BitVec 6) (g : BitVec 5)
  /-- MAX (R148): Signed maximum of two registers. -/
  | max (rd : BitVec 6) (ra : BitVec 6) (rb : BitVec 6) (g : BitVec 5)
  /-- AND (R148): Bitwise AND of two registers. -/
  | and (rd : BitVec 6) (ra : BitVec 6) (rb : BitVec 6) (g : BitVec 5)
  /-- OR (R148): Bitwise OR of two registers. -/
  | or (rd : BitVec 6) (ra : BitVec 6) (rb : BitVec 6) (g : BitVec 5)
  /-- XOR (R148): Bitwise XOR of two registers. -/
  | xor (rd : BitVec 6) (ra : BitVec 6) (rb : BitVec 6) (g : BitVec 5)
  /-- ANDN (R148): ra AND NOT rb. -/
  | andn (rd : BitVec 6) (ra : BitVec 6) (rb : BitVec 6) (g : BitVec 5)
  /-- SHL (R148): Left shift by rb[5:0]. -/
  | shl (rd : BitVec 6) (ra : BitVec 6) (rb : BitVec 6) (g : BitVec 5)
  /-- SHR (R148): Logical right shift. -/
  | shr (rd : BitVec 6) (ra : BitVec 6) (rb : BitVec 6) (g : BitVec 5)
  /-- SRA (R148): Arithmetic right shift. -/
  | sra (rd : BitVec 6) (ra : BitVec 6) (rb : BitVec 6) (g : BitVec 5)
  /-- MULH (R148): High 64 bits of the signed product. -/
  | mulh (rd : BitVec 6) (ra : BitVec 6) (rb : BitVec 6) (g : BitVec 5)
  /-- MUL (R148): Low 64 bits of the product. -/
  | mul (rd : BitVec 6) (ra : BitVec 6) (rb : BitVec 6) (g : BitVec 5)
  /-- MULHU (R148): High 64 bits of the unsigned product. -/
  | mulhu (rd : BitVec 6) (ra : BitVec 6) (rb : BitVec 6) (g : BitVec 5)
  /-- MINU (R148): Unsigned minimum of two registers. -/
  | minu (rd : BitVec 6) (ra : BitVec 6) (rb : BitVec 6) (g : BitVec 5)
  /-- MAXU (R148): Unsigned maximum of two registers. -/
  | maxu (rd : BitVec 6) (ra : BitVec 6) (rb : BitVec 6) (g : BitVec 5)
  /-- ANDI (R149): AND with a signed immediate. -/
  | andi (rd : BitVec 6) (ra : BitVec 6) (imm : Imm 6) (g : BitVec 5)
  /-- ORI (R149): OR with a signed immediate. -/
  | ori (rd : BitVec 6) (ra : BitVec 6) (imm : Imm 6) (g : BitVec 5)
  /-- XORI (R149): XOR with a signed immediate. -/
  | xori (rd : BitVec 6) (ra : BitVec 6) (imm : Imm 6) (g : BitVec 5)
  /-- MULI (R149): Low 64 bits of the product with an immediate. -/
  | muli (rd : BitVec 6) (ra : BitVec 6) (imm : Imm 6) (g : BitVec 5)
  /-- SHLI (R149): Left shift by an immediate count. -/
  | shli (rd : BitVec 6) (ra : BitVec 6) (imm : BitVec 6) (g : BitVec 5)
  /-- SHRI (R149): Logical right shift by an immediate count. -/
  | shri (rd : BitVec 6) (ra : BitVec 6) (imm : BitVec 6) (g : BitVec 5)
  /-- SRAI (R149): Arithmetic right shift by an immediate count. -/
  | srai (rd : BitVec 6) (ra : BitVec 6) (imm : BitVec 6) (g : BitVec 5)
  /-- MINI (R149): Signed minimum with an immediate. -/
  | mini (rd : BitVec 6) (ra : BitVec 6) (imm : Imm 6) (g : BitVec 5)
  /-- MAXI (R149): Signed maximum with an immediate. -/
  | maxi (rd : BitVec 6) (ra : BitVec 6) (imm : Imm 6) (g : BitVec 5)
  /-- MINUI (R149): Unsigned minimum with the sign-extended immediate. -/
  | minui (rd : BitVec 6) (ra : BitVec 6) (imm : Imm 6) (g : BitVec 5)
  /-- MAXUI (R149): Unsigned maximum with the sign-extended immediate. -/
  | maxui (rd : BitVec 6) (ra : BitVec 6) (imm : Imm 6) (g : BitVec 5)
  /-- SUBFI (R149): Immediate minus register. -/
  | subfi (rd : BitVec 6) (ra : BitVec 6) (imm : Imm 6) (g : BitVec 5)
  /-- CMP (R150): Compares two registers and writes a predicate. -/
  | cmp (pd : BitVec 4) (ra : BitVec 6) (rb : BitVec 6) (c : BitVec 4) (g : BitVec 5)
  /-- CMPI (R150): Compares a register with an immediate and writes a predicate. -/
  | cmpi (pd : BitVec 4) (ra : BitVec 6) (imm : Imm 6) (c : BitVec 4) (g : BitVec 5)
  /-- PAND (R151): Predicate AND. -/
  | pand (rd : BitVec 4) (ra : BitVec 4) (rb : BitVec 4) (g : BitVec 5)
  /-- POR (R151): Predicate OR. -/
  | por (rd : BitVec 4) (ra : BitVec 4) (rb : BitVec 4) (g : BitVec 5)
  /-- PXOR (R151): Predicate XOR. -/
  | pxor (rd : BitVec 4) (ra : BitVec 4) (rb : BitVec 4) (g : BitVec 5)
  /-- PANDN (R151): Predicate AND NOT. -/
  | pandn (rd : BitVec 4) (ra : BitVec 4) (rb : BitVec 4) (g : BitVec 5)
  /-- PNOT (R151): Predicate NOT. -/
  | pnot (rd : BitVec 4) (ra : BitVec 4) (g : BitVec 5)
  /-- PGET (R151): Packs all predicates into a scalar register. -/
  | pget (rd : BitVec 6) (g : BitVec 5)
  /-- PPUT (R151): Writes p1 to p15 from bits of a scalar register. -/
  | pput (ra : BitVec 6) (g : BitVec 5)
  /-- BTREE (R152): Multi-way branch to the target of the first true predicate test. -/
  | btree (t : List BTest)
  /-- BRC (R153): Guarded relative branch. -/
  | brc (off : BitVec 16) (g : BitVec 5)
  /-- JAL (R153): Guarded call: writes the return address to s63 and branches. -/
  | jal (off : BitVec 16) (g : BitVec 5)
  /-- JALR (R153): Guarded indirect call or return through a register. -/
  | jalr (ra : BitVec 6) (off : BitVec 10) (g : BitVec 5)
  /-- LDB (R154): Loads a sign-extended byte from the data scratchpad. -/
  | ldb (rd : BitVec 6) (ra : BitVec 6) (off : Imm 5) (g : BitVec 5)
  /-- LDBU (R154): Loads a zero-extended byte. -/
  | ldbu (rd : BitVec 6) (ra : BitVec 6) (off : Imm 5) (g : BitVec 5)
  /-- LDH (R154): Loads a sign-extended half-word. -/
  | ldh (rd : BitVec 6) (ra : BitVec 6) (off : Imm 5) (g : BitVec 5)
  /-- LDHU (R154): Loads a zero-extended half-word. -/
  | ldhu (rd : BitVec 6) (ra : BitVec 6) (off : Imm 5) (g : BitVec 5)
  /-- LDW (R154): Loads a sign-extended word. -/
  | ldw (rd : BitVec 6) (ra : BitVec 6) (off : Imm 5) (g : BitVec 5)
  /-- LDWU (R154): Loads a zero-extended word. -/
  | ldwu (rd : BitVec 6) (ra : BitVec 6) (off : Imm 5) (g : BitVec 5)
  /-- LDD (R154): Loads a double word. -/
  | ldd (rd : BitVec 6) (ra : BitVec 6) (off : Imm 5) (g : BitVec 5)
  /-- STB (R154): Stores a byte to the data scratchpad. -/
  | stb (rs : BitVec 6) (ra : BitVec 6) (off : Imm 5) (g : BitVec 5)
  /-- STH (R154): Stores a half-word. -/
  | sth (rs : BitVec 6) (ra : BitVec 6) (off : Imm 5) (g : BitVec 5)
  /-- STW (R154): Stores a word. -/
  | stw (rs : BitVec 6) (ra : BitVec 6) (off : Imm 5) (g : BitVec 5)
  /-- STD (R154): Stores a double word. -/
  | std (rs : BitVec 6) (ra : BitVec 6) (off : Imm 5) (g : BitVec 5)
  /-- AMOADD (R155): Scratchpad atomic add, returning the old value. -/
  | amoadd (rd : BitVec 6) (ra : BitVec 6) (rb : BitVec 6) (w : BitVec 1)
  /-- AMOAND (R155): Scratchpad atomic AND. -/
  | amoand (rd : BitVec 6) (ra : BitVec 6) (rb : BitVec 6) (w : BitVec 1)
  /-- AMOOR (R155): Scratchpad atomic OR. -/
  | amoor (rd : BitVec 6) (ra : BitVec 6) (rb : BitVec 6) (w : BitVec 1)
  /-- AMOXOR (R155): Scratchpad atomic XOR. -/
  | amoxor (rd : BitVec 6) (ra : BitVec 6) (rb : BitVec 6) (w : BitVec 1)
  /-- AMOMIN (R155): Scratchpad atomic signed minimum. -/
  | amomin (rd : BitVec 6) (ra : BitVec 6) (rb : BitVec 6) (w : BitVec 1)
  /-- AMOMAX (R155): Scratchpad atomic signed maximum. -/
  | amomax (rd : BitVec 6) (ra : BitVec 6) (rb : BitVec 6) (w : BitVec 1)
  /-- AMOMINU (R155): Scratchpad atomic unsigned minimum. -/
  | amominu (rd : BitVec 6) (ra : BitVec 6) (rb : BitVec 6) (w : BitVec 1)
  /-- AMOMAXU (R155): Scratchpad atomic unsigned maximum. -/
  | amomaxu (rd : BitVec 6) (ra : BitVec 6) (rb : BitVec 6) (w : BitVec 1)
  /-- AMOSWAP (R155): Scratchpad atomic swap. -/
  | amoswap (rd : BitVec 6) (ra : BitVec 6) (rb : BitVec 6) (w : BitVec 1)
  /-- AMOCAS (R155): Scratchpad atomic compare-and-swap. -/
  | amocas (rd : BitVec 6) (ra : BitVec 6) (rb : BitVec 6) (w : BitVec 1)
  /-- CRR (R156): Reads a 32-bit control register of the cluster or die block. -/
  | crr (r : BitVec 6) (k : BitVec 3) (w : BitVec 13)
  /-- CRRD (R156): Reads a 64-bit control register atomically. -/
  | crrd (r : BitVec 6) (k : BitVec 3) (w : BitVec 13)
  /-- CRW (R156): Writes RW and W1C fields of a cluster control register. -/
  | crw (r : BitVec 6) (k : BitVec 3) (w : BitVec 13)
  /-- KRD (R156): Reads a task parameter register. -/
  | krd (r : BitVec 6) (k : BitVec 5)
  /-- KWR (R156): Writes a task parameter register, visible from the next cycle. -/
  | kwr (r : BitVec 6) (k : BitVec 5)
  /-- SEEDR (R156): Reads 64 bits of SEEDK. -/
  | seedr (r : BitVec 6) (j : BitVec 2)
  /-- SEEDW (R156): Writes 64 bits of SEEDK. -/
  | seedw (r : BitVec 6) (j : BitVec 2)
  /-- LRD (R158): Reads a committed loop register. -/
  | lrd (r : BitVec 6) (l : BitVec 3)
  /-- LWR (R141): Writes a loop register directly or into its pending shadow. -/
  | lwr (r : BitVec 6) (l : BitVec 3)
  /-- WAITX (R159): Waits until a channel's watermark passes a transfer identifier. -/
  | waitx (c : BitVec 2) (r : BitVec 6)
  /-- TESTX (R159): Sets a predicate to whether a transfer is done, without waiting. -/
  | testx (c : BitVec 2) (r : BitVec 6) (pd : BitVec 4)
  /-- FENCE_T (R309): Waits for task-scope operations and earlier accesses. -/
  | fenceT
  /-- FENCE_D (R309): Waits for die-scope or narrower operations. -/
  | fenceD
  /-- FENCE_M (R309): Waits for module-scope or narrower operations. -/
  | fenceM
  /-- FENCE_S (R309): Waits for all operations and for host visibility of host writes. -/
  | fenceS
  /-- IFENCE (R161): Waits for earlier instruction-scratchpad writes to land. -/
  | ifence
  /-- ISWAP (R161): IFENCE, then toggles ISCTL.SWAPPED. -/
  | iswap
  /-- MHDR (R114): Header bundle: issues the current operation of every sub-unit 1 + REP times, stepping addresses. -/
  | mhdr (chg : BitVec 7) (rep : BitVec 12)
  /-- MIDLE (R222): Makes a sub-unit's current operation IDLE. -/
  | midle (u : SubUnit)
  /-- WCODE (R223): Binds a west tile of raw stream codes. -/
  | wcode (xr : BitVec 6) (rm1 : BitVec 8) (pitch : BitVec 16)
  /-- WCVT (R223): Binds a west tile of binary elements converted at pass setup. -/
  | wcvt (xr : BitVec 6) (rm1 : BitVec 8) (fmt : BitVec 4) (rnd : BitVec 2) (pitch : BitVec 16)
  /-- WC4 (R223): Binds a west tile of C4 indices converted through a codebook. -/
  | wc4 (xr : BitVec 6) (rm1 : BitVec 8) (cb : BitVec 2) (pitch : BitVec 16)
  /-- NLD (R225): Loads and converts north codes into the shadow plane. -/
  | nld (xr : BitVec 6) (kind : BitVec 2) (fmt : BitVec 4) (rnd : BitVec 2) (cb : BitVec 2) (nm1 : BitVec 16)
  /-- NSWP (R226): Exchanges the active and shadow north planes. -/
  | nswp
  /-- CBLD (R227): Loads a codebook and converts its entries to codes. -/
  | cbld (xr : BitVec 6) (cbk : BitVec 2) (ssel : BitVec 1)
  /-- MCFG (R228): Writes a matrix-stream configuration register at the end of the repetition. -/
  | mcfg (sel : BitVec 5) (src : CfgSrc)
  /-- PASS (R229): Starts a stream-array pass over K terms and active columns. -/
  | pass (stop : BitVec 2) (c0 : BitVec 8) (c1 : BitVec 8) (xr : BitVec 6) (km1 : BitVec 16)
  /-- MWAIT (R233): Joins all earlier M and PE operations and reads PSTAT. -/
  | mwait (xd : BitVec 6)
  /-- DRN (R235): Drains 64 rows of counters into an accumulator bank, with optional absmax merge and semaphore. -/
  | drn (a : BitVec 6) (acc : BitVec 1) (am : BitVec 1) (pool : BitVec 1) (xr : BitVec 6) (se : BitVec 1) (sem : BitVec 4)
  /-- DRV (R236): Drains counters into a lent vector bank. -/
  | drv (k : BitVec 2) (half : BitVec 1) (c0 : BitVec 8)
  /-- ACLR (R237): Clears an accumulator bank. -/
  | aclr (b : BitVec 4)
  /-- RSTAT (R239): Computes row maximum, sum and sum of squares and reserves a statistics queue entry. -/
  | rstat (r0 : BitVec 10) (nm1 : BitVec 7) (c0 : BitVec 8) (c1 : BitVec 8)
  /-- SKW (R240): Binds or unbinds the west skep list. -/
  | skw (xr : BitVec 6) (off : BitVec 1)
  /-- SKN (R240): Binds or unbinds the north skep list. -/
  | skn (xr : BitVec 6) (off : BitVec 1)
  /-- PCFG (R261): Writes a pair configuration register. -/
  | pcfg (sel : BitVec 5) (src : CfgSrc)
  /-- PCELL (R262): Sweeps home cells of a cell list, evaluating pair forces and/or lists. -/
  | pcell (xr : BitVec 6) (st : BitVec 1) (out : BitVec 2) (se : BitVec 1) (sem : BitVec 4) (nhm1 : BitVec 18)
  /-- PSETS (R262): Evaluates all pairs of two index ranges. -/
  | psets (xr : BitVec 6) (st : BitVec 1) (out : BitVec 2) (se : BitVec 1) (sem : BitVec 4) (nam1 : BitVec 12) (nbm1 : BitVec 12)
  /-- PCIDX (R263): Computes cell numbers of particles. -/
  | pcidx (xr : BitVec 6) (nm1 : BitVec 16)
  /-- PACLR (R263): Clears particle accumulators. -/
  | paclr (xr : BitVec 6) (nm1 : BitVec 16)
  /-- COPY (R278): Copies a tensor between shapes. -/
  | copy (c : BitVec 2) (rd : BitVec 4) (rs : BitVec 4) (v : BitVec 1) (imm : BitVec 3) (u : Imm 11)
  /-- CVT (R278): Copies with format conversion, including to stream codes with skep appends. -/
  | cvt (c : BitVec 2) (rd : BitVec 4) (rs : BitVec 4) (r : BitVec 2) (t : BitVec 1) (v : BitVec 1) (imm : BitVec 3) (u : Imm 8)
  /-- XPOSE (R278): Copies with dimensions 0 and 1 transposed. -/
  | xpose (c : BitVec 2) (rd : BitVec 4) (rs : BitVec 4) (v : BitVec 1) (imm : BitVec 3) (u : Imm 11)
  /-- CMPR (R280): Compresses tiles into a compressed region. -/
  | cmpr (c : BitVec 2) (k : BitVec 2) (h : BitVec 4) (x : BitVec 6) (v : BitVec 1) (imm : BitVec 3) (u : Imm 6)
  /-- EXPD (R280): Expands tiles from a compressed region. -/
  | expd (c : BitVec 2) (k : BitVec 2) (h : BitVec 4) (x : BitVec 6) (v : BitVec 1) (imm : BitVec 3) (u : Imm 6)
  /-- DECODE (R282): Decodes an entropy-coded block into 4-bit symbols and checks its CRC. -/
  | decode (c : BitVec 2) (rd : BitVec 4) (rs : BitVec 4) (k : BitVec 2) (v : BitVec 1) (imm : BitVec 3) (u : Imm 9)
  /-- SEND (R285): Sends packed elements to a cluster's scratchpad, counted by a receive barrier. -/
  | send (c : BitVec 2) (rs : BitVec 4) (x : BitVec 6) (v : BitVec 1) (imm : BitVec 3) (u : Imm 9)
  /-- RECV (R286): Arms a receive barrier with a byte count and due cycle. -/
  | recv (rb : BitVec 5) (x : BitVec 6) (u : Imm 14)
  /-- RAMO_ADD (R288): Remote atomic add at a module address. -/
  | ramoAdd (c : BitVec 2) (w : BitVec 1) (ra : BitVec 3) (v : BitVec 3) (r : BitVec 3) (n : BitVec 1) (u : Imm 8)
  /-- RAMO_AND (R288): Remote atomic AND. -/
  | ramoAnd (c : BitVec 2) (w : BitVec 1) (ra : BitVec 3) (v : BitVec 3) (r : BitVec 3) (n : BitVec 1) (u : Imm 8)
  /-- RAMO_OR (R288): Remote atomic OR. -/
  | ramoOr (c : BitVec 2) (w : BitVec 1) (ra : BitVec 3) (v : BitVec 3) (r : BitVec 3) (n : BitVec 1) (u : Imm 8)
  /-- RAMO_XOR (R288): Remote atomic XOR. -/
  | ramoXor (c : BitVec 2) (w : BitVec 1) (ra : BitVec 3) (v : BitVec 3) (r : BitVec 3) (n : BitVec 1) (u : Imm 8)
  /-- RAMO_MIN (R288): Remote atomic signed minimum. -/
  | ramoMin (c : BitVec 2) (w : BitVec 1) (ra : BitVec 3) (v : BitVec 3) (r : BitVec 3) (n : BitVec 1) (u : Imm 8)
  /-- RAMO_MAX (R288): Remote atomic signed maximum. -/
  | ramoMax (c : BitVec 2) (w : BitVec 1) (ra : BitVec 3) (v : BitVec 3) (r : BitVec 3) (n : BitVec 1) (u : Imm 8)
  /-- RAMO_MINU (R288): Remote atomic unsigned minimum. -/
  | ramoMinu (c : BitVec 2) (w : BitVec 1) (ra : BitVec 3) (v : BitVec 3) (r : BitVec 3) (n : BitVec 1) (u : Imm 8)
  /-- RAMO_MAXU (R288): Remote atomic unsigned maximum. -/
  | ramoMaxu (c : BitVec 2) (w : BitVec 1) (ra : BitVec 3) (v : BitVec 3) (r : BitVec 3) (n : BitVec 1) (u : Imm 8)
  /-- RAMO_SWAP (R288): Remote atomic swap. -/
  | ramoSwap (c : BitVec 2) (w : BitVec 1) (ra : BitVec 3) (v : BitVec 3) (r : BitVec 3) (n : BitVec 1) (u : Imm 8)
  /-- RAMO_CAS (R288): Remote atomic compare-and-swap. -/
  | ramoCas (c : BitVec 2) (w : BitVec 1) (ra : BitVec 3) (v : BitVec 3) (r : BitVec 3) (n : BitVec 1) (u : Imm 8)
  /-- XWAIT (R289): Waits until a transfer of a channel is done. -/
  | xwait (c : BitVec 2) (x : BitVec 6)
  /-- XWAITB (R289): Waits until a receive barrier is seen ZERO. -/
  | xwaitb (rb : BitVec 5)
  /-- XFENCE (R289): Waits for every transfer issued so far on a channel. -/
  | xfence (c : BitVec 2)
  /-- XNEXT (R289): Reads a channel's NEXTID. -/
  | xnext (c : BitVec 2) (rd : BitVec 6)
  /-- SHW (R277): Writes one word of a shape register. -/
  | shw (k : BitVec 4) (w : BitVec 2) (x : BitVec 6)
  /-- XCFG (R277): Writes an X-stream configuration register. -/
  | xcfg (rs : BitVec 5) (x : BitVec 6)
  /-- LDHCW (R283): Loads raw bytes into the HCW table. -/
  | ldhcw (c : BitVec 2) (rs : BitVec 4) (x : BitVec 6) (v : BitVec 1) (imm : BitVec 3) (u : Imm 7)
  /-- LDPLN (R283): Loads raw codes into the shadow north plane. -/
  | ldpln (c : BitVec 2) (rs : BitVec 4) (x : BitVec 6) (v : BitVec 1) (imm : BitVec 3) (u : Imm 7)
  /-- LDPAIR (R283): Loads raw bytes into pair memory. -/
  | ldpair (c : BitVec 2) (rs : BitVec 4) (x : BitVec 6) (v : BitVec 1) (imm : BitVec 3) (u : Imm 7)
  /-- V_INSTRUCTION (R170): Issues an HCW 1 + REP times, with rotation and stage shift at each issue end. -/
  | vInstruction (h : BitVec 9) (r : BitVec 3) (o : BitVec 1) (t : BitVec 1)
  /-- VEND (R216): Ends the V stream. -/
  | vend
  /-- VBR (R213): Unconditional V branch. -/
  | vbr (off : BitVec 17)
  /-- VBRM (R213): V branch on a mask condition. -/
  | vbrm (j : BitVec 3) (cond : BitVec 2) (off : BitVec 13)
  /-- VLOOP (R212): Starts a V hardware loop. -/
  | vloop (l : BitVec 1) (src : VLoopSrc) (e : BitVec 8)
  /-- VLWR (R212): Writes a V loop register from a k register. -/
  | vlwr (reg : BitVec 3) (k : BitVec 5)
  /-- VSEMP (R214): V semaphore release. -/
  | vsemp (sem : BitVec 4) (n : BitVec 8)
  /-- VSEMW (R214): V semaphore wait and acquire. -/
  | vsemw (sem : BitVec 4) (n : BitVec 8)
  /-- VGATE (R214): V timed gate. -/
  | vgate (cls : BitVec 3) (obj : BitVec 5) (off : BitVec 10)
  /-- VMARK (R214): Orders the V load and store queues. -/
  | vmark
  /-- BLEND (R208): Lends a vector bank to the matrix drain. -/
  | blend (k : BitVec 2)
  /-- BRET (R209): Takes back a lent bank once its M writes complete. -/
  | bret (k : BitVec 2)
  /-- STATRX (R215): Receives the oldest row-statistics entry into three registers. -/
  | statrx (vd : BitVec 6)
  /-- VBRK (R216): Raises BREAK from the V stream. -/
  | vbrk (code : BitVec 16)
  /-- RESULT_LAND (R173): A vector result becomes visible and sets its flags in its landing cycle. -/
  | resultLand
  /-- PASS_END (R232): A pass leaves its hold phase; counters become draining, PSTAT written. -/
  | passEnd
  /-- DRAIN_COMPLETE (R235): A drain finishes: merge, semaphore release, possible ACC_SATURATE. -/
  | drainComplete
  /-- ACLR_COMPLETE (R237): An accumulator clear finishes and the bank busy bit clears. -/
  | aclrComplete
  /-- NLD_COMPLETE (R225): A north plane load finishes. -/
  | nldComplete
  /-- RSTAT_COMPLETE (R239): Row statistics finish and the queue entry becomes receivable. -/
  | rstatComplete
  /-- PE_BLOCK (R457): A pair block makes its reads, adds, edges and counts in its cost cycle. -/
  | peBlock
  /-- PE_COMPLETE (R245): A pair operation completes, releasing its semaphore. -/
  | peComplete
  /-- TRANSFER_PIECE (R274): One piece of at most 64 bytes of a transfer moves. -/
  | transferPiece (ch : BitVec 2) (id : Word32)
  /-- TRANSFER_COMPLETE (R268): A transfer completes and the channel watermark advances. -/
  | transferComplete (ch : BitVec 2) (id : Word32)
  /-- BUDGET_CYCLE (R34): A locked transfer's budget cycle arrives: completion observable or overrun. -/
  | budgetCycle (ch : BitVec 2) (id : Word32)
  /-- GATE_TARGET_CYCLE (R144): A gate's target cycle arrives: it retires, raises TIMING_MISS or overruns. -/
  | gateTargetCycle (st : BitVec 2)
  /-- TASK_RETIRE (R27): A task whose streams ended and queues drained retires. -/
  | taskRetire
  /-- DOORBELL (R355): Host write of QTAIL, refused with TERR on overflow. -/
  | doorbell (die : BitVec 6) (q : BitVec 8) (v : BitVec 16)
  /-- QUEUE_CONTROL_WRITE (R356): Write of EN, WGT or PRI, refused with WERR if weights exceed 256. -/
  | queueControlWrite (die : BitVec 6) (q : BitVec 8) (v : Word32)
  /-- ENTRY_NOP (R357): A NOP queue entry is admitted and completes with status 0. -/
  | entryNop (die : BitVec 6) (q : BitVec 8)
  /-- LAUNCH (R361): The sequencer admits a LAUNCH entry after checks and claims its dies. -/
  | launch (die : BitVec 6) (q : BitVec 8)
  /-- DIE_IMAGE_LOAD (R364): A die loads a task's instruction halves and images once its cluster is free. -/
  | dieImageLoad (lead : BitVec 6) (slot : BitVec 6) (die : BitVec 6) (ord : BitVec 12)
  /-- FIRST_TICK (R365): D0 issues the job's first tick T0 once loads finish. -/
  | firstTick (lead : BitVec 6) (slot : BitVec 6)
  /-- TASK_START (R365): A task starts at its start cycle with TASKCYC 0. -/
  | taskStart (lead : BitVec 6) (slot : BitVec 6) (die : BitVec 6) (ord : BitVec 12)
  /-- REMAP_STAGE (R366): Firmware stages one remap-table entry. -/
  | remapStage (die : BitVec 6) (v : Word32)
  /-- REMAP_COMMIT (R366): Firmware commits the staged remap table, if legal. -/
  | remapCommit (die : BitVec 6) (v : Word32)
  /-- SLICE_QUANTUM (R16): The resident hosted cluster reaches 65,536 logical cycles. -/
  | sliceQuantum (die : BitVec 6) (cl : BitVec 4)
  /-- SLICE_SWITCH (R16): A doubled physical cluster saves the resident and loads the other hosted cluster. -/
  | sliceSwitch (die : BitVec 6) (phys : BitVec 5)
  /-- PREEMPT_REQUEST (R368): Firmware requests a save of a shared-mode cluster. -/
  | preemptRequest (die : BitVec 6) (cl : BitVec 4)
  /-- CONTEXT_SAVE (R369): A save is served at a bundle boundary and writes the context image. -/
  | contextSave (die : BitVec 6) (cl : BitVec 4)
  /-- CONTEXT_RESTORE (R370): A restore request loads a context image into its cluster. -/
  | contextRestore (die : BitVec 6) (cl : BitVec 4)
  /-- JOB_SAVE_REQUEST (R371): Firmware requests a whole locked job be saved. -/
  | jobSaveRequest (lead : BitVec 6) (slot : BitVec 6)
  /-- JOB_SAVE (R371): At the next step boundary every task of the locked job is saved. -/
  | jobSave (lead : BitVec 6) (slot : BitVec 6)
  /-- JOB_RESUME (R371): Every image of the saved locked job is restored and the tick issued. -/
  | jobResume (lead : BitVec 6) (slot : BitVec 6)
  /-- RESUME (R385): Firmware resumes a faulted task, optionally with XDONE or SERVED marks. -/
  | resume (die : BitVec 6) (cl : BitVec 4) (xdone : Bool) (served : Bool)
  /-- ABORT (R386): Firmware ends a frozen task. -/
  | abort (die : BitVec 6) (cl : BitVec 4)
  /-- REPLAY (R393): Firmware rolls the job back to the start of its step. -/
  | replay (die : BitVec 6) (cl : BitVec 4)
  /-- INVALIDATE_PAGE (R381): Invalidates translation entries mapping one virtual page. -/
  | invalidatePage (die : BitVec 6) (va : BitVec 52) (q : BitVec 8) (alld : Bool)
  /-- INVALIDATE_ROOT (R381): Invalidates all translation entries of a root. -/
  | invalidateRoot (die : BitVec 6) (q : BitVec 8) (alld : Bool)
  /-- INVALIDATE_ALL (R381): Invalidates all translation entries. -/
  | invalidateAll (die : BitVec 6) (alld : Bool)
  /-- STEP_END (R389): Every task of the job reaches the end of the step and the step ends. -/
  | stepEnd (lead : BitVec 6) (slot : BitVec 6)
  /-- COMMIT_RELEASE (R396): The commit buffer is released in order after the step's transfers complete. -/
  | commitRelease (lead : BitVec 6) (slot : BitVec 6)
  /-- TICK_ISSUE (R415): D0 issues a job's next tick once every DONE has arrived. -/
  | tickIssue (lead : BitVec 6) (slot : BitVec 6)
  /-- TICK_ACT (R415): Dies act on a tick 256 clock cycles after issue, ending held-tick freezes. -/
  | tickAct (lead : BitVec 6) (slot : BitVec 6)
  /-- WRITE (R405): Write request message performed at its home and answered by ACK. -/
  | write (m : Msg)
  /-- READ_REQ (R405): Read request message answered by READ_DATA. -/
  | readReq (m : Msg)
  /-- READ_DATA (R405): Read response message. -/
  | readData (m : Msg)
  /-- ATOMIC (R408): Atomic request executed once at the owning die, deduplicated by window. -/
  | atomic (m : Msg)
  /-- ATOMIC_RSP (R405): Atomic response carrying the old value. -/
  | atomicRsp (m : Msg)
  /-- SEND_MESSAGE (R286): A SEND piece lands and is counted against a receive barrier, or is nacked. -/
  | sendMessage (m : Msg)
  /-- ACK (R405): Acknowledgement of a write or send. -/
  | ack (m : Msg)
  /-- NACK (R287): Refusal of a send piece, with retry or fault at the sender. -/
  | nack (m : Msg)
  /-- TICK (R415): Tick message distributed from D0. -/
  | tick (m : Msg)
  /-- DONE (R415): Message telling D0 that a die completed a period. -/
  | done (m : Msg)
  /-- NACK_RETRY (R287): A nacked piece is retried after 1,024 clock cycles, faulting after 64 nacks. -/
  | nackRetry (die : BitVec 6) (seq : BitVec 20)
  /-- FLIT_RECEIVE (R403): A flit arrives and is accepted, discarded or treated as not received. -/
  | flitReceive (die : BitVec 6) (j : BitVec 2) (f : Flit) (crcOk : Bool)
  /-- LINK_RETRAIN (R410): A link with 8 CRC failures retrains at 32 lanes. -/
  | linkRetrain (die : BitVec 6) (j : BitVec 2)
  /-- LINK_TRAINED (R399): A link completes training at its width. -/
  | linkTrained (die : BitVec 6) (j : BitVec 2) (width : BitVec 7)
  /-- LINK_DOWN (R411): A narrow link fails and goes down; traffic is held. -/
  | linkDown (die : BitVec 6) (j : BitVec 2)
  /-- TRAFFIC_HOLD_END (R409): After 65,536 clock cycles dies take new routes and resend. -/
  | trafficHoldEnd
  /-- SCALEOUT_FRAME (R418): An exchange frame on a scale-out port. -/
  | scaleoutFrame (port : BitVec 4) (f : PortFrame)
  /-- HOST_WRITE (R294): A host write through a BAR, performed or dropped with an event. -/
  | hostWrite (port : Bool) (bar : BitVec 2) (off : Nat) (data : List Byte)
  /-- HOST_READ (R294): A host read through a BAR window. -/
  | hostRead (port : Bool) (bar : BitVec 2) (off : Nat) (n : Nat)
  /-- REGISTER_WRITE (R5): A write to a register with no row of its own, by its access codes. -/
  | registerWrite (who : BitVec 2) (addr : BitVec 52) (len : BitVec 4) (v : Word64)
  /-- POWER_UP (R430): The 48 V input rises; dies reset and D0 runs its boot ROM. -/
  | powerUp
  /-- POWER_LOSS (R437): Loss of the 48 V input loses everything. -/
  | powerLoss
  /-- FW_DOWNLOAD (R433): GO reads and verifies a firmware image. -/
  | fwDownload (port : Bool)
  /-- DIE_ANSWER_TIMEOUT (R434): A die not answering within 2^24 clock cycles counts as absent. -/
  | dieAnswerTimeout (die : BitVec 6)
  /-- ENUMERATION (R435): Firmware sizes memories, commits remaps, publishes topology and reaches RUNNING. -/
  | enumeration
  /-- ATTESTATION (R436): ATT writes a signed attestation report. -/
  | attestation (port : Bool)
  /-- CERTIFICATE (R436): CERT writes the identity key and its certificate. -/
  | certificate (port : Bool)
  /-- CURRENT_MEASURE (R439): Every 64 clock cycles each physical cluster measures its current. -/
  | currentMeasure (die : BitVec 6)
  /-- FREQ_REQUEST (R445): Firmware posts a frequency and voltage request to the mailbox. -/
  | freqRequest (die : BitVec 6) (v : Word32)
  /-- FREQ_RAMP (R446): A pending request starts its voltage ramp. -/
  | freqRamp
  /-- FREQ_SWITCH (R446): The clock switches frequency, in locked mode at a common tick. -/
  | freqSwitch
  /-- VOFF_WRITE (R447): Firmware sets a domain's undervolt offset, clamped to 100 mV. -/
  | voffWrite (die : BitVec 6) (dom : BitVec 4) (v : Word32)
  /-- SNAP_BACK (R448): An uncorrectable SRAM error in an undervolted domain snaps the voltage back and freezes the domain. -/
  | snapBack (die : BitVec 6) (phys : BitVec 5) (addr : BitVec 52)
  /-- SNAP_SETTLE (R448): Layers settle; SNAP clears and the replay is requested. -/
  | snapSettle (die : BitVec 6) (dom : BitVec 4)
  /-- GOVERNOR_ENABLE (R454): GOVEN set: firmware reads the governor table. -/
  | governorEnable
  /-- GOVERNOR_CLEAN_DAY (R455): After 24 h without snap-back or new errors the limit rises by 5 mV. -/
  | governorCleanDay (die : BitVec 6) (dom : BitVec 4)
  /-- BARRIER_DUE_CYCLE (R286): In locked mode a receive barrier reaches the due cycle set by its RECV, from which a waiting XWAITB sees it ZERO or meets XB_OVERRUN. -/
  | barrierDueCycle (xb : BitVec 5)
  /-- CBLD_COMPLETE (R227): A codebook load finishes at t + 4 with its entries converted to codes and flags. -/
  | cbldComplete
  /-- FENCE_S_PCIE_READ_COMPLETE (R309): The PCIe read that the host port issues for FENCE.S completes, letting the fence retire. -/
  | fenceSPcieReadComplete
  /-- VA_ADD (R181): Signed element add. -/
  | vaAdd
  /-- ADDU (R181): Unsigned element add. -/
  | addu
  /-- VA_SUB (R181): Signed element subtract. -/
  | vaSub
  /-- SUBU (R181): Unsigned element subtract. -/
  | subu
  /-- VA_MIN (R181): Signed element minimum. -/
  | vaMin
  /-- VA_MINU (R181): Unsigned element minimum. -/
  | vaMinu
  /-- VA_MAX (R181): Signed element maximum. -/
  | vaMax
  /-- VA_MAXU (R181): Unsigned element maximum. -/
  | vaMaxu
  /-- ABS (R181): Element absolute value. -/
  | abs
  /-- NEG (R181): Element negation. -/
  | neg
  /-- VA_AND (R181): Element AND. -/
  | vaAnd
  /-- VA_OR (R181): Element OR. -/
  | vaOr
  /-- VA_XOR (R181): Element XOR. -/
  | vaXor
  /-- VA_ANDN (R181): Element AND NOT. -/
  | vaAndn
  /-- VA_SHL (R181): Element left shift by register. -/
  | vaShl
  /-- VA_SHR (R181): Element logical right shift by register. -/
  | vaShr
  /-- VA_SRA (R181): Element arithmetic right shift by register. -/
  | vaSra
  /-- VA_SHLI (R181): Element left shift by immediate. -/
  | vaShli
  /-- VA_SHRI (R181): Element logical right shift by immediate. -/
  | vaShri
  /-- VA_SRAI (R181): Element arithmetic right shift by immediate. -/
  | vaSrai
  /-- ADDI (R181): Element add of a 7-bit signed immediate. -/
  | addi
  /-- MOVI (R181): Element move of a 7-bit signed immediate. -/
  | movi
  /-- VA_CMP (R181): Element integer compare giving all ones or zero. -/
  | vaCmp
  /-- QSHR (R181): Element rounding right shift. -/
  | qshr
  /-- MOV (R181): Element move, bit for bit. -/
  | mov
  /-- SEL (R181): Element select on nonzero bits of a third source. -/
  | sel
  /-- FADD (R182): Floating-point add. -/
  | fadd
  /-- FSUB (R182): Floating-point subtract. -/
  | fsub
  /-- VA_FMUL (R182): Floating-point multiply in the VA slot. -/
  | vaFmul
  /-- FMIN (R182): Floating-point minimum. -/
  | fmin
  /-- FMAX (R182): Floating-point maximum. -/
  | fmax
  /-- FABS (R182): Clears the sign bit. -/
  | fabs
  /-- FNEG (R182): Inverts the sign bit. -/
  | fneg
  /-- FCMP (R182): Floating-point compare giving all ones or zero. -/
  | fcmp
  /-- CVTIF (R183): I32 to F32. -/
  | cvtif
  /-- CVTUF (R183): N32 to F32. -/
  | cvtuf
  /-- CVTFI (R183): F32 to I32, saturating. -/
  | cvtfi
  /-- CVTFU (R183): F32 to N32, saturating. -/
  | cvtfu
  /-- CVTQF (R183): Fixed point to F32. -/
  | cvtqf
  /-- CVTFQ (R183): F32 to fixed point. -/
  | cvtfq
  /-- MSET (R184): Sets mask bits from nonzero lanes. -/
  | mset
  /-- MGET (R184): Expands a mask into lanes. -/
  | mget
  /-- QSET (R184): Sets stage predicates and QIN. -/
  | qset
  /-- QGET (R184): Reads stage predicates and QIN into lanes. -/
  | qget
  /-- BWR (R184): Writes a base register from lane 0. -/
  | bwr
  /-- BRD (R184): Broadcasts a base register into lanes. -/
  | brd
  /-- RPW (R184): Sets the ring position RPOS. -/
  | rpw
  /-- VB_MUL (R185): Signed element multiply. -/
  | vbMul
  /-- MULU (R185): Unsigned element multiply. -/
  | mulu
  /-- VB_MULH (R185): High half of the signed element product. -/
  | vbMulh
  /-- VB_MULHU (R185): High half of the unsigned element product. -/
  | vbMulhu
  /-- MAD (R185): Signed multiply-add. -/
  | mad
  /-- MADU (R185): Unsigned multiply-add. -/
  | madu
  /-- MULQ (R185): Fixed-point multiply with rounding shift. -/
  | mulq
  /-- MADQ (R185): Fixed-point multiply-add with one rounding. -/
  | madq
  /-- DOT (R186): Signed packed dot product accumulated into 32 bits. -/
  | dot
  /-- DOTU (R186): Unsigned packed dot product. -/
  | dotu
  /-- FMA (R187): Fused multiply-add. -/
  | fma
  /-- FMS (R187): Fused multiply-subtract. -/
  | fms
  /-- FNMA (R187): Negated fused multiply-add. -/
  | fnma
  /-- FNMS (R187): Negated fused multiply-subtract. -/
  | fnms
  /-- VB_FMUL (R187): Floating-point multiply in the VB slot. -/
  | vbFmul
  /-- FDOT2 (R188): BF16 pair dot product added to F32. -/
  | fdot2
  /-- VLD (R191): Loads 16 contiguous words per group. -/
  | vld
  /-- VST (R191): Stores 16 contiguous words per group. -/
  | vst
  /-- VLDS (R191): Broadcast-loads one word to every lane. -/
  | vlds
  /-- VLDR (R192): Loads a tile row. -/
  | vldr
  /-- VLDC (R192): Loads a tile column. -/
  | vldc
  /-- VSTR (R192): Stores a tile row. -/
  | vstr
  /-- VSTC (R192): Stores a tile column. -/
  | vstc
  /-- VLDU (R193): Unaligned 64-byte load. -/
  | vldu
  /-- VSTU (R193): Unaligned store of up to 64 bytes. -/
  | vstu
  /-- VAMO_ADD (R195): Per-lane 32-bit atomic add. -/
  | vamoAdd
  /-- VAMO_AND (R195): Per-lane atomic AND. -/
  | vamoAnd
  /-- VAMO_OR (R195): Per-lane atomic OR. -/
  | vamoOr
  /-- VAMO_XOR (R195): Per-lane atomic XOR. -/
  | vamoXor
  /-- VAMO_MIN (R195): Per-lane atomic signed minimum. -/
  | vamoMin
  /-- VAMO_MAX (R195): Per-lane atomic signed maximum. -/
  | vamoMax
  /-- VAMO_MINU (R195): Per-lane atomic unsigned minimum. -/
  | vamoMinu
  /-- VAMO_MAXU (R195): Per-lane atomic unsigned maximum. -/
  | vamoMaxu
  /-- VAMO_SWAP (R195): Per-lane atomic swap. -/
  | vamoSwap
  /-- VAMO_CAS (R195): Per-lane atomic compare-and-swap. -/
  | vamoCas
  /-- PERM (R199): Lane permute from two sources. -/
  | perm
  /-- LROT (R199): Lane rotate. -/
  | lrot
  /-- FSHL (R199): Funnel shift left. -/
  | fshl
  /-- FSHR (R199): Funnel shift right. -/
  | fshr
  /-- PSUM (R199): Prefix sum over enabled lanes. -/
  | psum
  /-- CLZ (R199): Count leading zeros. -/
  | clz
  /-- POPC (R199): Population count. -/
  | popc
  /-- EXTE (R200): Extracts an element to a 32-bit lane. -/
  | exte
  /-- INSE (R200): Inserts a narrowed value into an element. -/
  | inse
  /-- RED_ADD (R201): In-group integer sum reduction. -/
  | redAdd
  /-- RED_MIN (R201): In-group signed minimum reduction. -/
  | redMin
  /-- RED_MAX (R201): In-group signed maximum reduction. -/
  | redMax
  /-- RED_MINU (R201): In-group unsigned minimum reduction. -/
  | redMinu
  /-- RED_MAXU (R201): In-group unsigned maximum reduction. -/
  | redMaxu
  /-- RED_AND (R201): In-group AND reduction. -/
  | redAnd
  /-- RED_OR (R201): In-group OR reduction. -/
  | redOr
  /-- RED_XOR (R201): In-group XOR reduction. -/
  | redXor
  /-- RED_FADD (R201): In-group floating-point TreeSum. -/
  | redFadd
  /-- RED_FMIN (R201): In-group floating-point minimum. -/
  | redFmin
  /-- RED_FMAX (R201): In-group floating-point maximum. -/
  | redFmax
  /-- XRED_ADD (R202): Cross-group integer sum. -/
  | xredAdd
  /-- XRED_MIN (R202): Cross-group signed minimum. -/
  | xredMin
  /-- XRED_MAX (R202): Cross-group signed maximum. -/
  | xredMax
  /-- XRED_MINU (R202): Cross-group unsigned minimum. -/
  | xredMinu
  /-- XRED_MAXU (R202): Cross-group unsigned maximum. -/
  | xredMaxu
  /-- XRED_AND (R202): Cross-group AND. -/
  | xredAnd
  /-- XRED_OR (R202): Cross-group OR. -/
  | xredOr
  /-- XRED_XOR (R202): Cross-group XOR. -/
  | xredXor
  /-- XRED_FADD (R202): Cross-group floating-point TreeSum. -/
  | xredFadd
  /-- XRED_FMIN (R202): Cross-group floating-point minimum. -/
  | xredFmin
  /-- XRED_FMAX (R202): Cross-group floating-point maximum. -/
  | xredFmax
  /-- XCOPY (R203): Copies a register from a group at a distance. -/
  | xcopy
  /-- XBC (R203): Broadcasts a register from one group. -/
  | xbc
  /-- EXP2 (R204): Correctly rounded 2^x. -/
  | exp2
  /-- LOG2 (R204): Correctly rounded log2. -/
  | log2
  /-- RCP (R204): Correctly rounded reciprocal. -/
  | rcp
  /-- RSQRT (R204): Correctly rounded reciprocal square root. -/
  | rsqrt
  /-- RAND (R205): Delivers a counter-mode generator word or uniform F32. -/
  | rand
  /-- CVTFB (R206): Packs two F32 values as BF16. -/
  | cvtfb
  /-- CVTBF (R206): Widens a BF16 element to F32. -/
  | cvtbf
  /-- FCVTQ (R206): F32 to fixed point with any rounding mode. -/
  | fcvtq
  /-- CBD (R206): Decodes C4 nibbles through a codebook. -/
  | cbd
deriving DecidableEq, Repr

end Sys2Proof
end

