-- ==== Sys2Proof/WellFormed.lean ====
section
/-! DEFINITION. Well-formed instructions: the operand values an encoding admits, by stream (04 R102 to R109, R121; 05; 06
R179; 07; 08; 09; 10). An ill-formed one raises ILLEGAL_OPCODE in the decoder. -/
namespace Sys2Proof

/-- A readable index operand (R103): in M and X, i0 to i7 or k0 to k31. -/
def regOk (st : Str) (r : BitVec 6) : Bool :=
  decide (st = .c) || decide (r.toNat < 8) || decide (32 ≤ r.toNat)

/-- A destination index operand (R103): in M and X, i0 to i7. -/
def destOk (st : Str) (r : BitVec 6) : Bool := decide (st = .c) || decide (r.toNat < 8)

/-- At most two EXT syllables (R105). -/
def immOk {n : Nat} (i : Imm n) : Bool := decide (i.ext.length ≤ 2)

/-- A guard other than !p0 (R104). -/
def guardOk (g : BitVec 5) : Bool := decide (g.toNat ≠ 16)

/-- A gate class and an object within its range (R106). -/
def objOk (cls obj : Nat) : Bool :=
  (cls == 0 && decide (obj < 16)) || (cls == 1 && decide (obj < 4)) || (cls == 2 && decide (obj < 32))

/-- The register of a configuration write (R228, R261). -/
def srcOk : CfgSrc → Bool
  | .reg xr => regOk .m xr
  | .imm _ => true

/-- The KIND of an NLD and the fields that must be zero under it (R225). -/
def nldOk (kind fmt rnd cb : Nat) : Bool :=
  (kind == 0 && fmt == 0 && rnd == 0 && cb == 0) || (kind == 1 && decide (fmt < 10) && cb == 0) ||
  (kind == 2 && fmt == 0 && rnd == 0)

/-- A DID field is zero when DV is 0 (R278). -/
def didOk {n : Nat} (dv : BitVec 1) (did : BitVec n) : Bool := decide (dv.toNat = 1) || decide (did.toNat = 0)

/-- The slot fields that every opcode checks: bits [19:16] zero with MU = 0 (R119, R121). -/
def slotOk (f : SlotF) : Bool := decide (f.mu.toNat = 1) || (decide (f.mi.toNat = 0) && decide (f.ms.toNat = 0))

/-- VL: the base register number and the swizzle codes (R189). -/
def vlOk (f : SlotF) : Bool :=
  decide (f.vb.toNat < 16) && decide (f.swa.toNat = 0) && decide (f.swb.toNat = 0) && decide (f.swc.toNat = 0)

/-- Elements per register of a format (R119). -/
def elems (fmt : Nat) : Nat :=
  match fmt with
  | 1 => 2
  | 2 => 4
  | 3 => 8
  | 5 => 2
  | _ => 1

/-- The instruction belongs to the stream and its operands are ones its encoding admits. -/
def wellFormed (st : Str) : Instr → Bool
  | .nop => decide (st ≠ .v)
  | .endStream => decide (st ≠ .v)
  | .br _ => decide (st ≠ .v)
  | .bxi c x imm _ => decide (st ≠ .v) && decide (c.toNat < 6) && regOk st x && immOk imm
  | .bxx c x y _ => decide (st ≠ .v) && decide (c.toNat < 6) && regOk st x && regOk st y
  | .loopReg _ r e => decide (st ≠ .v) && regOk st r && decide (e.toNat ≠ 0)
  | .loopImm _ n e => decide (st ≠ .v) && immOk n && decide (e.toNat ≠ 0)
  | .gate c n off => decide (st ≠ .v) && objOk c.toNat n.toNat && immOk off
  | .check _ _ => decide (st ≠ .v)
  | .semp _ n => decide (st ≠ .v) && decide (n.toNat ≠ 0)
  | .semw _ n => decide (st ≠ .v) && decide (n.toNat ≠ 0)
  | .mark => decide (st ≠ .v)
  | .imov rd imm => decide (st ≠ .v) && destOk st rd && immOk imm
  | .iadd rd ra imm => decide (st ≠ .v) && destOk st rd && regOk st ra && immOk imm
  | .brk _ => decide (st ≠ .v)
  | .syscall _ => decide (st ≠ .v)
  | .add _ _ _ g => decide (st = .c) && guardOk g
  | .sub _ _ _ g => decide (st = .c) && guardOk g
  | .min _ _ _ g => decide (st = .c) && guardOk g
  | .max _ _ _ g => decide (st = .c) && guardOk g
  | .and _ _ _ g => decide (st = .c) && guardOk g
  | .or _ _ _ g => decide (st = .c) && guardOk g
  | .xor _ _ _ g => decide (st = .c) && guardOk g
  | .andn _ _ _ g => decide (st = .c) && guardOk g
  | .shl _ _ _ g => decide (st = .c) && guardOk g
  | .shr _ _ _ g => decide (st = .c) && guardOk g
  | .sra _ _ _ g => decide (st = .c) && guardOk g
  | .mulh _ _ _ g => decide (st = .c) && guardOk g
  | .mul _ _ _ g => decide (st = .c) && guardOk g
  | .mulhu _ _ _ g => decide (st = .c) && guardOk g
  | .minu _ _ _ g => decide (st = .c) && guardOk g
  | .maxu _ _ _ g => decide (st = .c) && guardOk g
  | .andi _ _ imm g => decide (st = .c) && guardOk g && immOk imm
  | .ori _ _ imm g => decide (st = .c) && guardOk g && immOk imm
  | .xori _ _ imm g => decide (st = .c) && guardOk g && immOk imm
  | .muli _ _ imm g => decide (st = .c) && guardOk g && immOk imm
  | .shli _ _ _ g => decide (st = .c) && guardOk g
  | .shri _ _ _ g => decide (st = .c) && guardOk g
  | .srai _ _ _ g => decide (st = .c) && guardOk g
  | .mini _ _ imm g => decide (st = .c) && guardOk g && immOk imm
  | .maxi _ _ imm g => decide (st = .c) && guardOk g && immOk imm
  | .minui _ _ imm g => decide (st = .c) && guardOk g && immOk imm
  | .maxui _ _ imm g => decide (st = .c) && guardOk g && immOk imm
  | .subfi _ _ imm g => decide (st = .c) && guardOk g && immOk imm
  | .cmp _ _ _ c g => decide (st = .c) && decide (c.toNat < 8) && guardOk g
  | .cmpi _ _ imm c g => decide (st = .c) && decide (c.toNat < 8) && guardOk g && immOk imm
  | .pand _ _ _ g => decide (st = .c) && guardOk g
  | .por _ _ _ g => decide (st = .c) && guardOk g
  | .pxor _ _ _ g => decide (st = .c) && guardOk g
  | .pandn _ _ _ g => decide (st = .c) && guardOk g
  | .pnot _ _ g => decide (st = .c) && guardOk g
  | .pget _ g => decide (st = .c) && guardOk g
  | .pput _ g => decide (st = .c) && guardOk g
  | .btree t => decide (st = .c) && decide (1 ≤ t.length) && decide (t.length ≤ 4)
  | .brc _ g => decide (st = .c) && guardOk g
  | .jal _ g => decide (st = .c) && guardOk g
  | .jalr _ _ g => decide (st = .c) && guardOk g
  | .ldb _ _ off g => decide (st = .c) && guardOk g && immOk off
  | .ldbu _ _ off g => decide (st = .c) && guardOk g && immOk off
  | .ldh _ _ off g => decide (st = .c) && guardOk g && immOk off
  | .ldhu _ _ off g => decide (st = .c) && guardOk g && immOk off
  | .ldw _ _ off g => decide (st = .c) && guardOk g && immOk off
  | .ldwu _ _ off g => decide (st = .c) && guardOk g && immOk off
  | .ldd _ _ off g => decide (st = .c) && guardOk g && immOk off
  | .stb _ _ off g => decide (st = .c) && guardOk g && immOk off
  | .sth _ _ off g => decide (st = .c) && guardOk g && immOk off
  | .stw _ _ off g => decide (st = .c) && guardOk g && immOk off
  | .std _ _ off g => decide (st = .c) && guardOk g && immOk off
  | .amoadd _ _ _ _ => decide (st = .c)
  | .amoand _ _ _ _ => decide (st = .c)
  | .amoor _ _ _ _ => decide (st = .c)
  | .amoxor _ _ _ _ => decide (st = .c)
  | .amomin _ _ _ _ => decide (st = .c)
  | .amomax _ _ _ _ => decide (st = .c)
  | .amominu _ _ _ _ => decide (st = .c)
  | .amomaxu _ _ _ _ => decide (st = .c)
  | .amoswap _ _ _ _ => decide (st = .c)
  | .amocas _ _ _ _ => decide (st = .c)
  | .crr _ k _ => decide (st = .c) && decide (k.toNat < 2)
  | .crrd _ k w => decide (st = .c) && decide (k.toNat < 2) && decide (w.toNat % 2 = 0)
  | .crw _ k _ => decide (st = .c) && decide (k.toNat < 2)
  | .krd _ _ => decide (st = .c)
  | .kwr _ _ => decide (st = .c)
  | .seedr _ _ => decide (st = .c)
  | .seedw _ _ => decide (st = .c)
  | .lrd _ l => decide (st = .c) && decide (l.toNat < 6)
  | .lwr _ l => decide (st = .c) && decide (l.toNat < 6)
  | .waitx _ _ => decide (st = .c)
  | .testx _ _ _ => decide (st = .c)
  | .fenceT => decide (st = .c)
  | .fenceD => decide (st = .c)
  | .fenceM => decide (st = .c)
  | .fenceS => decide (st = .c)
  | .ifence => decide (st = .c)
  | .iswap => decide (st = .c)
  | .mhdr _ _ => decide (st = .m)
  | .midle _ => decide (st = .m)
  | .wcode xr _ _ => decide (st = .m) && regOk .m xr
  | .wcvt xr _ fmt _ _ => decide (st = .m) && regOk .m xr && decide (fmt.toNat < 10)
  | .wc4 xr _ _ _ => decide (st = .m) && regOk .m xr
  | .nld xr kind fmt rnd cb _ => decide (st = .m) && regOk .m xr && nldOk kind.toNat fmt.toNat rnd.toNat cb.toNat
  | .nswp => decide (st = .m)
  | .cbld xr _ _ => decide (st = .m) && regOk .m xr
  | .mcfg sel src => decide (st = .m) && decide (sel.toNat < 26) && srcOk src
  | .pass stop c0 c1 xr _ => decide (st = .m) && decide (stop.toNat < 3) && decide (c0.toNat ≤ c1.toNat) && regOk .m xr
  | .mwait xd => decide (st = .m) && decide (xd.toNat < 8)
  | .drn _ _ am pool xr se sem => decide (st = .m) && (decide (am.toNat = 1) || (decide (pool.toNat = 0) && decide (xr.toNat = 0))) && (decide (se.toNat = 1) || decide (sem.toNat = 0)) && regOk .m xr
  | .drv _ _ _ => decide (st = .m)
  | .aclr _ => decide (st = .m)
  | .rstat _ _ c0 c1 => decide (st = .m) && decide (c0.toNat ≤ c1.toNat)
  | .skw xr off => decide (st = .m) && regOk .m xr && (decide (off.toNat = 0) || decide (xr.toNat = 0))
  | .skn xr off => decide (st = .m) && regOk .m xr && (decide (off.toNat = 0) || decide (xr.toNat = 0))
  | .pcfg sel src => decide (st = .m) && decide (sel.toNat < 12) && srcOk src
  | .pcell xr _ out se sem _ => decide (st = .m) && regOk .m xr && decide (out.toNat ≠ 0) && (decide (se.toNat = 1) || decide (sem.toNat = 0))
  | .psets xr _ out se sem _ _ => decide (st = .m) && regOk .m xr && decide (out.toNat ≠ 0) && (decide (se.toNat = 1) || decide (sem.toNat = 0))
  | .pcidx xr _ => decide (st = .m) && regOk .m xr
  | .paclr xr _ => decide (st = .m) && regOk .m xr
  | .copy _ _ _ v imm u => decide (st = .x) && didOk v imm && immOk u
  | .cvt _ _ _ _ _ v imm u => decide (st = .x) && didOk v imm && immOk u
  | .xpose _ _ _ v imm u => decide (st = .x) && didOk v imm && immOk u
  | .cmpr _ _ _ x v imm u => decide (st = .x) && regOk .x x && didOk v imm && immOk u
  | .expd _ _ _ x v imm u => decide (st = .x) && regOk .x x && didOk v imm && immOk u
  | .decode _ _ _ _ v imm u => decide (st = .x) && didOk v imm && immOk u
  | .send _ _ x v imm u => decide (st = .x) && regOk .x x && didOk v imm && immOk u
  | .recv _ x u => decide (st = .x) && regOk .x x && immOk u
  | .ramoAdd _ _ _ _ _ _ u => decide (st = .x) && immOk u
  | .ramoAnd _ _ _ _ _ _ u => decide (st = .x) && immOk u
  | .ramoOr _ _ _ _ _ _ u => decide (st = .x) && immOk u
  | .ramoXor _ _ _ _ _ _ u => decide (st = .x) && immOk u
  | .ramoMin _ _ _ _ _ _ u => decide (st = .x) && immOk u
  | .ramoMax _ _ _ _ _ _ u => decide (st = .x) && immOk u
  | .ramoMinu _ _ _ _ _ _ u => decide (st = .x) && immOk u
  | .ramoMaxu _ _ _ _ _ _ u => decide (st = .x) && immOk u
  | .ramoSwap _ _ _ _ _ _ u => decide (st = .x) && immOk u
  | .ramoCas _ _ _ _ _ _ u => decide (st = .x) && immOk u
  | .xwait _ x => decide (st = .x) && regOk .x x
  | .xwaitb _ => decide (st = .x)
  | .xfence _ => decide (st = .x)
  | .xnext _ rd => decide (st = .x) && decide (rd.toNat < 8)
  | .shw _ _ x => decide (st = .x) && regOk .x x
  | .xcfg rs x => decide (st = .x) && decide (rs.toNat < 10) && regOk .x x
  | .ldhcw _ _ x v imm u => decide (st = .x) && regOk .x x && didOk v imm && immOk u
  | .ldpln _ _ x v imm u => decide (st = .x) && regOk .x x && didOk v imm && immOk u
  | .ldpair _ _ x v imm u => decide (st = .x) && regOk .x x && didOk v imm && immOk u
  | .vInstruction _ _ _ _ => decide (st = .v)
  | .vend => decide (st = .v)
  | .vbr _ => decide (st = .v)
  | .vbrm _ cond _ => decide (st = .v) && decide (cond.toNat < 3)
  | .vloop _ _ e => decide (st = .v) && decide (e.toNat ≠ 0)
  | .vlwr reg _ => decide (st = .v) && decide (reg.toNat < 6)
  | .vsemp _ n => decide (st = .v) && decide (n.toNat ≠ 0)
  | .vsemw _ n => decide (st = .v) && decide (n.toNat ≠ 0)
  | .vgate cls obj _ => decide (st = .v) && objOk cls.toNat obj.toNat
  | .vmark => decide (st = .v)
  | .blend _ => decide (st = .v)
  | .bret _ => decide (st = .v)
  | .statrx vd => decide (st = .v) && decide (vd.toNat < 62)
  | .vbrk _ => decide (st = .v)
  | .resultLand => true
  | .passEnd => true
  | .drainComplete => true
  | .aclrComplete => true
  | .nldComplete => true
  | .rstatComplete => true
  | .peBlock => true
  | .peComplete => true
  | .transferPiece _ _ => true
  | .transferComplete _ _ => true
  | .budgetCycle _ _ => true
  | .gateTargetCycle _ => true
  | .taskRetire => true
  | .doorbell _ _ _ => true
  | .queueControlWrite _ _ _ => true
  | .entryNop _ _ => true
  | .launch _ _ => true
  | .dieImageLoad _ _ _ _ => true
  | .firstTick _ _ => true
  | .taskStart _ _ _ _ => true
  | .remapStage _ _ => true
  | .remapCommit _ _ => true
  | .sliceQuantum _ _ => true
  | .sliceSwitch _ _ => true
  | .preemptRequest _ _ => true
  | .contextSave _ _ => true
  | .contextRestore _ _ => true
  | .jobSaveRequest _ _ => true
  | .jobSave _ _ => true
  | .jobResume _ _ => true
  | .resume _ _ _ _ => true
  | .abort _ _ => true
  | .replay _ _ => true
  | .invalidatePage _ _ _ _ => true
  | .invalidateRoot _ _ _ => true
  | .invalidateAll _ _ => true
  | .stepEnd _ _ => true
  | .commitRelease _ _ => true
  | .tickIssue _ _ => true
  | .tickAct _ _ => true
  | .write _ => true
  | .readReq _ => true
  | .readData _ => true
  | .atomic _ => true
  | .atomicRsp _ => true
  | .sendMessage _ => true
  | .ack _ => true
  | .nack _ => true
  | .tick _ => true
  | .done _ => true
  | .nackRetry _ _ => true
  | .flitReceive _ _ _ _ => true
  | .linkRetrain _ _ => true
  | .linkTrained _ _ _ => true
  | .linkDown _ _ => true
  | .trafficHoldEnd => true
  | .scaleoutFrame _ _ => true
  | .hostWrite _ _ _ _ => true
  | .hostRead _ _ _ _ => true
  | .registerWrite _ _ _ _ => true
  | .powerUp => true
  | .powerLoss => true
  | .fwDownload _ => true
  | .dieAnswerTimeout _ => true
  | .enumeration => true
  | .attestation _ => true
  | .certificate _ => true
  | .currentMeasure _ => true
  | .freqRequest _ _ => true
  | .freqRamp => true
  | .freqSwitch => true
  | .voffWrite _ _ _ => true
  | .snapBack _ _ _ => true
  | .snapSettle _ _ => true
  | .governorEnable => true
  | .governorCleanDay _ _ => true
  | .barrierDueCycle _ => true
  | .cbldComplete => true
  | .fenceSPcieReadComplete => true
  | .vaAdd => decide (st = .v)
  | .addu => decide (st = .v)
  | .vaSub => decide (st = .v)
  | .subu => decide (st = .v)
  | .vaMin => decide (st = .v)
  | .vaMinu => decide (st = .v)
  | .vaMax => decide (st = .v)
  | .vaMaxu => decide (st = .v)
  | .abs => decide (st = .v)
  | .neg => decide (st = .v)
  | .vaAnd => decide (st = .v)
  | .vaOr => decide (st = .v)
  | .vaXor => decide (st = .v)
  | .vaAndn => decide (st = .v)
  | .vaShl => decide (st = .v)
  | .vaShr => decide (st = .v)
  | .vaSra => decide (st = .v)
  | .vaShli => decide (st = .v)
  | .vaShri => decide (st = .v)
  | .vaSrai => decide (st = .v)
  | .addi => decide (st = .v)
  | .movi => decide (st = .v)
  | .vaCmp => decide (st = .v)
  | .qshr => decide (st = .v)
  | .mov => decide (st = .v)
  | .sel => decide (st = .v)
  | .fadd => decide (st = .v)
  | .fsub => decide (st = .v)
  | .vaFmul => decide (st = .v)
  | .fmin => decide (st = .v)
  | .fmax => decide (st = .v)
  | .fabs => decide (st = .v)
  | .fneg => decide (st = .v)
  | .fcmp => decide (st = .v)
  | .cvtif => decide (st = .v)
  | .cvtuf => decide (st = .v)
  | .cvtfi => decide (st = .v)
  | .cvtfu => decide (st = .v)
  | .cvtqf => decide (st = .v)
  | .cvtfq => decide (st = .v)
  | .mset => decide (st = .v)
  | .mget => decide (st = .v)
  | .qset => decide (st = .v)
  | .qget => decide (st = .v)
  | .bwr => decide (st = .v)
  | .brd => decide (st = .v)
  | .rpw => decide (st = .v)
  | .vbMul => decide (st = .v)
  | .mulu => decide (st = .v)
  | .vbMulh => decide (st = .v)
  | .vbMulhu => decide (st = .v)
  | .mad => decide (st = .v)
  | .madu => decide (st = .v)
  | .mulq => decide (st = .v)
  | .madq => decide (st = .v)
  | .dot => decide (st = .v)
  | .dotu => decide (st = .v)
  | .fma => decide (st = .v)
  | .fms => decide (st = .v)
  | .fnma => decide (st = .v)
  | .fnms => decide (st = .v)
  | .vbFmul => decide (st = .v)
  | .fdot2 => decide (st = .v)
  | .vld => decide (st = .v)
  | .vst => decide (st = .v)
  | .vlds => decide (st = .v)
  | .vldr => decide (st = .v)
  | .vldc => decide (st = .v)
  | .vstr => decide (st = .v)
  | .vstc => decide (st = .v)
  | .vldu => decide (st = .v)
  | .vstu => decide (st = .v)
  | .vamoAdd => decide (st = .v)
  | .vamoAnd => decide (st = .v)
  | .vamoOr => decide (st = .v)
  | .vamoXor => decide (st = .v)
  | .vamoMin => decide (st = .v)
  | .vamoMax => decide (st = .v)
  | .vamoMinu => decide (st = .v)
  | .vamoMaxu => decide (st = .v)
  | .vamoSwap => decide (st = .v)
  | .vamoCas => decide (st = .v)
  | .perm => decide (st = .v)
  | .lrot => decide (st = .v)
  | .fshl => decide (st = .v)
  | .fshr => decide (st = .v)
  | .psum => decide (st = .v)
  | .clz => decide (st = .v)
  | .popc => decide (st = .v)
  | .exte => decide (st = .v)
  | .inse => decide (st = .v)
  | .redAdd => decide (st = .v)
  | .redMin => decide (st = .v)
  | .redMax => decide (st = .v)
  | .redMinu => decide (st = .v)
  | .redMaxu => decide (st = .v)
  | .redAnd => decide (st = .v)
  | .redOr => decide (st = .v)
  | .redXor => decide (st = .v)
  | .redFadd => decide (st = .v)
  | .redFmin => decide (st = .v)
  | .redFmax => decide (st = .v)
  | .xredAdd => decide (st = .v)
  | .xredMin => decide (st = .v)
  | .xredMax => decide (st = .v)
  | .xredMinu => decide (st = .v)
  | .xredMaxu => decide (st = .v)
  | .xredAnd => decide (st = .v)
  | .xredOr => decide (st = .v)
  | .xredXor => decide (st = .v)
  | .xredFadd => decide (st = .v)
  | .xredFmin => decide (st = .v)
  | .xredFmax => decide (st = .v)
  | .xcopy => decide (st = .v)
  | .xbc => decide (st = .v)
  | .exp2 => decide (st = .v)
  | .log2 => decide (st = .v)
  | .rcp => decide (st = .v)
  | .rsqrt => decide (st = .v)
  | .rand => decide (st = .v)
  | .cvtfb => decide (st = .v)
  | .cvtbf => decide (st = .v)
  | .fcvtq => decide (st = .v)
  | .cbd => decide (st = .v)

/-- The slot fields that the operation admits (R121, R179, R181 to R189, R195, R199 to R206); false where the instruction
is no slot operation. -/
def slotWellFormed (i : Instr) (f : SlotF) : Bool :=
  match i with
  | .vaAdd => slotOk f && decide (f.fmt.toNat < 4)
  | .addu => slotOk f && decide (f.fmt.toNat < 4)
  | .vaSub => slotOk f && decide (f.fmt.toNat < 4)
  | .subu => slotOk f && decide (f.fmt.toNat < 4)
  | .vaMin => slotOk f && decide (f.fmt.toNat < 4)
  | .vaMinu => slotOk f && decide (f.fmt.toNat < 4)
  | .vaMax => slotOk f && decide (f.fmt.toNat < 4)
  | .vaMaxu => slotOk f && decide (f.fmt.toNat < 4)
  | .abs => slotOk f && decide (f.fmt.toNat < 4)
  | .neg => slotOk f && decide (f.fmt.toNat < 4)
  | .vaAnd => slotOk f && decide (f.fmt.toNat < 4)
  | .vaOr => slotOk f && decide (f.fmt.toNat < 4)
  | .vaXor => slotOk f && decide (f.fmt.toNat < 4)
  | .vaAndn => slotOk f && decide (f.fmt.toNat < 4)
  | .vaShl => slotOk f && decide (f.fmt.toNat < 4)
  | .vaShr => slotOk f && decide (f.fmt.toNat < 4)
  | .vaSra => slotOk f && decide (f.fmt.toNat < 4)
  | .vaShli => slotOk f && decide (f.fmt.toNat < 4) && decide (f.imm.toNat < 32)
  | .vaShri => slotOk f && decide (f.fmt.toNat < 4) && decide (f.imm.toNat < 32)
  | .vaSrai => slotOk f && decide (f.fmt.toNat < 4) && decide (f.imm.toNat < 32)
  | .addi => slotOk f && decide (f.fmt.toNat < 4)
  | .movi => slotOk f && decide (f.fmt.toNat < 4)
  | .vaCmp => slotOk f && decide (f.fmt.toNat < 4) && decide (f.imm.toNat < 6)
  | .qshr => slotOk f && decide (f.fmt.toNat < 4) && decide (f.imm.toNat < 32) && decide (f.rnd.toNat ≠ 2)
  | .mov => slotOk f && decide (f.fmt.toNat < 6)
  | .sel => slotOk f && decide (f.fmt.toNat < 6)
  | .fadd => slotOk f && (decide (f.fmt.toNat = 4) || decide (f.fmt.toNat = 5)) && decide (f.rnd.toNat ≠ 2)
  | .fsub => slotOk f && (decide (f.fmt.toNat = 4) || decide (f.fmt.toNat = 5)) && decide (f.rnd.toNat ≠ 2)
  | .vaFmul => slotOk f && (decide (f.fmt.toNat = 4) || decide (f.fmt.toNat = 5)) && decide (f.rnd.toNat ≠ 2)
  | .fmin => slotOk f && (decide (f.fmt.toNat = 4) || decide (f.fmt.toNat = 5))
  | .fmax => slotOk f && (decide (f.fmt.toNat = 4) || decide (f.fmt.toNat = 5))
  | .fabs => slotOk f && (decide (f.fmt.toNat = 4) || decide (f.fmt.toNat = 5))
  | .fneg => slotOk f && (decide (f.fmt.toNat = 4) || decide (f.fmt.toNat = 5))
  | .fcmp => slotOk f && (decide (f.fmt.toNat = 4) || decide (f.fmt.toNat = 5)) && decide (f.imm.toNat < 5)
  | .cvtif => slotOk f && (decide (f.fmt.toNat = 0) || decide (f.fmt.toNat = 4)) && decide (f.rnd.toNat ≠ 2)
  | .cvtuf => slotOk f && (decide (f.fmt.toNat = 0) || decide (f.fmt.toNat = 4)) && decide (f.rnd.toNat ≠ 2)
  | .cvtfi => slotOk f && (decide (f.fmt.toNat = 0) || decide (f.fmt.toNat = 4)) && decide (f.rnd.toNat ≠ 2)
  | .cvtfu => slotOk f && (decide (f.fmt.toNat = 0) || decide (f.fmt.toNat = 4)) && decide (f.rnd.toNat ≠ 2)
  | .cvtqf => slotOk f && (decide (f.fmt.toNat = 0) || decide (f.fmt.toNat = 4)) && decide (f.rnd.toNat ≠ 2) && decide (f.imm.toNat < 32)
  | .cvtfq => slotOk f && (decide (f.fmt.toNat = 0) || decide (f.fmt.toNat = 4)) && decide (f.rnd.toNat ≠ 2) && decide (f.imm.toNat < 32)
  | .mset => slotOk f && decide (f.fmt.toNat = 0) && decide (f.imm.toNat < 8)
  | .mget => slotOk f && decide (f.fmt.toNat = 0) && decide (f.imm.toNat < 8)
  | .qset => slotOk f && decide (f.fmt.toNat = 0) && decide (f.mu = 0)
  | .qget => slotOk f && decide (f.fmt.toNat = 0)
  | .bwr => slotOk f && decide (f.fmt.toNat = 0) && decide (f.imm.toNat < 16) && decide (f.mu = 0)
  | .brd => slotOk f && decide (f.fmt.toNat = 0) && decide (f.imm.toNat < 16)
  | .rpw => slotOk f && decide (f.fmt.toNat = 0) && decide (f.imm.toNat < 32) && decide (f.mu = 0)
  | .vbMul => slotOk f && decide (f.fmt.toNat < 4)
  | .mulu => slotOk f && decide (f.fmt.toNat < 4)
  | .vbMulh => slotOk f && decide (f.fmt.toNat < 4)
  | .vbMulhu => slotOk f && decide (f.fmt.toNat < 4)
  | .mad => slotOk f && decide (f.fmt.toNat < 4)
  | .madu => slotOk f && decide (f.fmt.toNat < 4)
  | .mulq => slotOk f && decide (f.fmt.toNat < 4) && decide (f.imm.toNat < 32) && decide (f.rnd.toNat ≠ 2)
  | .madq => slotOk f && decide (f.fmt.toNat < 4) && decide (f.imm.toNat < 32) && decide (f.rnd.toNat ≠ 2)
  | .dot => slotOk f && (decide (1 ≤ f.fmt.toNat) && decide (f.fmt.toNat < 4))
  | .dotu => slotOk f && (decide (1 ≤ f.fmt.toNat) && decide (f.fmt.toNat < 4))
  | .fma => slotOk f && (decide (f.fmt.toNat = 4) || decide (f.fmt.toNat = 5)) && decide (f.rnd.toNat ≠ 2)
  | .fms => slotOk f && (decide (f.fmt.toNat = 4) || decide (f.fmt.toNat = 5)) && decide (f.rnd.toNat ≠ 2)
  | .fnma => slotOk f && (decide (f.fmt.toNat = 4) || decide (f.fmt.toNat = 5)) && decide (f.rnd.toNat ≠ 2)
  | .fnms => slotOk f && (decide (f.fmt.toNat = 4) || decide (f.fmt.toNat = 5)) && decide (f.rnd.toNat ≠ 2)
  | .vbFmul => slotOk f && (decide (f.fmt.toNat = 4) || decide (f.fmt.toNat = 5)) && decide (f.rnd.toNat ≠ 2)
  | .fdot2 => slotOk f && decide (f.fmt.toNat = 5) && decide (f.rnd.toNat ≠ 2)
  | .vld => slotOk f && decide (f.fmt.toNat = 0) && vlOk f
  | .vst => slotOk f && decide (f.fmt.toNat = 0) && vlOk f
  | .vldr => slotOk f && decide (f.fmt.toNat = 0) && vlOk f
  | .vldc => slotOk f && decide (f.fmt.toNat = 0) && vlOk f
  | .vstr => slotOk f && decide (f.fmt.toNat = 0) && vlOk f
  | .vstc => slotOk f && decide (f.fmt.toNat = 0) && vlOk f
  | .vlds => slotOk f && decide (f.fmt.toNat = 0) && vlOk f
  | .vldu => slotOk f && decide (f.fmt.toNat = 0) && vlOk f
  | .vstu => slotOk f && decide (f.fmt.toNat = 0) && vlOk f
  | .vamoAdd => slotOk f && decide (f.fmt.toNat = 0) && vlOk f && decide (f.imm.toNat = 0)
  | .vamoAnd => slotOk f && decide (f.fmt.toNat = 0) && vlOk f && decide (f.imm.toNat = 1)
  | .vamoOr => slotOk f && decide (f.fmt.toNat = 0) && vlOk f && decide (f.imm.toNat = 2)
  | .vamoXor => slotOk f && decide (f.fmt.toNat = 0) && vlOk f && decide (f.imm.toNat = 3)
  | .vamoMin => slotOk f && decide (f.fmt.toNat = 0) && vlOk f && decide (f.imm.toNat = 4)
  | .vamoMax => slotOk f && decide (f.fmt.toNat = 0) && vlOk f && decide (f.imm.toNat = 5)
  | .vamoMinu => slotOk f && decide (f.fmt.toNat = 0) && vlOk f && decide (f.imm.toNat = 6)
  | .vamoMaxu => slotOk f && decide (f.fmt.toNat = 0) && vlOk f && decide (f.imm.toNat = 7)
  | .vamoSwap => slotOk f && decide (f.fmt.toNat = 0) && vlOk f && decide (f.imm.toNat = 8)
  | .vamoCas => slotOk f && decide (f.fmt.toNat = 0) && vlOk f && decide (f.imm.toNat = 9)
  | .perm => slotOk f && decide (f.fmt.toNat = 0)
  | .lrot => slotOk f && decide (f.fmt.toNat = 0) && decide (f.imm.toNat < 16)
  | .fshl => slotOk f && decide (f.fmt.toNat = 0)
  | .fshr => slotOk f && decide (f.fmt.toNat = 0)
  | .psum => slotOk f && decide (f.fmt.toNat = 0)
  | .clz => slotOk f && decide (f.fmt.toNat = 0)
  | .popc => slotOk f && decide (f.fmt.toNat = 0)
  | .exte => slotOk f && (decide (1 ≤ f.fmt.toNat) && decide (f.fmt.toNat < 4)) && decide (f.imm.toNat < 16) && decide (f.imm.toNat % 8 < elems f.fmt.toNat)
  | .inse => slotOk f && (decide (1 ≤ f.fmt.toNat) && decide (f.fmt.toNat < 4)) && decide (f.imm.toNat < 16) && decide (f.imm.toNat % 8 < elems f.fmt.toNat)
  | .redAdd => slotOk f && decide (f.fmt.toNat = 0) && decide (f.imm.toNat = 0)
  | .redMin => slotOk f && decide (f.fmt.toNat = 0) && decide (f.imm.toNat = 1)
  | .redMax => slotOk f && decide (f.fmt.toNat = 0) && decide (f.imm.toNat = 2)
  | .redMinu => slotOk f && decide (f.fmt.toNat = 0) && decide (f.imm.toNat = 3)
  | .redMaxu => slotOk f && decide (f.fmt.toNat = 0) && decide (f.imm.toNat = 4)
  | .redAnd => slotOk f && decide (f.fmt.toNat = 0) && decide (f.imm.toNat = 5)
  | .redOr => slotOk f && decide (f.fmt.toNat = 0) && decide (f.imm.toNat = 6)
  | .redXor => slotOk f && decide (f.fmt.toNat = 0) && decide (f.imm.toNat = 7)
  | .redFadd => slotOk f && decide (f.fmt.toNat = 4) && decide (f.imm.toNat = 8)
  | .redFmin => slotOk f && decide (f.fmt.toNat = 4) && decide (f.imm.toNat = 9)
  | .redFmax => slotOk f && decide (f.fmt.toNat = 4) && decide (f.imm.toNat = 10)
  | .xredAdd => slotOk f && decide (f.fmt.toNat = 0) && decide (f.imm.toNat = 0)
  | .xredMin => slotOk f && decide (f.fmt.toNat = 0) && decide (f.imm.toNat = 1)
  | .xredMax => slotOk f && decide (f.fmt.toNat = 0) && decide (f.imm.toNat = 2)
  | .xredMinu => slotOk f && decide (f.fmt.toNat = 0) && decide (f.imm.toNat = 3)
  | .xredMaxu => slotOk f && decide (f.fmt.toNat = 0) && decide (f.imm.toNat = 4)
  | .xredAnd => slotOk f && decide (f.fmt.toNat = 0) && decide (f.imm.toNat = 5)
  | .xredOr => slotOk f && decide (f.fmt.toNat = 0) && decide (f.imm.toNat = 6)
  | .xredXor => slotOk f && decide (f.fmt.toNat = 0) && decide (f.imm.toNat = 7)
  | .xredFadd => slotOk f && decide (f.fmt.toNat = 4) && decide (f.imm.toNat = 8)
  | .xredFmin => slotOk f && decide (f.fmt.toNat = 4) && decide (f.imm.toNat = 9)
  | .xredFmax => slotOk f && decide (f.fmt.toNat = 4) && decide (f.imm.toNat = 10)
  | .xcopy => slotOk f && decide (f.fmt.toNat = 0) && decide (f.imm.toNat < 8)
  | .xbc => slotOk f && decide (f.fmt.toNat = 0) && decide (8 ≤ f.imm.toNat) && decide (f.imm.toNat < 16)
  | .exp2 => slotOk f && (decide (f.fmt.toNat = 4) || decide (f.fmt.toNat = 5))
  | .log2 => slotOk f && (decide (f.fmt.toNat = 4) || decide (f.fmt.toNat = 5))
  | .rcp => slotOk f && (decide (f.fmt.toNat = 4) || decide (f.fmt.toNat = 5))
  | .rsqrt => slotOk f && (decide (f.fmt.toNat = 4) || decide (f.fmt.toNat = 5))
  | .rand => slotOk f && decide (f.fmt.toNat = 0) && decide (f.imm.toNat < 2)
  | .cvtfb => slotOk f && decide (f.fmt.toNat = 5)
  | .cvtbf => slotOk f && decide (f.fmt.toNat = 5) && decide (f.imm.toNat < 2)
  | .fcvtq => slotOk f && decide (f.fmt.toNat = 4) && decide (f.imm.toNat < 32)
  | .cbd => slotOk f && decide (f.fmt.toNat = 5) && decide (f.imm.toNat < 16)
  | _ => false

end Sys2Proof
end

