-- ==== Sys2Proof/Decode.lean ====
section
/-! DEFINITION. The decoder, total on any words, and the encoder written from the same encodings (04 R96 to R127; the
layouts of 05, 08, 09, 10). A syllable is a number below 2^32; a field [hi:lo] of it is w / 2^lo mod 2^(hi-lo+1). -/
namespace Sys2Proof

/-- Why a word or bundle is refused: ILLEGAL_OPCODE or ILLEGAL_BUNDLE (R124). -/
inductive DErr | opcode | bundle
deriving DecidableEq, Repr

/-- The major opcode of a syllable (R98). -/
def majorOf (w : Nat) : Nat := w / 2 ^ 25 % 2 ^ 6

/-- The field [hi:lo] of a word, as a number (R5). -/
def fld (w hi lo : Nat) : Nat := w / 2 ^ lo % 2 ^ (hi + 1 - lo)

/-- The n-bit field of a word that begins at bit lo. -/
def at_ (n lo w : Nat) : BitVec n := BitVec.ofNat n (w / 2 ^ lo)

/-- A word from its fixed bits and its fields, each a number and its lowest bit. -/
def syl (base : Nat) (fs : List (Nat × Nat)) : Nat := fs.foldr (fun f acc => f.1 * 2 ^ f.2 + acc) base

/-- The BS bit of a syllable (R98). -/
def bsOf (w : Nat) : Bool := w / 2 ^ 31 % 2 == 1

/-- Major 0x00: NOP. -/
def decodeCommon00 (w : Nat) (_ext : List (BitVec 25)) : Option Instr :=
  some (.nop)

/-- Major 0x01: END. -/
def decodeCommon01 (w : Nat) (_ext : List (BitVec 25)) : Option Instr :=
  if fld w 24 0 = 0 then some (.endStream) else
  none

/-- Major 0x02: BR. -/
def decodeCommon02 (w : Nat) (_ext : List (BitVec 25)) : Option Instr :=
  if fld w 24 16 = 0 then some (.br (at_ 16 0 w)) else
  none

/-- Major 0x03: BXI. -/
def decodeCommon03 (w : Nat) (ext : List (BitVec 25)) : Option Instr :=
  some (.bxi (at_ 3 22 w) (at_ 6 16 w) ⟨at_ 6 10 w, ext⟩ (at_ 10 0 w))

/-- Major 0x04: BXX. -/
def decodeCommon04 (w : Nat) (_ext : List (BitVec 25)) : Option Instr :=
  some (.bxx (at_ 3 22 w) (at_ 6 16 w) (at_ 6 10 w) (at_ 10 0 w))

/-- Major 0x05: LOOP_REG, LOOP_IMM. -/
def decodeCommon05 (w : Nat) (ext : List (BitVec 25)) : Option Instr :=
  if fld w 23 23 = 0 ∧ fld w 16 10 = 0 then some (.loopReg (at_ 1 24 w) (at_ 6 17 w) (at_ 10 0 w)) else
  if fld w 23 23 = 1 then some (.loopImm (at_ 1 24 w) ⟨at_ 13 10 w, ext⟩ (at_ 10 0 w)) else
  none

/-- Major 0x06: GATE. -/
def decodeCommon06 (w : Nat) (ext : List (BitVec 25)) : Option Instr :=
  some (.gate (at_ 3 22 w) (at_ 5 17 w) ⟨at_ 17 0 w, ext⟩)

/-- Major 0x07: CHECK. -/
def decodeCommon07 (w : Nat) (_ext : List (BitVec 25)) : Option Instr :=
  if fld w 24 16 = 0 then some (.check (at_ 4 12 w) (at_ 12 0 w)) else
  none

/-- Major 0x08: SEMP. -/
def decodeCommon08 (w : Nat) (_ext : List (BitVec 25)) : Option Instr :=
  if fld w 12 0 = 0 then some (.semp (at_ 4 21 w) (at_ 8 13 w)) else
  none

/-- Major 0x09: SEMW. -/
def decodeCommon09 (w : Nat) (_ext : List (BitVec 25)) : Option Instr :=
  if fld w 12 0 = 0 then some (.semw (at_ 4 21 w) (at_ 8 13 w)) else
  none

/-- Major 0x0A: MARK. -/
def decodeCommon0A (w : Nat) (_ext : List (BitVec 25)) : Option Instr :=
  if fld w 24 0 = 0 then some (.mark) else
  none

/-- Major 0x0B: IMOV. -/
def decodeCommon0B (w : Nat) (ext : List (BitVec 25)) : Option Instr :=
  some (.imov (at_ 6 19 w) ⟨at_ 19 0 w, ext⟩)

/-- Major 0x0C: IADD. -/
def decodeCommon0C (w : Nat) (ext : List (BitVec 25)) : Option Instr :=
  some (.iadd (at_ 6 19 w) (at_ 6 13 w) ⟨at_ 13 0 w, ext⟩)

/-- Major 0x0D: BREAK, SYSCALL. -/
def decodeCommon0D (w : Nat) (_ext : List (BitVec 25)) : Option Instr :=
  if fld w 24 16 = 0 then some (.brk (at_ 16 0 w)) else
  if fld w 24 16 = 256 then some (.syscall (at_ 16 0 w)) else
  none

/-- The common control set (R106). -/
def decodeCommon (w : Nat) (ext : List (BitVec 25)) : Option Instr :=
  match w / 2 ^ 25 % 2 ^ 6 with
  | 0x00 => decodeCommon00 w ext
  | 0x01 => decodeCommon01 w ext
  | 0x02 => decodeCommon02 w ext
  | 0x03 => decodeCommon03 w ext
  | 0x04 => decodeCommon04 w ext
  | 0x05 => decodeCommon05 w ext
  | 0x06 => decodeCommon06 w ext
  | 0x07 => decodeCommon07 w ext
  | 0x08 => decodeCommon08 w ext
  | 0x09 => decodeCommon09 w ext
  | 0x0A => decodeCommon0A w ext
  | 0x0B => decodeCommon0B w ext
  | 0x0C => decodeCommon0C w ext
  | 0x0D => decodeCommon0D w ext
  | _ => none

/-- The tests of a BTREE from its syllable and its target payloads (R109). The predicate and invert fields of tests at or
beyond n are ignored (DESIGN CHOICE, log 82). -/
def btreeTests (w : Nat) (pay : List (BitVec 25)) : List BTest :=
  let n := w / 2 ^ 3 % 2 ^ 2 + 1
  (List.range n).map fun j =>
    let y := (pay.getD (j / 2) 0).toNat
    { p := .ofNat 4 (w / 2 ^ (21 - 4 * j)), inv := .ofNat 1 (w / 2 ^ (8 - j)),
      off := .ofNat 12 (if j % 2 = 0 then y / 2 ^ 12 else y) }

/-- The must-be-zero bits of a BTREE: [2:0], bit 24 of each target, the unused half of the last (R109). -/
def btreeZero (w : Nat) (pay : List (BitVec 25)) : Bool :=
  let n := w / 2 ^ 3 % 2 ^ 2 + 1
  decide (w % 2 ^ 3 = 0) && (pay.all fun y => decide (y.toNat / 2 ^ 24 = 0)) &&
    (n % 2 == 0 || decide ((pay.getD (n / 2) 0).toNat % 2 ^ 12 = 0))

/-- Major 0x10: ADD, SUB, MIN, MAX. -/
def decodeCRaw10 (w : Nat) (_ext : List (BitVec 25)) : Option Instr :=
  if fld w 6 5 = 0 then some (.add (at_ 6 19 w) (at_ 6 13 w) (at_ 6 7 w) (at_ 5 0 w)) else
  if fld w 6 5 = 1 then some (.sub (at_ 6 19 w) (at_ 6 13 w) (at_ 6 7 w) (at_ 5 0 w)) else
  if fld w 6 5 = 2 then some (.min (at_ 6 19 w) (at_ 6 13 w) (at_ 6 7 w) (at_ 5 0 w)) else
  if fld w 6 5 = 3 then some (.max (at_ 6 19 w) (at_ 6 13 w) (at_ 6 7 w) (at_ 5 0 w)) else
  none

/-- Major 0x11: AND, OR, XOR, ANDN. -/
def decodeCRaw11 (w : Nat) (_ext : List (BitVec 25)) : Option Instr :=
  if fld w 6 5 = 0 then some (.and (at_ 6 19 w) (at_ 6 13 w) (at_ 6 7 w) (at_ 5 0 w)) else
  if fld w 6 5 = 1 then some (.or (at_ 6 19 w) (at_ 6 13 w) (at_ 6 7 w) (at_ 5 0 w)) else
  if fld w 6 5 = 2 then some (.xor (at_ 6 19 w) (at_ 6 13 w) (at_ 6 7 w) (at_ 5 0 w)) else
  if fld w 6 5 = 3 then some (.andn (at_ 6 19 w) (at_ 6 13 w) (at_ 6 7 w) (at_ 5 0 w)) else
  none

/-- Major 0x12: SHL, SHR, SRA, MULH. -/
def decodeCRaw12 (w : Nat) (_ext : List (BitVec 25)) : Option Instr :=
  if fld w 6 5 = 0 then some (.shl (at_ 6 19 w) (at_ 6 13 w) (at_ 6 7 w) (at_ 5 0 w)) else
  if fld w 6 5 = 1 then some (.shr (at_ 6 19 w) (at_ 6 13 w) (at_ 6 7 w) (at_ 5 0 w)) else
  if fld w 6 5 = 2 then some (.sra (at_ 6 19 w) (at_ 6 13 w) (at_ 6 7 w) (at_ 5 0 w)) else
  if fld w 6 5 = 3 then some (.mulh (at_ 6 19 w) (at_ 6 13 w) (at_ 6 7 w) (at_ 5 0 w)) else
  none

/-- Major 0x13: MUL, MULHU, MINU, MAXU. -/
def decodeCRaw13 (w : Nat) (_ext : List (BitVec 25)) : Option Instr :=
  if fld w 6 5 = 0 then some (.mul (at_ 6 19 w) (at_ 6 13 w) (at_ 6 7 w) (at_ 5 0 w)) else
  if fld w 6 5 = 1 then some (.mulhu (at_ 6 19 w) (at_ 6 13 w) (at_ 6 7 w) (at_ 5 0 w)) else
  if fld w 6 5 = 2 then some (.minu (at_ 6 19 w) (at_ 6 13 w) (at_ 6 7 w) (at_ 5 0 w)) else
  if fld w 6 5 = 3 then some (.maxu (at_ 6 19 w) (at_ 6 13 w) (at_ 6 7 w) (at_ 5 0 w)) else
  none

/-- Major 0x14: ANDI, ORI, XORI, MULI. -/
def decodeCRaw14 (w : Nat) (ext : List (BitVec 25)) : Option Instr :=
  if fld w 12 11 = 0 then some (.andi (at_ 6 19 w) (at_ 6 13 w) ⟨at_ 6 5 w, ext⟩ (at_ 5 0 w)) else
  if fld w 12 11 = 1 then some (.ori (at_ 6 19 w) (at_ 6 13 w) ⟨at_ 6 5 w, ext⟩ (at_ 5 0 w)) else
  if fld w 12 11 = 2 then some (.xori (at_ 6 19 w) (at_ 6 13 w) ⟨at_ 6 5 w, ext⟩ (at_ 5 0 w)) else
  if fld w 12 11 = 3 then some (.muli (at_ 6 19 w) (at_ 6 13 w) ⟨at_ 6 5 w, ext⟩ (at_ 5 0 w)) else
  none

/-- Major 0x15: SHLI, SHRI, SRAI. -/
def decodeCRaw15 (w : Nat) (_ext : List (BitVec 25)) : Option Instr :=
  if fld w 12 11 = 0 then some (.shli (at_ 6 19 w) (at_ 6 13 w) (at_ 6 5 w) (at_ 5 0 w)) else
  if fld w 12 11 = 1 then some (.shri (at_ 6 19 w) (at_ 6 13 w) (at_ 6 5 w) (at_ 5 0 w)) else
  if fld w 12 11 = 2 then some (.srai (at_ 6 19 w) (at_ 6 13 w) (at_ 6 5 w) (at_ 5 0 w)) else
  none

/-- Major 0x16: MINI, MAXI, MINUI, MAXUI. -/
def decodeCRaw16 (w : Nat) (ext : List (BitVec 25)) : Option Instr :=
  if fld w 12 11 = 0 then some (.mini (at_ 6 19 w) (at_ 6 13 w) ⟨at_ 6 5 w, ext⟩ (at_ 5 0 w)) else
  if fld w 12 11 = 1 then some (.maxi (at_ 6 19 w) (at_ 6 13 w) ⟨at_ 6 5 w, ext⟩ (at_ 5 0 w)) else
  if fld w 12 11 = 2 then some (.minui (at_ 6 19 w) (at_ 6 13 w) ⟨at_ 6 5 w, ext⟩ (at_ 5 0 w)) else
  if fld w 12 11 = 3 then some (.maxui (at_ 6 19 w) (at_ 6 13 w) ⟨at_ 6 5 w, ext⟩ (at_ 5 0 w)) else
  none

/-- Major 0x17: SUBFI. -/
def decodeCRaw17 (w : Nat) (ext : List (BitVec 25)) : Option Instr :=
  if fld w 12 11 = 0 then some (.subfi (at_ 6 19 w) (at_ 6 13 w) ⟨at_ 6 5 w, ext⟩ (at_ 5 0 w)) else
  none

/-- Major 0x18: CMP. -/
def decodeCRaw18 (w : Nat) (_ext : List (BitVec 25)) : Option Instr :=
  some (.cmp (at_ 4 21 w) (at_ 6 15 w) (at_ 6 9 w) (at_ 4 5 w) (at_ 5 0 w))

/-- Major 0x19: CMPI. -/
def decodeCRaw19 (w : Nat) (ext : List (BitVec 25)) : Option Instr :=
  some (.cmpi (at_ 4 21 w) (at_ 6 15 w) ⟨at_ 6 9 w, ext⟩ (at_ 4 5 w) (at_ 5 0 w))

/-- Major 0x1A: PAND, POR, PXOR, PANDN, PNOT, PGET, PPUT. -/
def decodeCRaw1A (w : Nat) (_ext : List (BitVec 25)) : Option Instr :=
  if fld w 12 5 = 0 then some (.pand (at_ 4 21 w) (at_ 4 17 w) (at_ 4 13 w) (at_ 5 0 w)) else
  if fld w 12 5 = 32 then some (.por (at_ 4 21 w) (at_ 4 17 w) (at_ 4 13 w) (at_ 5 0 w)) else
  if fld w 12 5 = 64 then some (.pxor (at_ 4 21 w) (at_ 4 17 w) (at_ 4 13 w) (at_ 5 0 w)) else
  if fld w 12 5 = 96 then some (.pandn (at_ 4 21 w) (at_ 4 17 w) (at_ 4 13 w) (at_ 5 0 w)) else
  if fld w 16 5 = 128 then some (.pnot (at_ 4 21 w) (at_ 4 17 w) (at_ 5 0 w)) else
  if fld w 18 5 = 192 then some (.pget (at_ 6 19 w) (at_ 5 0 w)) else
  if fld w 24 19 = 0 ∧ fld w 12 5 = 224 then some (.pput (at_ 6 13 w) (at_ 5 0 w)) else
  none

/-- Major 0x1C: BRC, JAL, JALR. -/
def decodeCRaw1C (w : Nat) (_ext : List (BitVec 25)) : Option Instr :=
  if fld w 24 23 = 0 ∧ fld w 6 5 = 0 then some (.brc (at_ 16 7 w) (at_ 5 0 w)) else
  if fld w 24 23 = 1 ∧ fld w 6 5 = 0 then some (.jal (at_ 16 7 w) (at_ 5 0 w)) else
  if fld w 24 23 = 2 ∧ fld w 6 5 = 0 then some (.jalr (at_ 6 17 w) (at_ 10 7 w) (at_ 5 0 w)) else
  none

/-- Major 0x1D: LDB, LDBU, LDH, LDHU, LDW, LDWU, LDD. -/
def decodeCRaw1D (w : Nat) (ext : List (BitVec 25)) : Option Instr :=
  if fld w 12 10 = 0 then some (.ldb (at_ 6 19 w) (at_ 6 13 w) ⟨at_ 5 5 w, ext⟩ (at_ 5 0 w)) else
  if fld w 12 10 = 1 then some (.ldbu (at_ 6 19 w) (at_ 6 13 w) ⟨at_ 5 5 w, ext⟩ (at_ 5 0 w)) else
  if fld w 12 10 = 2 then some (.ldh (at_ 6 19 w) (at_ 6 13 w) ⟨at_ 5 5 w, ext⟩ (at_ 5 0 w)) else
  if fld w 12 10 = 3 then some (.ldhu (at_ 6 19 w) (at_ 6 13 w) ⟨at_ 5 5 w, ext⟩ (at_ 5 0 w)) else
  if fld w 12 10 = 4 then some (.ldw (at_ 6 19 w) (at_ 6 13 w) ⟨at_ 5 5 w, ext⟩ (at_ 5 0 w)) else
  if fld w 12 10 = 5 then some (.ldwu (at_ 6 19 w) (at_ 6 13 w) ⟨at_ 5 5 w, ext⟩ (at_ 5 0 w)) else
  if fld w 12 10 = 6 then some (.ldd (at_ 6 19 w) (at_ 6 13 w) ⟨at_ 5 5 w, ext⟩ (at_ 5 0 w)) else
  none

/-- Major 0x1E: STB, STH, STW, STD. -/
def decodeCRaw1E (w : Nat) (ext : List (BitVec 25)) : Option Instr :=
  if fld w 12 10 = 0 then some (.stb (at_ 6 19 w) (at_ 6 13 w) ⟨at_ 5 5 w, ext⟩ (at_ 5 0 w)) else
  if fld w 12 10 = 1 then some (.sth (at_ 6 19 w) (at_ 6 13 w) ⟨at_ 5 5 w, ext⟩ (at_ 5 0 w)) else
  if fld w 12 10 = 2 then some (.stw (at_ 6 19 w) (at_ 6 13 w) ⟨at_ 5 5 w, ext⟩ (at_ 5 0 w)) else
  if fld w 12 10 = 3 then some (.std (at_ 6 19 w) (at_ 6 13 w) ⟨at_ 5 5 w, ext⟩ (at_ 5 0 w)) else
  none

/-- Major 0x1F: AMOADD, AMOAND, AMOOR, AMOXOR, AMOMIN, AMOMAX, AMOMINU, AMOMAXU, AMOSWAP, AMOCAS. -/
def decodeCRaw1F (w : Nat) (_ext : List (BitVec 25)) : Option Instr :=
  if fld w 6 3 = 0 ∧ fld w 1 0 = 0 then some (.amoadd (at_ 6 19 w) (at_ 6 13 w) (at_ 6 7 w) (at_ 1 2 w)) else
  if fld w 6 3 = 1 ∧ fld w 1 0 = 0 then some (.amoand (at_ 6 19 w) (at_ 6 13 w) (at_ 6 7 w) (at_ 1 2 w)) else
  if fld w 6 3 = 2 ∧ fld w 1 0 = 0 then some (.amoor (at_ 6 19 w) (at_ 6 13 w) (at_ 6 7 w) (at_ 1 2 w)) else
  if fld w 6 3 = 3 ∧ fld w 1 0 = 0 then some (.amoxor (at_ 6 19 w) (at_ 6 13 w) (at_ 6 7 w) (at_ 1 2 w)) else
  if fld w 6 3 = 4 ∧ fld w 1 0 = 0 then some (.amomin (at_ 6 19 w) (at_ 6 13 w) (at_ 6 7 w) (at_ 1 2 w)) else
  if fld w 6 3 = 5 ∧ fld w 1 0 = 0 then some (.amomax (at_ 6 19 w) (at_ 6 13 w) (at_ 6 7 w) (at_ 1 2 w)) else
  if fld w 6 3 = 6 ∧ fld w 1 0 = 0 then some (.amominu (at_ 6 19 w) (at_ 6 13 w) (at_ 6 7 w) (at_ 1 2 w)) else
  if fld w 6 3 = 7 ∧ fld w 1 0 = 0 then some (.amomaxu (at_ 6 19 w) (at_ 6 13 w) (at_ 6 7 w) (at_ 1 2 w)) else
  if fld w 6 3 = 8 ∧ fld w 1 0 = 0 then some (.amoswap (at_ 6 19 w) (at_ 6 13 w) (at_ 6 7 w) (at_ 1 2 w)) else
  if fld w 6 3 = 9 ∧ fld w 1 0 = 0 then some (.amocas (at_ 6 19 w) (at_ 6 13 w) (at_ 6 7 w) (at_ 1 2 w)) else
  none

/-- Major 0x20: CRR, CRRD, CRW, KRD, KWR, SEEDR, SEEDW. -/
def decodeCRaw20 (w : Nat) (_ext : List (BitVec 25)) : Option Instr :=
  if fld w 24 22 = 0 then some (.crr (at_ 6 16 w) (at_ 3 13 w) (at_ 13 0 w)) else
  if fld w 24 22 = 1 then some (.crrd (at_ 6 16 w) (at_ 3 13 w) (at_ 13 0 w)) else
  if fld w 24 22 = 2 then some (.crw (at_ 6 16 w) (at_ 3 13 w) (at_ 13 0 w)) else
  if fld w 24 22 = 3 ∧ fld w 15 5 = 0 then some (.krd (at_ 6 16 w) (at_ 5 0 w)) else
  if fld w 24 22 = 4 ∧ fld w 15 5 = 0 then some (.kwr (at_ 6 16 w) (at_ 5 0 w)) else
  if fld w 24 22 = 5 ∧ fld w 15 2 = 0 then some (.seedr (at_ 6 16 w) (at_ 2 0 w)) else
  if fld w 24 22 = 6 ∧ fld w 15 2 = 0 then some (.seedw (at_ 6 16 w) (at_ 2 0 w)) else
  none

/-- Major 0x21: LRD, LWR. -/
def decodeCRaw21 (w : Nat) (_ext : List (BitVec 25)) : Option Instr :=
  if fld w 24 24 = 0 ∧ fld w 17 3 = 0 then some (.lrd (at_ 6 18 w) (at_ 3 0 w)) else
  if fld w 24 24 = 1 ∧ fld w 17 3 = 0 then some (.lwr (at_ 6 18 w) (at_ 3 0 w)) else
  none

/-- Major 0x22: WAITX, TESTX. -/
def decodeCRaw22 (w : Nat) (_ext : List (BitVec 25)) : Option Instr :=
  if fld w 16 0 = 0 then some (.waitx (at_ 2 23 w) (at_ 6 17 w)) else
  if fld w 16 16 = 1 ∧ fld w 11 0 = 0 then some (.testx (at_ 2 23 w) (at_ 6 17 w) (at_ 4 12 w)) else
  none

/-- Major 0x23: FENCE_T, FENCE_D, FENCE_M, FENCE_S. -/
def decodeCRaw23 (w : Nat) (_ext : List (BitVec 25)) : Option Instr :=
  if fld w 24 0 = 0 then some (.fenceT) else
  if fld w 24 0 = 8388608 then some (.fenceD) else
  if fld w 24 0 = 16777216 then some (.fenceM) else
  if fld w 24 0 = 25165824 then some (.fenceS) else
  none

/-- Major 0x24: IFENCE, ISWAP. -/
def decodeCRaw24 (w : Nat) (_ext : List (BitVec 25)) : Option Instr :=
  if fld w 24 0 = 0 then some (.ifence) else
  if fld w 24 0 = 8388608 then some (.iswap) else
  none

/-- The C stream but for BTREE (R109, R148 to R161). -/
def decodeCRaw (w : Nat) (ext : List (BitVec 25)) : Option Instr :=
  match w / 2 ^ 25 % 2 ^ 6 with
  | 0x10 => decodeCRaw10 w ext
  | 0x11 => decodeCRaw11 w ext
  | 0x12 => decodeCRaw12 w ext
  | 0x13 => decodeCRaw13 w ext
  | 0x14 => decodeCRaw14 w ext
  | 0x15 => decodeCRaw15 w ext
  | 0x16 => decodeCRaw16 w ext
  | 0x17 => decodeCRaw17 w ext
  | 0x18 => decodeCRaw18 w ext
  | 0x19 => decodeCRaw19 w ext
  | 0x1A => decodeCRaw1A w ext
  | 0x1C => decodeCRaw1C w ext
  | 0x1D => decodeCRaw1D w ext
  | 0x1E => decodeCRaw1E w ext
  | 0x1F => decodeCRaw1F w ext
  | 0x20 => decodeCRaw20 w ext
  | 0x21 => decodeCRaw21 w ext
  | 0x22 => decodeCRaw22 w ext
  | 0x23 => decodeCRaw23 w ext
  | 0x24 => decodeCRaw24 w ext
  | _ => none

/-- A C syllable with the payloads after it. -/
def decodeC (w : Nat) (ext : List (BitVec 25)) : Option Instr :=
  if majorOf w < 0x10 then decodeCommon w ext
  else if majorOf w = 0x1B then (if btreeZero w ext then some (.btree (btreeTests w ext)) else none)
  else decodeCRaw w ext

/-- Major 0x10: COPY. -/
def decodeXRaw10 (w : Nat) (ext : List (BitVec 25)) : Option Instr :=
  some (.copy (at_ 2 23 w) (at_ 4 19 w) (at_ 4 15 w) (at_ 1 14 w) (at_ 3 11 w) ⟨at_ 11 0 w, ext⟩)

/-- Major 0x11: CVT. -/
def decodeXRaw11 (w : Nat) (ext : List (BitVec 25)) : Option Instr :=
  some (.cvt (at_ 2 23 w) (at_ 4 19 w) (at_ 4 15 w) (at_ 2 13 w) (at_ 1 12 w) (at_ 1 11 w) (at_ 3 8 w) ⟨at_ 8 0 w, ext⟩)

/-- Major 0x12: XPOSE. -/
def decodeXRaw12 (w : Nat) (ext : List (BitVec 25)) : Option Instr :=
  some (.xpose (at_ 2 23 w) (at_ 4 19 w) (at_ 4 15 w) (at_ 1 14 w) (at_ 3 11 w) ⟨at_ 11 0 w, ext⟩)

/-- Major 0x13: CMPR, EXPD. -/
def decodeXRaw13 (w : Nat) (ext : List (BitVec 25)) : Option Instr :=
  if fld w 22 22 = 0 then some (.cmpr (at_ 2 23 w) (at_ 2 20 w) (at_ 4 16 w) (at_ 6 10 w) (at_ 1 9 w) (at_ 3 6 w) ⟨at_ 6 0 w, ext⟩) else
  if fld w 22 22 = 1 then some (.expd (at_ 2 23 w) (at_ 2 20 w) (at_ 4 16 w) (at_ 6 10 w) (at_ 1 9 w) (at_ 3 6 w) ⟨at_ 6 0 w, ext⟩) else
  none

/-- Major 0x14: DECODE. -/
def decodeXRaw14 (w : Nat) (ext : List (BitVec 25)) : Option Instr :=
  some (.decode (at_ 2 23 w) (at_ 4 19 w) (at_ 4 15 w) (at_ 2 13 w) (at_ 1 12 w) (at_ 3 9 w) ⟨at_ 9 0 w, ext⟩)

/-- Major 0x15: SEND. -/
def decodeXRaw15 (w : Nat) (ext : List (BitVec 25)) : Option Instr :=
  some (.send (at_ 2 23 w) (at_ 4 19 w) (at_ 6 13 w) (at_ 1 12 w) (at_ 3 9 w) ⟨at_ 9 0 w, ext⟩)

/-- Major 0x16: RECV. -/
def decodeXRaw16 (w : Nat) (ext : List (BitVec 25)) : Option Instr :=
  some (.recv (at_ 5 20 w) (at_ 6 14 w) ⟨at_ 14 0 w, ext⟩)

/-- Major 0x17: RAMO_ADD, RAMO_AND, RAMO_OR, RAMO_XOR, RAMO_MIN, RAMO_MAX, RAMO_MINU, RAMO_MAXU, RAMO_SWAP, RAMO_CAS. -/
def decodeXRaw17 (w : Nat) (ext : List (BitVec 25)) : Option Instr :=
  if fld w 22 19 = 0 then some (.ramoAdd (at_ 2 23 w) (at_ 1 18 w) (at_ 3 15 w) (at_ 3 12 w) (at_ 3 9 w) (at_ 1 8 w) ⟨at_ 8 0 w, ext⟩) else
  if fld w 22 19 = 1 then some (.ramoAnd (at_ 2 23 w) (at_ 1 18 w) (at_ 3 15 w) (at_ 3 12 w) (at_ 3 9 w) (at_ 1 8 w) ⟨at_ 8 0 w, ext⟩) else
  if fld w 22 19 = 2 then some (.ramoOr (at_ 2 23 w) (at_ 1 18 w) (at_ 3 15 w) (at_ 3 12 w) (at_ 3 9 w) (at_ 1 8 w) ⟨at_ 8 0 w, ext⟩) else
  if fld w 22 19 = 3 then some (.ramoXor (at_ 2 23 w) (at_ 1 18 w) (at_ 3 15 w) (at_ 3 12 w) (at_ 3 9 w) (at_ 1 8 w) ⟨at_ 8 0 w, ext⟩) else
  if fld w 22 19 = 4 then some (.ramoMin (at_ 2 23 w) (at_ 1 18 w) (at_ 3 15 w) (at_ 3 12 w) (at_ 3 9 w) (at_ 1 8 w) ⟨at_ 8 0 w, ext⟩) else
  if fld w 22 19 = 5 then some (.ramoMax (at_ 2 23 w) (at_ 1 18 w) (at_ 3 15 w) (at_ 3 12 w) (at_ 3 9 w) (at_ 1 8 w) ⟨at_ 8 0 w, ext⟩) else
  if fld w 22 19 = 6 then some (.ramoMinu (at_ 2 23 w) (at_ 1 18 w) (at_ 3 15 w) (at_ 3 12 w) (at_ 3 9 w) (at_ 1 8 w) ⟨at_ 8 0 w, ext⟩) else
  if fld w 22 19 = 7 then some (.ramoMaxu (at_ 2 23 w) (at_ 1 18 w) (at_ 3 15 w) (at_ 3 12 w) (at_ 3 9 w) (at_ 1 8 w) ⟨at_ 8 0 w, ext⟩) else
  if fld w 22 19 = 8 then some (.ramoSwap (at_ 2 23 w) (at_ 1 18 w) (at_ 3 15 w) (at_ 3 12 w) (at_ 3 9 w) (at_ 1 8 w) ⟨at_ 8 0 w, ext⟩) else
  if fld w 22 19 = 9 then some (.ramoCas (at_ 2 23 w) (at_ 1 18 w) (at_ 3 15 w) (at_ 3 12 w) (at_ 3 9 w) (at_ 1 8 w) ⟨at_ 8 0 w, ext⟩) else
  none

/-- Major 0x18: XWAIT, XWAITB, XFENCE, XNEXT. -/
def decodeXRaw18 (w : Nat) (_ext : List (BitVec 25)) : Option Instr :=
  if fld w 24 23 = 0 ∧ fld w 14 0 = 0 then some (.xwait (at_ 2 21 w) (at_ 6 15 w)) else
  if fld w 24 15 = 256 ∧ fld w 9 0 = 0 then some (.xwaitb (at_ 5 10 w)) else
  if fld w 24 23 = 2 ∧ fld w 20 0 = 0 then some (.xfence (at_ 2 21 w)) else
  if fld w 24 23 = 3 ∧ fld w 14 0 = 0 then some (.xnext (at_ 2 21 w) (at_ 6 15 w)) else
  none

/-- Major 0x19: SHW, XCFG. -/
def decodeXRaw19 (w : Nat) (_ext : List (BitVec 25)) : Option Instr :=
  if fld w 24 24 = 0 ∧ fld w 11 0 = 0 then some (.shw (at_ 4 20 w) (at_ 2 18 w) (at_ 6 12 w)) else
  if fld w 24 24 = 1 ∧ fld w 12 0 = 0 then some (.xcfg (at_ 5 19 w) (at_ 6 13 w)) else
  none

/-- Major 0x1A: LDHCW, LDPLN, LDPAIR. -/
def decodeXRaw1A (w : Nat) (ext : List (BitVec 25)) : Option Instr :=
  if fld w 22 21 = 0 then some (.ldhcw (at_ 2 23 w) (at_ 4 17 w) (at_ 6 11 w) (at_ 1 10 w) (at_ 3 7 w) ⟨at_ 7 0 w, ext⟩) else
  if fld w 22 21 = 1 then some (.ldpln (at_ 2 23 w) (at_ 4 17 w) (at_ 6 11 w) (at_ 1 10 w) (at_ 3 7 w) ⟨at_ 7 0 w, ext⟩) else
  if fld w 22 21 = 2 then some (.ldpair (at_ 2 23 w) (at_ 4 17 w) (at_ 6 11 w) (at_ 1 10 w) (at_ 3 7 w) ⟨at_ 7 0 w, ext⟩) else
  none

/-- The X stream (R110, R277 to R289). -/
def decodeXRaw (w : Nat) (ext : List (BitVec 25)) : Option Instr :=
  match w / 2 ^ 25 % 2 ^ 6 with
  | 0x10 => decodeXRaw10 w ext
  | 0x11 => decodeXRaw11 w ext
  | 0x12 => decodeXRaw12 w ext
  | 0x13 => decodeXRaw13 w ext
  | 0x14 => decodeXRaw14 w ext
  | 0x15 => decodeXRaw15 w ext
  | 0x16 => decodeXRaw16 w ext
  | 0x17 => decodeXRaw17 w ext
  | 0x18 => decodeXRaw18 w ext
  | 0x19 => decodeXRaw19 w ext
  | 0x1A => decodeXRaw1A w ext
  | _ => none

/-- An X syllable with the payloads after it. -/
def decodeX (w : Nat) (ext : List (BitVec 25)) : Option Instr :=
  if majorOf w < 0x10 then decodeCommon w ext else decodeXRaw w ext

/-- A sub-slot word in the position of sub-unit u: its first syllable w and the payload v of its second (R111, R222 to R240,
R261 to R263). -/
def decodeSubRaw (u : SubUnit) (w v : Nat) : Option Instr :=
  match w / 2 ^ 25 % 2 ^ 6 with
  | 0x11 => if w % 2 ^ 25 = 0 then some (.midle u) else none
  | 0x12 =>
    if fld w 10 0 = 0 ∧ fld v 8 0 = 0 then some (.wcode (at_ 6 19 w) (at_ 8 11 w) (at_ 16 9 v)) else none
  | 0x13 =>
    if fld w 4 0 = 0 ∧ fld v 8 0 = 0 then some (.wcvt (at_ 6 19 w) (at_ 8 11 w) (at_ 4 7 w) (at_ 2 5 w) (at_ 16 9 v)) else none
  | 0x14 =>
    if fld w 10 5 = 0 ∧ fld w 2 0 = 0 ∧ fld v 8 0 = 0 then some (.wc4 (at_ 6 19 w) (at_ 8 11 w) (at_ 2 3 w) (at_ 16 9 v)) else none
  | 0x16 =>
    if fld w 8 0 = 0 ∧ fld v 8 0 = 0 then some (.nld (at_ 6 19 w) (at_ 2 17 w) (at_ 4 13 w) (at_ 2 11 w) (at_ 2 9 w) (at_ 16 9 v)) else none
  | 0x17 =>
    if fld w 24 0 = 0 then some (.nswp) else none
  | 0x18 =>
    if fld w 15 0 = 0 then some (.cbld (at_ 6 19 w) (at_ 2 17 w) (at_ 1 16 w)) else none
  | 0x1A =>
    if fld w 19 19 = 1 then some (.mcfg (at_ 5 20 w) (.imm (at_ 19 0 w)))
    else if fld w 12 0 = 0 then some (.mcfg (at_ 5 20 w) (.reg (at_ 6 13 w))) else none
  | 0x1B =>
    if fld w 0 0 = 0 ∧ fld v 8 0 = 0 then some (.pass (at_ 2 23 w) (at_ 8 15 w) (at_ 8 7 w) (at_ 6 1 w) (at_ 16 9 v)) else none
  | 0x1C =>
    if fld w 18 0 = 0 then some (.mwait (at_ 6 19 w)) else none
  | 0x1E =>
    if fld w 4 0 = 0 then some (.drn (at_ 6 19 w) (at_ 1 18 w) (at_ 1 17 w) (at_ 1 16 w) (at_ 6 10 w) (at_ 1 9 w) (at_ 4 5 w)) else none
  | 0x1F =>
    if fld w 13 0 = 0 then some (.drv (at_ 2 23 w) (at_ 1 22 w) (at_ 8 14 w)) else none
  | 0x20 =>
    if fld w 20 0 = 0 then some (.aclr (at_ 4 21 w)) else none
  | 0x22 =>
    if fld w 7 0 = 0 ∧ fld v 8 0 = 0 then some (.rstat (at_ 10 15 w) (at_ 7 8 w) (at_ 8 17 v) (at_ 8 9 v)) else none
  | 0x2C =>
    if fld w 17 0 = 0 then some (.skw (at_ 6 19 w) (at_ 1 18 w)) else none
  | 0x2D =>
    if fld w 17 0 = 0 then some (.skn (at_ 6 19 w) (at_ 1 18 w)) else none
  | 0x24 =>
    if fld w 19 19 = 1 then some (.pcfg (at_ 5 20 w) (.imm (at_ 19 0 w)))
    else if fld w 12 0 = 0 then some (.pcfg (at_ 5 20 w) (.reg (at_ 6 13 w))) else none
  | 0x25 =>
    if fld w 10 0 = 0 ∧ fld v 6 0 = 0 then some (.pcell (at_ 6 19 w) (at_ 1 18 w) (at_ 2 16 w) (at_ 1 15 w) (at_ 4 11 w) (at_ 18 7 v)) else none
  | 0x26 =>
    if fld w 10 0 = 0 ∧ fld v 0 0 = 0 then some (.psets (at_ 6 19 w) (at_ 1 18 w) (at_ 2 16 w) (at_ 1 15 w) (at_ 4 11 w) (at_ 12 13 v) (at_ 12 1 v)) else none
  | 0x27 =>
    if fld w 18 0 = 0 ∧ fld v 8 0 = 0 then some (.pcidx (at_ 6 19 w) (at_ 16 9 v)) else none
  | 0x28 =>
    if fld w 18 0 = 0 ∧ fld v 8 0 = 0 then some (.paclr (at_ 6 19 w) (at_ 16 9 v)) else none
  | _ => none

/-- The header of a header bundle (R113). -/
def decodeMhdr (w : Nat) : Option Instr :=
  if bsOf w ∧ majorOf w = 0x10 ∧ w % 2 ^ 6 = 0 then some (.mhdr (.ofNat 7 (w / 2 ^ 18)) (.ofNat 12 (w / 2 ^ 6))) else none

/-- A syllable of a stream with the payloads after it, its operands checked (R124, stage 2). DEDUCED (log 14). -/
def decodeSyl (st : Str) (w : Nat) (ext : List (BitVec 25)) : Except DErr Instr :=
  let raw := match st with
    | .c => decodeC w ext
    | .x => decodeX w ext
    | .m => if majorOf w < 0x10 then decodeCommon w ext else decodeMhdr w
    | .v => none
  match raw with
  | none => .error .opcode
  | some i => if wellFormed st i then .ok i else .error .opcode

/-- A sub-slot word, its operands checked. -/
def decodeSub (u : SubUnit) (w v : Nat) : Except DErr Instr :=
  match decodeSubRaw u w v with
  | none => .error .opcode
  | some i => if wellFormed .m i then .ok i else .error .opcode

/-- An immediate field of this syllable may be widened by EXT (R105, R106, R149 to R154, R276 to R288). -/
def extensible (st : Str) (w : Nat) : Bool :=
  match majorOf w with
  | 0x03 | 0x06 | 0x0B | 0x0C => true
  | 0x05 => w / 2 ^ 23 % 2 == 1
  | m =>
    match st with
    | .c => m == 0x14 || m == 0x16 || m == 0x17 || m == 0x19 || m == 0x1D || m == 0x1E
    | .x => (0x10 ≤ m && m ≤ 0x17) || m == 0x1A
    | _ => false

/-- The syllables of a bundle with the payloads of the EXT syllables after each, and the payloads before the first. -/
def groupWords : Nat → List Nat → List (BitVec 25) × List (Nat × Nat × List (BitVec 25))
  | _, [] => ([], [])
  | p, w :: t =>
    let (e, g) := groupWords (p + 1) t
    if majorOf w = 0x0F then (BitVec.ofNat 25 w :: e, g) else ([], (p, w, e) :: g)

/-- EXT placement after one syllable (R105, R109). -/
def extPlaced (st : Str) (w : Nat) (ext : List (BitVec 25)) : Bool :=
  if st = .c ∧ majorOf w = 0x1B then ext.length == (w / 2 ^ 3 % 2 ^ 2 + 2) / 2
  else ext.isEmpty || (extensible st w && decide (ext.length ≤ 2))

/-- The sub-units in their order, and whether CHG mentions each (R113). -/
def units : List SubUnit := [.ew, .en, .ar, .dr, .rs, .pe, .xa]

def SubUnit.num : SubUnit → Nat
  | .ew => 0 | .en => 1 | .ar => 2 | .dr => 3 | .rs => 4 | .pe => 5 | .xa => 6

def mentions (chg : Nat) (u : SubUnit) : Bool := chg / 2 ^ (6 - u.num) % 2 == 1

/-- Majors of a sub-unit (R111). -/
def unitMajor (u : SubUnit) (m : Nat) : Bool :=
  match u with
  | .ew => 0x12 ≤ m && m ≤ 0x15
  | .en => 0x16 ≤ m && m ≤ 0x19
  | .ar => 0x1A ≤ m && m ≤ 0x1D
  | .dr => 0x1E ≤ m && m ≤ 0x21
  | .rs => 0x22 ≤ m && m ≤ 0x23
  | .pe => 0x24 ≤ m && m ≤ 0x2B
  | .xa => 0x2C ≤ m && m ≤ 0x2F

/-- Second syllables of an operation (R111); a reserved major has no length of its own. -/
def subLen (m : Nat) : Option Nat :=
  match m with
  | 0x12 | 0x13 | 0x14 | 0x16 | 0x1B | 0x22 | 0x25 | 0x26 | 0x27 | 0x28 => some 1
  | 0x11 | 0x17 | 0x18 | 0x1A | 0x1C | 0x1E | 0x1F | 0x20 | 0x24 | 0x2C | 0x2D => some 0
  | _ => none

/-- A sub-slot word stands in the position of its sub-unit with its length (R113). -/
def subPlaced (u : SubUnit) (g : Nat × Nat × List (BitVec 25)) : Bool :=
  let m := majorOf g.2.1
  (m == 0x11 || unitMajor u m) &&
    (match subLen m with
     | some n => g.2.2.length == n
     | none => decide (g.2.2.length ≤ 1))

/-- The syllable of a sub-slot word that stage 2 finds at fault: the second, where the first would do with a second syllable of zeros
(R111, R124). DEDUCED (log 13). -/
def subErrWord (u : SubUnit) (w : Nat) : Nat :=
  match decodeSub u w 0 with
  | .ok _ => 1
  | .error _ => 0

/-- The words of a header bundle, each with its sub-unit. -/
def decodeSubs : List SubUnit → List (Nat × Nat × List (BitVec 25)) → Except (DErr × Nat) (List (Nat × Instr))
  | u :: us, (p, w, e) :: t =>
    match decodeSub u w (e.headD 0).toNat with
    | .error d => .error (d, p + subErrWord u w)
    | .ok i =>
      match decodeSubs us t with
      | .error d => .error d
      | .ok l => .ok ((p, i) :: l)
  | _, _ => .ok []

/-- The word of a syllable that stage 2 finds at fault: a target of a BTREE whose own bits are not as they must be (R109),
else the syllable's first word. DEDUCED (log 13). -/
def errWord (st : Str) (w : Nat) (ext : List (BitVec 25)) : Nat :=
  if st = .c ∧ majorOf w = 0x1B ∧ w % 2 ^ 3 = 0 then
    ((List.range ext.length).find? fun j => decide ((ext.getD j 0).toNat / 2 ^ 24 ≠ 0) ||
      (decide (w / 2 ^ 3 % 2 ^ 2 = 2 * j) && decide ((ext.getD j 0).toNat % 2 ^ 12 ≠ 0))).elim 0 (· + 1)
  else 0

/-- The syllables of a control bundle, in ascending position. -/
def decodeSyls (st : Str) : List (Nat × Nat × List (BitVec 25)) → Except (DErr × Nat) (List (Nat × Instr))
  | [] => .ok []
  | (p, w, e) :: t =>
    match decodeSyl st w e with
    | .error d => .error (d, p + errWord st w e)
    | .ok i =>
      match decodeSyls st t with
      | .error d => .error d
      | .ok l => .ok ((p, i) :: l)

/-- The first group for which f fails, by position. -/
def firstBad (f : Nat × Nat × List (BitVec 25) → Bool) : List (Nat × Nat × List (BitVec 25)) → Option Nat
  | [] => none
  | g :: t => if f g then firstBad f t else some g.1

/-- Stages 1 and 2 of R124 on a C, M or X bundle: its syllables with their positions, or the cause and its position. An M bundle that
begins with neither a common-set major nor MHDR has the limit of a control bundle (DESIGN CHOICE, log 14). -/
def decodeBundle (st : Str) (ws : List Nat) : Except (DErr × Nat) (List (Nat × Instr)) :=
  let (lead, gs) := groupWords 0 ws
  if !lead.isEmpty then .error (.bundle, 0)
  else match gs with
  | [] => .error (.bundle, 0)
  | (p, w, e) :: rest =>
    if st = .m ∧ majorOf w = 0x10 then
      let us := units.filter (mentions (w / 2 ^ 18 % 2 ^ 7))
      if ws.length > 15 ∨ !e.isEmpty ∨ rest.length ≠ us.length then .error (.bundle, 0)
      else match ((us.zip rest).find? fun x => !subPlaced x.1 x.2) with
      | some x => .error (.bundle, x.2.1)
      | none =>
        match decodeSyl .m w [] with
        | .error d => .error (d, p)
        | .ok h =>
          match decodeSubs us rest with
          | .error d => .error d
          | .ok l => .ok ((p, h) :: l)
    else if ws.length > 4 then .error (.bundle, 4)
    else match firstBad (fun g => extPlaced st g.2.1 g.2.2) gs with
    | some q => .error (.bundle, q)
    | none => decodeSyls st gs

/-- The V instruction (R117). -/
def decodeV (w : Nat) : Option Instr :=
  if w % 2 ^ 2 = 0 then
    some (.vInstruction (.ofNat 9 (w / 2 ^ 7)) (.ofNat 3 (w / 2 ^ 4)) (.ofNat 1 (w / 2 ^ 3)) (.ofNat 1 (w / 2 ^ 2)))
  else none

/-- The fields of a 56-bit slot below its opcode (R119). -/
def slotFields (w : Nat) : SlotF :=
  { fmt := .ofNat 3 (w / 2 ^ 45), vd := .ofNat 6 (w / 2 ^ 39), va := .ofNat 6 (w / 2 ^ 33), vb := .ofNat 6 (w / 2 ^ 27)
    vc := .ofNat 6 (w / 2 ^ 21), mu := .ofNat 1 (w / 2 ^ 20), mi := .ofNat 1 (w / 2 ^ 19), ms := .ofNat 3 (w / 2 ^ 16)
    swa := .ofNat 2 (w / 2 ^ 14), swb := .ofNat 2 (w / 2 ^ 12), swc := .ofNat 2 (w / 2 ^ 10), rnd := .ofNat 2 (w / 2 ^ 8)
    sat := .ofNat 1 (w / 2 ^ 7), imm := .ofNat 7 w }

/-- The operation of a VA slot (R121). -/
def decodeVA (op : Nat) (f : SlotF) : Option Instr :=
  match op with
  | 0x01 => some .vaAdd
  | 0x02 => some .addu
  | 0x03 => some .vaSub
  | 0x04 => some .subu
  | 0x05 => some .vaMin
  | 0x06 => some .vaMinu
  | 0x07 => some .vaMax
  | 0x08 => some .vaMaxu
  | 0x09 => some .abs
  | 0x0A => some .neg
  | 0x0B => some .vaAnd
  | 0x0C => some .vaOr
  | 0x0D => some .vaXor
  | 0x0E => some .vaAndn
  | 0x0F => some .vaShl
  | 0x10 => some .vaShr
  | 0x11 => some .vaSra
  | 0x12 => some .vaShli
  | 0x13 => some .vaShri
  | 0x14 => some .vaSrai
  | 0x15 => some .addi
  | 0x16 => some .movi
  | 0x17 => some .vaCmp
  | 0x18 => some .qshr
  | 0x20 => some .mov
  | 0x21 => some .sel
  | 0x30 => some .fadd
  | 0x31 => some .fsub
  | 0x32 => some .vaFmul
  | 0x33 => some .fmin
  | 0x34 => some .fmax
  | 0x35 => some .fabs
  | 0x36 => some .fneg
  | 0x37 => some .fcmp
  | 0x38 => some .cvtif
  | 0x39 => some .cvtuf
  | 0x3A => some .cvtfi
  | 0x3B => some .cvtfu
  | 0x3C => some .cvtqf
  | 0x3D => some .cvtfq
  | 0x40 => some .mset
  | 0x41 => some .mget
  | 0x42 => some .qset
  | 0x43 => some .qget
  | 0x44 => some .bwr
  | 0x45 => some .brd
  | 0x46 => some .rpw
  | _ => none

/-- The operation of a VB slot (R121). -/
def decodeVB (op : Nat) (f : SlotF) : Option Instr :=
  match op with
  | 0x01 => some .vbMul
  | 0x02 => some .mulu
  | 0x03 => some .vbMulh
  | 0x04 => some .vbMulhu
  | 0x05 => some .mad
  | 0x06 => some .madu
  | 0x07 => some .mulq
  | 0x08 => some .madq
  | 0x09 => some .dot
  | 0x0A => some .dotu
  | 0x10 => some .fma
  | 0x11 => some .fms
  | 0x12 => some .fnma
  | 0x13 => some .fnms
  | 0x14 => some .vbFmul
  | 0x18 => some .fdot2
  | _ => none

/-- The operation of a VL slot (R121). -/
def decodeVL (op : Nat) (f : SlotF) : Option Instr :=
  match op with
  | 0x01 => some .vld
  | 0x02 => some .vst
  | 0x03 => some .vldr
  | 0x04 => some .vldc
  | 0x05 => some .vstr
  | 0x06 => some .vstc
  | 0x07 => some .vlds
  | 0x08 => some .vldu
  | 0x09 => some .vstu
  | 0x0A =>
    match f.imm.toNat with
    | 0 => some .vamoAdd
    | 1 => some .vamoAnd
    | 2 => some .vamoOr
    | 3 => some .vamoXor
    | 4 => some .vamoMin
    | 5 => some .vamoMax
    | 6 => some .vamoMinu
    | 7 => some .vamoMaxu
    | 8 => some .vamoSwap
    | 9 => some .vamoCas
    | _ => none
  | _ => none

/-- The operation of a VX slot (R121). -/
def decodeVX (op : Nat) (f : SlotF) : Option Instr :=
  match op with
  | 0x01 => some .perm
  | 0x02 => some .lrot
  | 0x03 => some .fshl
  | 0x04 => some .fshr
  | 0x05 => some .psum
  | 0x06 => some .clz
  | 0x07 => some .popc
  | 0x08 => some .exte
  | 0x09 => some .inse
  | 0x10 =>
    match f.imm.toNat with
    | 0 => some .redAdd
    | 1 => some .redMin
    | 2 => some .redMax
    | 3 => some .redMinu
    | 4 => some .redMaxu
    | 5 => some .redAnd
    | 6 => some .redOr
    | 7 => some .redXor
    | 8 => some .redFadd
    | 9 => some .redFmin
    | 10 => some .redFmax
    | _ => none
  | 0x11 =>
    match f.imm.toNat with
    | 0 => some .xredAdd
    | 1 => some .xredMin
    | 2 => some .xredMax
    | 3 => some .xredMinu
    | 4 => some .xredMaxu
    | 5 => some .xredAnd
    | 6 => some .xredOr
    | 7 => some .xredXor
    | 8 => some .xredFadd
    | 9 => some .xredFmin
    | 10 => some .xredFmax
    | _ => none
  | 0x12 => if f.imm.toNat < 8 then some .xcopy else some .xbc
  | 0x20 => some .exp2
  | 0x21 => some .log2
  | 0x22 => some .rcp
  | 0x23 => some .rsqrt
  | 0x24 => some .rand
  | 0x28 => some .cvtfb
  | 0x29 => some .cvtbf
  | 0x2A => some .fcvtq
  | 0x2B => some .cbd
  | _ => none

/-- A slot of an HCW: nothing for the slot NOP (R119), an operation, or ILLEGAL_OPCODE. -/
def decodeSlot (slot w : Nat) : Except DErr (Option (Instr × SlotF)) :=
  let op := w / 2 ^ 48 % 2 ^ 8
  if op = 0 then .ok none
  else
    let f := slotFields w
    match (match slot with
      | 0 => decodeVA op f
      | 1 => decodeVB op f
      | 2 => decodeVL op f
      | _ => decodeVX op f) with
    | none => .error .opcode
    | some i => if slotWellFormed i f then .ok (some (i, f)) else .error .opcode

/-- The VC operations (R211). -/
def decodeVCRaw (w : Nat) : Option Instr :=
  match w / 2 ^ 18 % 2 ^ 6 with
  | 0x01 => if w % 2 ^ 18 = 0 then some .vend else none
  | 0x02 => if w / 2 ^ 17 % 2 = 0 then some (.vbr (.ofNat 17 w)) else none
  | 0x03 => some (.vbrm (.ofNat 3 (w / 2 ^ 15)) (.ofNat 2 (w / 2 ^ 13)) (.ofNat 13 w))
  | 0x04 =>
    if w / 2 ^ 16 % 2 = 1 then some (.vloop (.ofNat 1 (w / 2 ^ 17)) (.imm (.ofNat 8 (w / 2 ^ 8))) (.ofNat 8 w))
    else if w / 2 ^ 8 % 2 ^ 3 = 0 then
      some (.vloop (.ofNat 1 (w / 2 ^ 17)) (.kreg (.ofNat 5 (w / 2 ^ 11))) (.ofNat 8 w))
    else none
  | 0x05 => if w % 2 ^ 10 = 0 then some (.vlwr (.ofNat 3 (w / 2 ^ 15)) (.ofNat 5 (w / 2 ^ 10))) else none
  | 0x06 => if w % 2 ^ 6 = 0 then some (.vsemp (.ofNat 4 (w / 2 ^ 14)) (.ofNat 8 (w / 2 ^ 6))) else none
  | 0x07 => if w % 2 ^ 6 = 0 then some (.vsemw (.ofNat 4 (w / 2 ^ 14)) (.ofNat 8 (w / 2 ^ 6))) else none
  | 0x08 => some (.vgate (.ofNat 3 (w / 2 ^ 15)) (.ofNat 5 (w / 2 ^ 10)) (.ofNat 10 w))
  | 0x09 => if w % 2 ^ 18 = 0 then some .vmark else none
  | 0x0A => if w % 2 ^ 16 = 0 then some (.blend (.ofNat 2 (w / 2 ^ 16))) else none
  | 0x0B => if w % 2 ^ 16 = 0 then some (.bret (.ofNat 2 (w / 2 ^ 16))) else none
  | 0x0C => if w % 2 ^ 12 = 0 then some (.statrx (.ofNat 6 (w / 2 ^ 12))) else none
  | 0x0D => if w / 2 ^ 16 % 2 ^ 2 = 0 then some (.vbrk (.ofNat 16 w)) else none
  | _ => none

/-- The VC slot of an HCW. -/
def decodeVC (w : Nat) : Except DErr (Option Instr) :=
  if w / 2 ^ 18 % 2 ^ 6 = 0 then .ok none
  else match decodeVCRaw w with
    | none => .error .opcode
    | some i => if wellFormed .v i then .ok (some i) else .error .opcode

/-- An HCW taken apart: GEN and the five slots as they stand (R118). -/
structure Hcw where
  gen : BitVec 8
  va  : Nat
  vb  : Nat
  vl  : Nat
  vx  : Nat
  vc  : Nat
deriving DecidableEq, Repr

def splitHcw (w : Nat) : Hcw :=
  { gen := .ofNat 8 (w / 2 ^ 248), va := w / 2 ^ 192 % 2 ^ 56, vb := w / 2 ^ 136 % 2 ^ 56, vl := w / 2 ^ 80 % 2 ^ 56
    vx := w / 2 ^ 24 % 2 ^ 56, vc := w % 2 ^ 24 }

/-- The stream a word of the table belongs to. -/
def streamOf : Instr → Option Str
  | .nop => some .c
  | .endStream => some .c
  | .br _ => some .c
  | .bxi _ _ _ _ => some .c
  | .bxx _ _ _ _ => some .c
  | .loopReg _ _ _ => some .c
  | .loopImm _ _ _ => some .c
  | .gate _ _ _ => some .c
  | .check _ _ => some .c
  | .semp _ _ => some .c
  | .semw _ _ => some .c
  | .mark => some .c
  | .imov _ _ => some .c
  | .iadd _ _ _ => some .c
  | .brk _ => some .c
  | .syscall _ => some .c
  | .add _ _ _ _ => some .c
  | .sub _ _ _ _ => some .c
  | .min _ _ _ _ => some .c
  | .max _ _ _ _ => some .c
  | .and _ _ _ _ => some .c
  | .or _ _ _ _ => some .c
  | .xor _ _ _ _ => some .c
  | .andn _ _ _ _ => some .c
  | .shl _ _ _ _ => some .c
  | .shr _ _ _ _ => some .c
  | .sra _ _ _ _ => some .c
  | .mulh _ _ _ _ => some .c
  | .mul _ _ _ _ => some .c
  | .mulhu _ _ _ _ => some .c
  | .minu _ _ _ _ => some .c
  | .maxu _ _ _ _ => some .c
  | .andi _ _ _ _ => some .c
  | .ori _ _ _ _ => some .c
  | .xori _ _ _ _ => some .c
  | .muli _ _ _ _ => some .c
  | .shli _ _ _ _ => some .c
  | .shri _ _ _ _ => some .c
  | .srai _ _ _ _ => some .c
  | .mini _ _ _ _ => some .c
  | .maxi _ _ _ _ => some .c
  | .minui _ _ _ _ => some .c
  | .maxui _ _ _ _ => some .c
  | .subfi _ _ _ _ => some .c
  | .cmp _ _ _ _ _ => some .c
  | .cmpi _ _ _ _ _ => some .c
  | .pand _ _ _ _ => some .c
  | .por _ _ _ _ => some .c
  | .pxor _ _ _ _ => some .c
  | .pandn _ _ _ _ => some .c
  | .pnot _ _ _ => some .c
  | .pget _ _ => some .c
  | .pput _ _ => some .c
  | .btree _ => some .c
  | .brc _ _ => some .c
  | .jal _ _ => some .c
  | .jalr _ _ _ => some .c
  | .ldb _ _ _ _ => some .c
  | .ldbu _ _ _ _ => some .c
  | .ldh _ _ _ _ => some .c
  | .ldhu _ _ _ _ => some .c
  | .ldw _ _ _ _ => some .c
  | .ldwu _ _ _ _ => some .c
  | .ldd _ _ _ _ => some .c
  | .stb _ _ _ _ => some .c
  | .sth _ _ _ _ => some .c
  | .stw _ _ _ _ => some .c
  | .std _ _ _ _ => some .c
  | .amoadd _ _ _ _ => some .c
  | .amoand _ _ _ _ => some .c
  | .amoor _ _ _ _ => some .c
  | .amoxor _ _ _ _ => some .c
  | .amomin _ _ _ _ => some .c
  | .amomax _ _ _ _ => some .c
  | .amominu _ _ _ _ => some .c
  | .amomaxu _ _ _ _ => some .c
  | .amoswap _ _ _ _ => some .c
  | .amocas _ _ _ _ => some .c
  | .crr _ _ _ => some .c
  | .crrd _ _ _ => some .c
  | .crw _ _ _ => some .c
  | .krd _ _ => some .c
  | .kwr _ _ => some .c
  | .seedr _ _ => some .c
  | .seedw _ _ => some .c
  | .lrd _ _ => some .c
  | .lwr _ _ => some .c
  | .waitx _ _ => some .c
  | .testx _ _ _ => some .c
  | .fenceT => some .c
  | .fenceD => some .c
  | .fenceM => some .c
  | .fenceS => some .c
  | .ifence => some .c
  | .iswap => some .c
  | .mhdr _ _ => some .m
  | .midle _ => some .m
  | .wcode _ _ _ => some .m
  | .wcvt _ _ _ _ _ => some .m
  | .wc4 _ _ _ _ => some .m
  | .nld _ _ _ _ _ _ => some .m
  | .nswp => some .m
  | .cbld _ _ _ => some .m
  | .mcfg _ _ => some .m
  | .pass _ _ _ _ _ => some .m
  | .mwait _ => some .m
  | .drn _ _ _ _ _ _ _ => some .m
  | .drv _ _ _ => some .m
  | .aclr _ => some .m
  | .rstat _ _ _ _ => some .m
  | .skw _ _ => some .m
  | .skn _ _ => some .m
  | .pcfg _ _ => some .m
  | .pcell _ _ _ _ _ _ => some .m
  | .psets _ _ _ _ _ _ _ => some .m
  | .pcidx _ _ => some .m
  | .paclr _ _ => some .m
  | .copy _ _ _ _ _ _ => some .x
  | .cvt _ _ _ _ _ _ _ _ => some .x
  | .xpose _ _ _ _ _ _ => some .x
  | .cmpr _ _ _ _ _ _ _ => some .x
  | .expd _ _ _ _ _ _ _ => some .x
  | .decode _ _ _ _ _ _ _ => some .x
  | .send _ _ _ _ _ _ => some .x
  | .recv _ _ _ => some .x
  | .ramoAdd _ _ _ _ _ _ _ => some .x
  | .ramoAnd _ _ _ _ _ _ _ => some .x
  | .ramoOr _ _ _ _ _ _ _ => some .x
  | .ramoXor _ _ _ _ _ _ _ => some .x
  | .ramoMin _ _ _ _ _ _ _ => some .x
  | .ramoMax _ _ _ _ _ _ _ => some .x
  | .ramoMinu _ _ _ _ _ _ _ => some .x
  | .ramoMaxu _ _ _ _ _ _ _ => some .x
  | .ramoSwap _ _ _ _ _ _ _ => some .x
  | .ramoCas _ _ _ _ _ _ _ => some .x
  | .xwait _ _ => some .x
  | .xwaitb _ => some .x
  | .xfence _ => some .x
  | .xnext _ _ => some .x
  | .shw _ _ _ => some .x
  | .xcfg _ _ => some .x
  | .ldhcw _ _ _ _ _ _ => some .x
  | .ldpln _ _ _ _ _ _ => some .x
  | .ldpair _ _ _ _ _ _ => some .x
  | .vInstruction _ _ _ _ => some .v
  | .vend => some .v
  | .vbr _ => some .v
  | .vbrm _ _ _ => some .v
  | .vloop _ _ _ => some .v
  | .vlwr _ _ => some .v
  | .vsemp _ _ => some .v
  | .vsemw _ _ => some .v
  | .vgate _ _ _ => some .v
  | .vmark => some .v
  | .blend _ => some .v
  | .bret _ => some .v
  | .statrx _ => some .v
  | .vbrk _ => some .v
  | .resultLand => none
  | .passEnd => none
  | .drainComplete => none
  | .aclrComplete => none
  | .nldComplete => none
  | .rstatComplete => none
  | .peBlock => none
  | .peComplete => none
  | .transferPiece _ _ => none
  | .transferComplete _ _ => none
  | .budgetCycle _ _ => none
  | .gateTargetCycle _ => none
  | .taskRetire => none
  | .doorbell _ _ _ => none
  | .queueControlWrite _ _ _ => none
  | .entryNop _ _ => none
  | .launch _ _ => none
  | .dieImageLoad _ _ _ _ => none
  | .firstTick _ _ => none
  | .taskStart _ _ _ _ => none
  | .remapStage _ _ => none
  | .remapCommit _ _ => none
  | .sliceQuantum _ _ => none
  | .sliceSwitch _ _ => none
  | .preemptRequest _ _ => none
  | .contextSave _ _ => none
  | .contextRestore _ _ => none
  | .jobSaveRequest _ _ => none
  | .jobSave _ _ => none
  | .jobResume _ _ => none
  | .resume _ _ _ _ => none
  | .abort _ _ => none
  | .replay _ _ => none
  | .invalidatePage _ _ _ _ => none
  | .invalidateRoot _ _ _ => none
  | .invalidateAll _ _ => none
  | .stepEnd _ _ => none
  | .commitRelease _ _ => none
  | .tickIssue _ _ => none
  | .tickAct _ _ => none
  | .write _ => none
  | .readReq _ => none
  | .readData _ => none
  | .atomic _ => none
  | .atomicRsp _ => none
  | .sendMessage _ => none
  | .ack _ => none
  | .nack _ => none
  | .tick _ => none
  | .done _ => none
  | .nackRetry _ _ => none
  | .flitReceive _ _ _ _ => none
  | .linkRetrain _ _ => none
  | .linkTrained _ _ _ => none
  | .linkDown _ _ => none
  | .trafficHoldEnd => none
  | .scaleoutFrame _ _ => none
  | .hostWrite _ _ _ _ => none
  | .hostRead _ _ _ _ => none
  | .registerWrite _ _ _ _ => none
  | .powerUp => none
  | .powerLoss => none
  | .fwDownload _ => none
  | .dieAnswerTimeout _ => none
  | .enumeration => none
  | .attestation _ => none
  | .certificate _ => none
  | .currentMeasure _ => none
  | .freqRequest _ _ => none
  | .freqRamp => none
  | .freqSwitch => none
  | .voffWrite _ _ _ => none
  | .snapBack _ _ _ => none
  | .snapSettle _ _ => none
  | .governorEnable => none
  | .governorCleanDay _ _ => none
  | .barrierDueCycle _ => none
  | .cbldComplete => none
  | .fenceSPcieReadComplete => none
  | .vaAdd => some .v
  | .addu => some .v
  | .vaSub => some .v
  | .subu => some .v
  | .vaMin => some .v
  | .vaMinu => some .v
  | .vaMax => some .v
  | .vaMaxu => some .v
  | .abs => some .v
  | .neg => some .v
  | .vaAnd => some .v
  | .vaOr => some .v
  | .vaXor => some .v
  | .vaAndn => some .v
  | .vaShl => some .v
  | .vaShr => some .v
  | .vaSra => some .v
  | .vaShli => some .v
  | .vaShri => some .v
  | .vaSrai => some .v
  | .addi => some .v
  | .movi => some .v
  | .vaCmp => some .v
  | .qshr => some .v
  | .mov => some .v
  | .sel => some .v
  | .fadd => some .v
  | .fsub => some .v
  | .vaFmul => some .v
  | .fmin => some .v
  | .fmax => some .v
  | .fabs => some .v
  | .fneg => some .v
  | .fcmp => some .v
  | .cvtif => some .v
  | .cvtuf => some .v
  | .cvtfi => some .v
  | .cvtfu => some .v
  | .cvtqf => some .v
  | .cvtfq => some .v
  | .mset => some .v
  | .mget => some .v
  | .qset => some .v
  | .qget => some .v
  | .bwr => some .v
  | .brd => some .v
  | .rpw => some .v
  | .vbMul => some .v
  | .mulu => some .v
  | .vbMulh => some .v
  | .vbMulhu => some .v
  | .mad => some .v
  | .madu => some .v
  | .mulq => some .v
  | .madq => some .v
  | .dot => some .v
  | .dotu => some .v
  | .fma => some .v
  | .fms => some .v
  | .fnma => some .v
  | .fnms => some .v
  | .vbFmul => some .v
  | .fdot2 => some .v
  | .vld => some .v
  | .vst => some .v
  | .vlds => some .v
  | .vldr => some .v
  | .vldc => some .v
  | .vstr => some .v
  | .vstc => some .v
  | .vldu => some .v
  | .vstu => some .v
  | .vamoAdd => some .v
  | .vamoAnd => some .v
  | .vamoOr => some .v
  | .vamoXor => some .v
  | .vamoMin => some .v
  | .vamoMax => some .v
  | .vamoMinu => some .v
  | .vamoMaxu => some .v
  | .vamoSwap => some .v
  | .vamoCas => some .v
  | .perm => some .v
  | .lrot => some .v
  | .fshl => some .v
  | .fshr => some .v
  | .psum => some .v
  | .clz => some .v
  | .popc => some .v
  | .exte => some .v
  | .inse => some .v
  | .redAdd => some .v
  | .redMin => some .v
  | .redMax => some .v
  | .redMinu => some .v
  | .redMaxu => some .v
  | .redAnd => some .v
  | .redOr => some .v
  | .redXor => some .v
  | .redFadd => some .v
  | .redFmin => some .v
  | .redFmax => some .v
  | .xredAdd => some .v
  | .xredMin => some .v
  | .xredMax => some .v
  | .xredMinu => some .v
  | .xredMaxu => some .v
  | .xredAnd => some .v
  | .xredOr => some .v
  | .xredXor => some .v
  | .xredFadd => some .v
  | .xredFmin => some .v
  | .xredFmax => some .v
  | .xcopy => some .v
  | .xbc => some .v
  | .exp2 => some .v
  | .log2 => some .v
  | .rcp => some .v
  | .rsqrt => some .v
  | .rand => some .v
  | .cvtfb => some .v
  | .cvtbf => some .v
  | .fcvtq => some .v
  | .cbd => some .v

/-- Which reading of a 32-bit word the table's numbering means, where a word is one in several streams (DEDUCED, log 12): the
header of an M bundle where bit 31 is set and the word is MHDR's; else C, then M in any position, then X. -/
def decodeAny (w : Nat) : Option Instr :=
  match (if bsOf w then decodeSyl .m w [] else .error .opcode) with
  | .ok (.mhdr a b) => some (.mhdr a b)
  | _ =>
    match decodeSyl .c w [] with
    | .ok i => some i
    | .error _ =>
      match (units.map fun u => decodeSub u w 0).find? (fun r => r.toOption.isSome) with
      | some (.ok i) => some i
      | _ => (decodeSyl .x w []).toOption

/-- The instruction the decoder reads from bits w numbered as the opcode table numbers them. -/
def decodeTableWord (nbits w : Nat) : Option Instr :=
  if nbits ≤ 16 then decodeV w else decodeAny (w % 2 ^ 32)

/-- The EXT syllables of an immediate (R105). -/
def extWords (ext : List (BitVec 25)) : List Nat := ext.map fun e => 0x1E000000 + e.toNat

/-- The target syllables of a BTREE. -/
def btreeTargets : List BTest → List Nat
  | a :: b :: t => (0x1E000000 + a.off.toNat * 2 ^ 12 + b.off.toNat) :: btreeTargets t
  | [a] => [0x1E000000 + a.off.toNat * 2 ^ 12]
  | [] => []

def btreeHead (t : List BTest) : Nat :=
  let g (j : Nat) : BTest := t.getD j { p := 0, inv := 0, off := 0 }
  0x36000000 + (g 0).p.toNat * 2 ^ 21 + (g 1).p.toNat * 2 ^ 17 + (g 2).p.toNat * 2 ^ 13 + (g 3).p.toNat * 2 ^ 9
    + (g 0).inv.toNat * 2 ^ 8 + (g 1).inv.toNat * 2 ^ 7 + (g 2).inv.toNat * 2 ^ 6 + (g 3).inv.toNat * 2 ^ 5
    + (t.length - 1) * 2 ^ 3

/-- The low bits of a configuration write (R228). -/
def cfgBits : CfgSrc → Nat
  | .reg xr => xr.toNat * 2 ^ 13
  | .imm v => 2 ^ 19 + v.toNat

/-- The count field of a VLOOP (R211). -/
def vloopBits : VLoopSrc → Nat
  | .imm n => 2 ^ 16 + n.toNat * 2 ^ 8
  | .kreg n => n.toNat * 2 ^ 11

/-- A slot word: opcode and fields (R119). -/
def slotWord (op : Nat) (f : SlotF) : Nat :=
  op * 2 ^ 48 + f.fmt.toNat * 2 ^ 45 + f.vd.toNat * 2 ^ 39 + f.va.toNat * 2 ^ 33 + f.vb.toNat * 2 ^ 27
    + f.vc.toNat * 2 ^ 21 + f.mu.toNat * 2 ^ 20 + f.mi.toNat * 2 ^ 19 + f.ms.toNat * 2 ^ 16 + f.swa.toNat * 2 ^ 14
    + f.swb.toNat * 2 ^ 12 + f.swc.toNat * 2 ^ 10 + f.rnd.toNat * 2 ^ 8 + f.sat.toNat * 2 ^ 7 + f.imm.toNat

/-- The words of an instruction: syllables with BS = 0, a V instruction, a VC field, the opcode of a slot (its fields are
slotWord's). `none` for an event, which no program encodes. -/
def encode : Instr → Option (List Nat)
  | .nop => some (syl 0x00000000 [] :: [])
  | .endStream => some (syl 0x02000000 [] :: [])
  | .br off => some (syl 0x04000000 [(off.toNat, 0)] :: [])
  | .bxi c x imm off => some (syl 0x06000000 [(c.toNat, 22), (x.toNat, 16), (imm.base.toNat, 10), (off.toNat, 0)] :: extWords imm.ext)
  | .bxx c x y off => some (syl 0x08000000 [(c.toNat, 22), (x.toNat, 16), (y.toNat, 10), (off.toNat, 0)] :: [])
  | .loopReg l r e => some (syl 0x0A000000 [(l.toNat, 24), (r.toNat, 17), (e.toNat, 0)] :: [])
  | .loopImm l n e => some (syl 0x0A800000 [(l.toNat, 24), (n.base.toNat, 10), (e.toNat, 0)] :: extWords n.ext)
  | .gate c n off => some (syl 0x0C000000 [(c.toNat, 22), (n.toNat, 17), (off.base.toNat, 0)] :: extWords off.ext)
  | .check l off => some (syl 0x0E000000 [(l.toNat, 12), (off.toNat, 0)] :: [])
  | .semp m n => some (syl 0x10000000 [(m.toNat, 21), (n.toNat, 13)] :: [])
  | .semw m n => some (syl 0x12000000 [(m.toNat, 21), (n.toNat, 13)] :: [])
  | .mark => some (syl 0x14000000 [] :: [])
  | .imov rd imm => some (syl 0x16000000 [(rd.toNat, 19), (imm.base.toNat, 0)] :: extWords imm.ext)
  | .iadd rd ra imm => some (syl 0x18000000 [(rd.toNat, 19), (ra.toNat, 13), (imm.base.toNat, 0)] :: extWords imm.ext)
  | .brk c => some (syl 0x1A000000 [(c.toNat, 0)] :: [])
  | .syscall c => some (syl 0x1B000000 [(c.toNat, 0)] :: [])
  | .add rd ra rb g => some (syl 0x20000000 [(rd.toNat, 19), (ra.toNat, 13), (rb.toNat, 7), (g.toNat, 0)] :: [])
  | .sub rd ra rb g => some (syl 0x20000020 [(rd.toNat, 19), (ra.toNat, 13), (rb.toNat, 7), (g.toNat, 0)] :: [])
  | .min rd ra rb g => some (syl 0x20000040 [(rd.toNat, 19), (ra.toNat, 13), (rb.toNat, 7), (g.toNat, 0)] :: [])
  | .max rd ra rb g => some (syl 0x20000060 [(rd.toNat, 19), (ra.toNat, 13), (rb.toNat, 7), (g.toNat, 0)] :: [])
  | .and rd ra rb g => some (syl 0x22000000 [(rd.toNat, 19), (ra.toNat, 13), (rb.toNat, 7), (g.toNat, 0)] :: [])
  | .or rd ra rb g => some (syl 0x22000020 [(rd.toNat, 19), (ra.toNat, 13), (rb.toNat, 7), (g.toNat, 0)] :: [])
  | .xor rd ra rb g => some (syl 0x22000040 [(rd.toNat, 19), (ra.toNat, 13), (rb.toNat, 7), (g.toNat, 0)] :: [])
  | .andn rd ra rb g => some (syl 0x22000060 [(rd.toNat, 19), (ra.toNat, 13), (rb.toNat, 7), (g.toNat, 0)] :: [])
  | .shl rd ra rb g => some (syl 0x24000000 [(rd.toNat, 19), (ra.toNat, 13), (rb.toNat, 7), (g.toNat, 0)] :: [])
  | .shr rd ra rb g => some (syl 0x24000020 [(rd.toNat, 19), (ra.toNat, 13), (rb.toNat, 7), (g.toNat, 0)] :: [])
  | .sra rd ra rb g => some (syl 0x24000040 [(rd.toNat, 19), (ra.toNat, 13), (rb.toNat, 7), (g.toNat, 0)] :: [])
  | .mulh rd ra rb g => some (syl 0x24000060 [(rd.toNat, 19), (ra.toNat, 13), (rb.toNat, 7), (g.toNat, 0)] :: [])
  | .mul rd ra rb g => some (syl 0x26000000 [(rd.toNat, 19), (ra.toNat, 13), (rb.toNat, 7), (g.toNat, 0)] :: [])
  | .mulhu rd ra rb g => some (syl 0x26000020 [(rd.toNat, 19), (ra.toNat, 13), (rb.toNat, 7), (g.toNat, 0)] :: [])
  | .minu rd ra rb g => some (syl 0x26000040 [(rd.toNat, 19), (ra.toNat, 13), (rb.toNat, 7), (g.toNat, 0)] :: [])
  | .maxu rd ra rb g => some (syl 0x26000060 [(rd.toNat, 19), (ra.toNat, 13), (rb.toNat, 7), (g.toNat, 0)] :: [])
  | .andi rd ra imm g => some (syl 0x28000000 [(rd.toNat, 19), (ra.toNat, 13), (imm.base.toNat, 5), (g.toNat, 0)] :: extWords imm.ext)
  | .ori rd ra imm g => some (syl 0x28000800 [(rd.toNat, 19), (ra.toNat, 13), (imm.base.toNat, 5), (g.toNat, 0)] :: extWords imm.ext)
  | .xori rd ra imm g => some (syl 0x28001000 [(rd.toNat, 19), (ra.toNat, 13), (imm.base.toNat, 5), (g.toNat, 0)] :: extWords imm.ext)
  | .muli rd ra imm g => some (syl 0x28001800 [(rd.toNat, 19), (ra.toNat, 13), (imm.base.toNat, 5), (g.toNat, 0)] :: extWords imm.ext)
  | .shli rd ra imm g => some (syl 0x2A000000 [(rd.toNat, 19), (ra.toNat, 13), (imm.toNat, 5), (g.toNat, 0)] :: [])
  | .shri rd ra imm g => some (syl 0x2A000800 [(rd.toNat, 19), (ra.toNat, 13), (imm.toNat, 5), (g.toNat, 0)] :: [])
  | .srai rd ra imm g => some (syl 0x2A001000 [(rd.toNat, 19), (ra.toNat, 13), (imm.toNat, 5), (g.toNat, 0)] :: [])
  | .mini rd ra imm g => some (syl 0x2C000000 [(rd.toNat, 19), (ra.toNat, 13), (imm.base.toNat, 5), (g.toNat, 0)] :: extWords imm.ext)
  | .maxi rd ra imm g => some (syl 0x2C000800 [(rd.toNat, 19), (ra.toNat, 13), (imm.base.toNat, 5), (g.toNat, 0)] :: extWords imm.ext)
  | .minui rd ra imm g => some (syl 0x2C001000 [(rd.toNat, 19), (ra.toNat, 13), (imm.base.toNat, 5), (g.toNat, 0)] :: extWords imm.ext)
  | .maxui rd ra imm g => some (syl 0x2C001800 [(rd.toNat, 19), (ra.toNat, 13), (imm.base.toNat, 5), (g.toNat, 0)] :: extWords imm.ext)
  | .subfi rd ra imm g => some (syl 0x2E000000 [(rd.toNat, 19), (ra.toNat, 13), (imm.base.toNat, 5), (g.toNat, 0)] :: extWords imm.ext)
  | .cmp pd ra rb c g => some (syl 0x30000000 [(pd.toNat, 21), (ra.toNat, 15), (rb.toNat, 9), (c.toNat, 5), (g.toNat, 0)] :: [])
  | .cmpi pd ra imm c g => some (syl 0x32000000 [(pd.toNat, 21), (ra.toNat, 15), (imm.base.toNat, 9), (c.toNat, 5), (g.toNat, 0)] :: extWords imm.ext)
  | .pand rd ra rb g => some (syl 0x34000000 [(rd.toNat, 21), (ra.toNat, 17), (rb.toNat, 13), (g.toNat, 0)] :: [])
  | .por rd ra rb g => some (syl 0x34000400 [(rd.toNat, 21), (ra.toNat, 17), (rb.toNat, 13), (g.toNat, 0)] :: [])
  | .pxor rd ra rb g => some (syl 0x34000800 [(rd.toNat, 21), (ra.toNat, 17), (rb.toNat, 13), (g.toNat, 0)] :: [])
  | .pandn rd ra rb g => some (syl 0x34000C00 [(rd.toNat, 21), (ra.toNat, 17), (rb.toNat, 13), (g.toNat, 0)] :: [])
  | .pnot rd ra g => some (syl 0x34001000 [(rd.toNat, 21), (ra.toNat, 17), (g.toNat, 0)] :: [])
  | .pget rd g => some (syl 0x34001800 [(rd.toNat, 19), (g.toNat, 0)] :: [])
  | .pput ra g => some (syl 0x34001C00 [(ra.toNat, 13), (g.toNat, 0)] :: [])
  | .btree t => some (btreeHead t :: btreeTargets t)
  | .brc off g => some (syl 0x38000000 [(off.toNat, 7), (g.toNat, 0)] :: [])
  | .jal off g => some (syl 0x38800000 [(off.toNat, 7), (g.toNat, 0)] :: [])
  | .jalr ra off g => some (syl 0x39000000 [(ra.toNat, 17), (off.toNat, 7), (g.toNat, 0)] :: [])
  | .ldb rd ra off g => some (syl 0x3A000000 [(rd.toNat, 19), (ra.toNat, 13), (off.base.toNat, 5), (g.toNat, 0)] :: extWords off.ext)
  | .ldbu rd ra off g => some (syl 0x3A000400 [(rd.toNat, 19), (ra.toNat, 13), (off.base.toNat, 5), (g.toNat, 0)] :: extWords off.ext)
  | .ldh rd ra off g => some (syl 0x3A000800 [(rd.toNat, 19), (ra.toNat, 13), (off.base.toNat, 5), (g.toNat, 0)] :: extWords off.ext)
  | .ldhu rd ra off g => some (syl 0x3A000C00 [(rd.toNat, 19), (ra.toNat, 13), (off.base.toNat, 5), (g.toNat, 0)] :: extWords off.ext)
  | .ldw rd ra off g => some (syl 0x3A001000 [(rd.toNat, 19), (ra.toNat, 13), (off.base.toNat, 5), (g.toNat, 0)] :: extWords off.ext)
  | .ldwu rd ra off g => some (syl 0x3A001400 [(rd.toNat, 19), (ra.toNat, 13), (off.base.toNat, 5), (g.toNat, 0)] :: extWords off.ext)
  | .ldd rd ra off g => some (syl 0x3A001800 [(rd.toNat, 19), (ra.toNat, 13), (off.base.toNat, 5), (g.toNat, 0)] :: extWords off.ext)
  | .stb rs ra off g => some (syl 0x3C000000 [(rs.toNat, 19), (ra.toNat, 13), (off.base.toNat, 5), (g.toNat, 0)] :: extWords off.ext)
  | .sth rs ra off g => some (syl 0x3C000400 [(rs.toNat, 19), (ra.toNat, 13), (off.base.toNat, 5), (g.toNat, 0)] :: extWords off.ext)
  | .stw rs ra off g => some (syl 0x3C000800 [(rs.toNat, 19), (ra.toNat, 13), (off.base.toNat, 5), (g.toNat, 0)] :: extWords off.ext)
  | .std rs ra off g => some (syl 0x3C000C00 [(rs.toNat, 19), (ra.toNat, 13), (off.base.toNat, 5), (g.toNat, 0)] :: extWords off.ext)
  | .amoadd rd ra rb w => some (syl 0x3E000000 [(rd.toNat, 19), (ra.toNat, 13), (rb.toNat, 7), (w.toNat, 2)] :: [])
  | .amoand rd ra rb w => some (syl 0x3E000008 [(rd.toNat, 19), (ra.toNat, 13), (rb.toNat, 7), (w.toNat, 2)] :: [])
  | .amoor rd ra rb w => some (syl 0x3E000010 [(rd.toNat, 19), (ra.toNat, 13), (rb.toNat, 7), (w.toNat, 2)] :: [])
  | .amoxor rd ra rb w => some (syl 0x3E000018 [(rd.toNat, 19), (ra.toNat, 13), (rb.toNat, 7), (w.toNat, 2)] :: [])
  | .amomin rd ra rb w => some (syl 0x3E000020 [(rd.toNat, 19), (ra.toNat, 13), (rb.toNat, 7), (w.toNat, 2)] :: [])
  | .amomax rd ra rb w => some (syl 0x3E000028 [(rd.toNat, 19), (ra.toNat, 13), (rb.toNat, 7), (w.toNat, 2)] :: [])
  | .amominu rd ra rb w => some (syl 0x3E000030 [(rd.toNat, 19), (ra.toNat, 13), (rb.toNat, 7), (w.toNat, 2)] :: [])
  | .amomaxu rd ra rb w => some (syl 0x3E000038 [(rd.toNat, 19), (ra.toNat, 13), (rb.toNat, 7), (w.toNat, 2)] :: [])
  | .amoswap rd ra rb w => some (syl 0x3E000040 [(rd.toNat, 19), (ra.toNat, 13), (rb.toNat, 7), (w.toNat, 2)] :: [])
  | .amocas rd ra rb w => some (syl 0x3E000048 [(rd.toNat, 19), (ra.toNat, 13), (rb.toNat, 7), (w.toNat, 2)] :: [])
  | .crr r k w => some (syl 0x40000000 [(r.toNat, 16), (k.toNat, 13), (w.toNat, 0)] :: [])
  | .crrd r k w => some (syl 0x40400000 [(r.toNat, 16), (k.toNat, 13), (w.toNat, 0)] :: [])
  | .crw r k w => some (syl 0x40800000 [(r.toNat, 16), (k.toNat, 13), (w.toNat, 0)] :: [])
  | .krd r k => some (syl 0x40C00000 [(r.toNat, 16), (k.toNat, 0)] :: [])
  | .kwr r k => some (syl 0x41000000 [(r.toNat, 16), (k.toNat, 0)] :: [])
  | .seedr r j => some (syl 0x41400000 [(r.toNat, 16), (j.toNat, 0)] :: [])
  | .seedw r j => some (syl 0x41800000 [(r.toNat, 16), (j.toNat, 0)] :: [])
  | .lrd r l => some (syl 0x42000000 [(r.toNat, 18), (l.toNat, 0)] :: [])
  | .lwr r l => some (syl 0x43000000 [(r.toNat, 18), (l.toNat, 0)] :: [])
  | .waitx c r => some (syl 0x44000000 [(c.toNat, 23), (r.toNat, 17)] :: [])
  | .testx c r pd => some (syl 0x44010000 [(c.toNat, 23), (r.toNat, 17), (pd.toNat, 12)] :: [])
  | .fenceT => some (syl 0x46000000 [] :: [])
  | .fenceD => some (syl 0x46800000 [] :: [])
  | .fenceM => some (syl 0x47000000 [] :: [])
  | .fenceS => some (syl 0x47800000 [] :: [])
  | .ifence => some (syl 0x48000000 [] :: [])
  | .iswap => some (syl 0x48800000 [] :: [])
  | .mhdr chg rep => some [syl 0x20000000 [(chg.toNat, 18), (rep.toNat, 6)]]
  | .midle _ => some [0x22000000]
  | .wcode xr rm1 pitch => some [syl 0x24000000 [(xr.toNat, 19), (rm1.toNat, 11)], syl 0x1E000000 [(pitch.toNat, 9)]]
  | .wcvt xr rm1 fmt rnd pitch => some [syl 0x26000000 [(xr.toNat, 19), (rm1.toNat, 11), (fmt.toNat, 7), (rnd.toNat, 5)], syl 0x1E000000 [(pitch.toNat, 9)]]
  | .wc4 xr rm1 cb pitch => some [syl 0x28000000 [(xr.toNat, 19), (rm1.toNat, 11), (cb.toNat, 3)], syl 0x1E000000 [(pitch.toNat, 9)]]
  | .nld xr kind fmt rnd cb nm1 => some [syl 0x2C000000 [(xr.toNat, 19), (kind.toNat, 17), (fmt.toNat, 13), (rnd.toNat, 11), (cb.toNat, 9)], syl 0x1E000000 [(nm1.toNat, 9)]]
  | .nswp => some [syl 0x2E000000 []]
  | .cbld xr cbk ssel => some [syl 0x30000000 [(xr.toNat, 19), (cbk.toNat, 17), (ssel.toNat, 16)]]
  | .mcfg sel src => some [syl 0x34000000 [(sel.toNat, 20), (cfgBits src, 0)]]
  | .pass stop c0 c1 xr km1 => some [syl 0x36000000 [(stop.toNat, 23), (c0.toNat, 15), (c1.toNat, 7), (xr.toNat, 1)], syl 0x1E000000 [(km1.toNat, 9)]]
  | .mwait xd => some [syl 0x38000000 [(xd.toNat, 19)]]
  | .drn a acc am pool xr se sem => some [syl 0x3C000000 [(a.toNat, 19), (acc.toNat, 18), (am.toNat, 17), (pool.toNat, 16), (xr.toNat, 10), (se.toNat, 9), (sem.toNat, 5)]]
  | .drv k half c0 => some [syl 0x3E000000 [(k.toNat, 23), (half.toNat, 22), (c0.toNat, 14)]]
  | .aclr b => some [syl 0x40000000 [(b.toNat, 21)]]
  | .rstat r0 nm1 c0 c1 => some [syl 0x44000000 [(r0.toNat, 15), (nm1.toNat, 8)], syl 0x1E000000 [(c0.toNat, 17), (c1.toNat, 9)]]
  | .skw xr off => some [syl 0x58000000 [(xr.toNat, 19), (off.toNat, 18)]]
  | .skn xr off => some [syl 0x5A000000 [(xr.toNat, 19), (off.toNat, 18)]]
  | .pcfg sel src => some [syl 0x48000000 [(sel.toNat, 20), (cfgBits src, 0)]]
  | .pcell xr st out se sem nhm1 => some [syl 0x4A000000 [(xr.toNat, 19), (st.toNat, 18), (out.toNat, 16), (se.toNat, 15), (sem.toNat, 11)], syl 0x1E000000 [(nhm1.toNat, 7)]]
  | .psets xr st out se sem nam1 nbm1 => some [syl 0x4C000000 [(xr.toNat, 19), (st.toNat, 18), (out.toNat, 16), (se.toNat, 15), (sem.toNat, 11)], syl 0x1E000000 [(nam1.toNat, 13), (nbm1.toNat, 1)]]
  | .pcidx xr nm1 => some [syl 0x4E000000 [(xr.toNat, 19)], syl 0x1E000000 [(nm1.toNat, 9)]]
  | .paclr xr nm1 => some [syl 0x50000000 [(xr.toNat, 19)], syl 0x1E000000 [(nm1.toNat, 9)]]
  | .copy c rd rs v imm u => some (syl 0x20000000 [(c.toNat, 23), (rd.toNat, 19), (rs.toNat, 15), (v.toNat, 14), (imm.toNat, 11), (u.base.toNat, 0)] :: extWords u.ext)
  | .cvt c rd rs r t v imm u => some (syl 0x22000000 [(c.toNat, 23), (rd.toNat, 19), (rs.toNat, 15), (r.toNat, 13), (t.toNat, 12), (v.toNat, 11), (imm.toNat, 8), (u.base.toNat, 0)] :: extWords u.ext)
  | .xpose c rd rs v imm u => some (syl 0x24000000 [(c.toNat, 23), (rd.toNat, 19), (rs.toNat, 15), (v.toNat, 14), (imm.toNat, 11), (u.base.toNat, 0)] :: extWords u.ext)
  | .cmpr c k h x v imm u => some (syl 0x26000000 [(c.toNat, 23), (k.toNat, 20), (h.toNat, 16), (x.toNat, 10), (v.toNat, 9), (imm.toNat, 6), (u.base.toNat, 0)] :: extWords u.ext)
  | .expd c k h x v imm u => some (syl 0x26400000 [(c.toNat, 23), (k.toNat, 20), (h.toNat, 16), (x.toNat, 10), (v.toNat, 9), (imm.toNat, 6), (u.base.toNat, 0)] :: extWords u.ext)
  | .decode c rd rs k v imm u => some (syl 0x28000000 [(c.toNat, 23), (rd.toNat, 19), (rs.toNat, 15), (k.toNat, 13), (v.toNat, 12), (imm.toNat, 9), (u.base.toNat, 0)] :: extWords u.ext)
  | .send c rs x v imm u => some (syl 0x2A000000 [(c.toNat, 23), (rs.toNat, 19), (x.toNat, 13), (v.toNat, 12), (imm.toNat, 9), (u.base.toNat, 0)] :: extWords u.ext)
  | .recv rb x u => some (syl 0x2C000000 [(rb.toNat, 20), (x.toNat, 14), (u.base.toNat, 0)] :: extWords u.ext)
  | .ramoAdd c w ra v r n u => some (syl 0x2E000000 [(c.toNat, 23), (w.toNat, 18), (ra.toNat, 15), (v.toNat, 12), (r.toNat, 9), (n.toNat, 8), (u.base.toNat, 0)] :: extWords u.ext)
  | .ramoAnd c w ra v r n u => some (syl 0x2E080000 [(c.toNat, 23), (w.toNat, 18), (ra.toNat, 15), (v.toNat, 12), (r.toNat, 9), (n.toNat, 8), (u.base.toNat, 0)] :: extWords u.ext)
  | .ramoOr c w ra v r n u => some (syl 0x2E100000 [(c.toNat, 23), (w.toNat, 18), (ra.toNat, 15), (v.toNat, 12), (r.toNat, 9), (n.toNat, 8), (u.base.toNat, 0)] :: extWords u.ext)
  | .ramoXor c w ra v r n u => some (syl 0x2E180000 [(c.toNat, 23), (w.toNat, 18), (ra.toNat, 15), (v.toNat, 12), (r.toNat, 9), (n.toNat, 8), (u.base.toNat, 0)] :: extWords u.ext)
  | .ramoMin c w ra v r n u => some (syl 0x2E200000 [(c.toNat, 23), (w.toNat, 18), (ra.toNat, 15), (v.toNat, 12), (r.toNat, 9), (n.toNat, 8), (u.base.toNat, 0)] :: extWords u.ext)
  | .ramoMax c w ra v r n u => some (syl 0x2E280000 [(c.toNat, 23), (w.toNat, 18), (ra.toNat, 15), (v.toNat, 12), (r.toNat, 9), (n.toNat, 8), (u.base.toNat, 0)] :: extWords u.ext)
  | .ramoMinu c w ra v r n u => some (syl 0x2E300000 [(c.toNat, 23), (w.toNat, 18), (ra.toNat, 15), (v.toNat, 12), (r.toNat, 9), (n.toNat, 8), (u.base.toNat, 0)] :: extWords u.ext)
  | .ramoMaxu c w ra v r n u => some (syl 0x2E380000 [(c.toNat, 23), (w.toNat, 18), (ra.toNat, 15), (v.toNat, 12), (r.toNat, 9), (n.toNat, 8), (u.base.toNat, 0)] :: extWords u.ext)
  | .ramoSwap c w ra v r n u => some (syl 0x2E400000 [(c.toNat, 23), (w.toNat, 18), (ra.toNat, 15), (v.toNat, 12), (r.toNat, 9), (n.toNat, 8), (u.base.toNat, 0)] :: extWords u.ext)
  | .ramoCas c w ra v r n u => some (syl 0x2E480000 [(c.toNat, 23), (w.toNat, 18), (ra.toNat, 15), (v.toNat, 12), (r.toNat, 9), (n.toNat, 8), (u.base.toNat, 0)] :: extWords u.ext)
  | .xwait c x => some (syl 0x30000000 [(c.toNat, 21), (x.toNat, 15)] :: [])
  | .xwaitb rb => some (syl 0x30800000 [(rb.toNat, 10)] :: [])
  | .xfence c => some (syl 0x31000000 [(c.toNat, 21)] :: [])
  | .xnext c rd => some (syl 0x31800000 [(c.toNat, 21), (rd.toNat, 15)] :: [])
  | .shw k w x => some (syl 0x32000000 [(k.toNat, 20), (w.toNat, 18), (x.toNat, 12)] :: [])
  | .xcfg rs x => some (syl 0x33000000 [(rs.toNat, 19), (x.toNat, 13)] :: [])
  | .ldhcw c rs x v imm u => some (syl 0x34000000 [(c.toNat, 23), (rs.toNat, 17), (x.toNat, 11), (v.toNat, 10), (imm.toNat, 7), (u.base.toNat, 0)] :: extWords u.ext)
  | .ldpln c rs x v imm u => some (syl 0x34200000 [(c.toNat, 23), (rs.toNat, 17), (x.toNat, 11), (v.toNat, 10), (imm.toNat, 7), (u.base.toNat, 0)] :: extWords u.ext)
  | .ldpair c rs x v imm u => some (syl 0x34400000 [(c.toNat, 23), (rs.toNat, 17), (x.toNat, 11), (v.toNat, 10), (imm.toNat, 7), (u.base.toNat, 0)] :: extWords u.ext)
  | .vInstruction h r o t => some [syl 0 [(h.toNat, 7), (r.toNat, 4), (o.toNat, 3), (t.toNat, 2)]]
  | .vend => some [syl 0x040000 []]
  | .vbr off => some [syl 0x080000 [(off.toNat, 0)]]
  | .vbrm j cond off => some [syl 0x0C0000 [(j.toNat, 15), (cond.toNat, 13), (off.toNat, 0)]]
  | .vloop l src e => some [syl 0x100000 [(l.toNat, 17), (vloopBits src, 0), (e.toNat, 0)]]
  | .vlwr reg k => some [syl 0x140000 [(reg.toNat, 15), (k.toNat, 10)]]
  | .vsemp sem n => some [syl 0x180000 [(sem.toNat, 14), (n.toNat, 6)]]
  | .vsemw sem n => some [syl 0x1C0000 [(sem.toNat, 14), (n.toNat, 6)]]
  | .vgate cls obj off => some [syl 0x200000 [(cls.toNat, 15), (obj.toNat, 10), (off.toNat, 0)]]
  | .vmark => some [syl 0x240000 []]
  | .blend k => some [syl 0x280000 [(k.toNat, 16)]]
  | .bret k => some [syl 0x2C0000 [(k.toNat, 16)]]
  | .statrx vd => some [syl 0x300000 [(vd.toNat, 12)]]
  | .vbrk code => some [syl 0x340000 [(code.toNat, 0)]]
  | .resultLand => none
  | .passEnd => none
  | .drainComplete => none
  | .aclrComplete => none
  | .nldComplete => none
  | .rstatComplete => none
  | .peBlock => none
  | .peComplete => none
  | .transferPiece _ _ => none
  | .transferComplete _ _ => none
  | .budgetCycle _ _ => none
  | .gateTargetCycle _ => none
  | .taskRetire => none
  | .doorbell _ _ _ => none
  | .queueControlWrite _ _ _ => none
  | .entryNop _ _ => none
  | .launch _ _ => none
  | .dieImageLoad _ _ _ _ => none
  | .firstTick _ _ => none
  | .taskStart _ _ _ _ => none
  | .remapStage _ _ => none
  | .remapCommit _ _ => none
  | .sliceQuantum _ _ => none
  | .sliceSwitch _ _ => none
  | .preemptRequest _ _ => none
  | .contextSave _ _ => none
  | .contextRestore _ _ => none
  | .jobSaveRequest _ _ => none
  | .jobSave _ _ => none
  | .jobResume _ _ => none
  | .resume _ _ _ _ => none
  | .abort _ _ => none
  | .replay _ _ => none
  | .invalidatePage _ _ _ _ => none
  | .invalidateRoot _ _ _ => none
  | .invalidateAll _ _ => none
  | .stepEnd _ _ => none
  | .commitRelease _ _ => none
  | .tickIssue _ _ => none
  | .tickAct _ _ => none
  | .write _ => none
  | .readReq _ => none
  | .readData _ => none
  | .atomic _ => none
  | .atomicRsp _ => none
  | .sendMessage _ => none
  | .ack _ => none
  | .nack _ => none
  | .tick _ => none
  | .done _ => none
  | .nackRetry _ _ => none
  | .flitReceive _ _ _ _ => none
  | .linkRetrain _ _ => none
  | .linkTrained _ _ _ => none
  | .linkDown _ _ => none
  | .trafficHoldEnd => none
  | .scaleoutFrame _ _ => none
  | .hostWrite _ _ _ _ => none
  | .hostRead _ _ _ _ => none
  | .registerWrite _ _ _ _ => none
  | .powerUp => none
  | .powerLoss => none
  | .fwDownload _ => none
  | .dieAnswerTimeout _ => none
  | .enumeration => none
  | .attestation _ => none
  | .certificate _ => none
  | .currentMeasure _ => none
  | .freqRequest _ _ => none
  | .freqRamp => none
  | .freqSwitch => none
  | .voffWrite _ _ _ => none
  | .snapBack _ _ _ => none
  | .snapSettle _ _ => none
  | .governorEnable => none
  | .governorCleanDay _ _ => none
  | .barrierDueCycle _ => none
  | .cbldComplete => none
  | .fenceSPcieReadComplete => none
  | .vaAdd => some [0x01 * 2 ^ 48]
  | .addu => some [0x02 * 2 ^ 48]
  | .vaSub => some [0x03 * 2 ^ 48]
  | .subu => some [0x04 * 2 ^ 48]
  | .vaMin => some [0x05 * 2 ^ 48]
  | .vaMinu => some [0x06 * 2 ^ 48]
  | .vaMax => some [0x07 * 2 ^ 48]
  | .vaMaxu => some [0x08 * 2 ^ 48]
  | .abs => some [0x09 * 2 ^ 48]
  | .neg => some [0x0A * 2 ^ 48]
  | .vaAnd => some [0x0B * 2 ^ 48]
  | .vaOr => some [0x0C * 2 ^ 48]
  | .vaXor => some [0x0D * 2 ^ 48]
  | .vaAndn => some [0x0E * 2 ^ 48]
  | .vaShl => some [0x0F * 2 ^ 48]
  | .vaShr => some [0x10 * 2 ^ 48]
  | .vaSra => some [0x11 * 2 ^ 48]
  | .vaShli => some [0x12 * 2 ^ 48]
  | .vaShri => some [0x13 * 2 ^ 48]
  | .vaSrai => some [0x14 * 2 ^ 48]
  | .addi => some [0x15 * 2 ^ 48]
  | .movi => some [0x16 * 2 ^ 48]
  | .vaCmp => some [0x17 * 2 ^ 48]
  | .qshr => some [0x18 * 2 ^ 48]
  | .mov => some [0x20 * 2 ^ 48]
  | .sel => some [0x21 * 2 ^ 48]
  | .fadd => some [0x30 * 2 ^ 48]
  | .fsub => some [0x31 * 2 ^ 48]
  | .vaFmul => some [0x32 * 2 ^ 48]
  | .fmin => some [0x33 * 2 ^ 48]
  | .fmax => some [0x34 * 2 ^ 48]
  | .fabs => some [0x35 * 2 ^ 48]
  | .fneg => some [0x36 * 2 ^ 48]
  | .fcmp => some [0x37 * 2 ^ 48]
  | .cvtif => some [0x38 * 2 ^ 48]
  | .cvtuf => some [0x39 * 2 ^ 48]
  | .cvtfi => some [0x3A * 2 ^ 48]
  | .cvtfu => some [0x3B * 2 ^ 48]
  | .cvtqf => some [0x3C * 2 ^ 48]
  | .cvtfq => some [0x3D * 2 ^ 48]
  | .mset => some [0x40 * 2 ^ 48]
  | .mget => some [0x41 * 2 ^ 48]
  | .qset => some [0x42 * 2 ^ 48]
  | .qget => some [0x43 * 2 ^ 48]
  | .bwr => some [0x44 * 2 ^ 48]
  | .brd => some [0x45 * 2 ^ 48]
  | .rpw => some [0x46 * 2 ^ 48]
  | .vbMul => some [0x01 * 2 ^ 48]
  | .mulu => some [0x02 * 2 ^ 48]
  | .vbMulh => some [0x03 * 2 ^ 48]
  | .vbMulhu => some [0x04 * 2 ^ 48]
  | .mad => some [0x05 * 2 ^ 48]
  | .madu => some [0x06 * 2 ^ 48]
  | .mulq => some [0x07 * 2 ^ 48]
  | .madq => some [0x08 * 2 ^ 48]
  | .dot => some [0x09 * 2 ^ 48]
  | .dotu => some [0x0A * 2 ^ 48]
  | .fma => some [0x10 * 2 ^ 48]
  | .fms => some [0x11 * 2 ^ 48]
  | .fnma => some [0x12 * 2 ^ 48]
  | .fnms => some [0x13 * 2 ^ 48]
  | .vbFmul => some [0x14 * 2 ^ 48]
  | .fdot2 => some [0x18 * 2 ^ 48]
  | .vld => some [0x01 * 2 ^ 48]
  | .vst => some [0x02 * 2 ^ 48]
  | .vlds => some [0x07 * 2 ^ 48]
  | .vldr => some [0x03 * 2 ^ 48]
  | .vldc => some [0x04 * 2 ^ 48]
  | .vstr => some [0x05 * 2 ^ 48]
  | .vstc => some [0x06 * 2 ^ 48]
  | .vldu => some [0x08 * 2 ^ 48]
  | .vstu => some [0x09 * 2 ^ 48]
  | .vamoAdd => some [0x0A * 2 ^ 48]
  | .vamoAnd => some [0x0A * 2 ^ 48]
  | .vamoOr => some [0x0A * 2 ^ 48]
  | .vamoXor => some [0x0A * 2 ^ 48]
  | .vamoMin => some [0x0A * 2 ^ 48]
  | .vamoMax => some [0x0A * 2 ^ 48]
  | .vamoMinu => some [0x0A * 2 ^ 48]
  | .vamoMaxu => some [0x0A * 2 ^ 48]
  | .vamoSwap => some [0x0A * 2 ^ 48]
  | .vamoCas => some [0x0A * 2 ^ 48]
  | .perm => some [0x01 * 2 ^ 48]
  | .lrot => some [0x02 * 2 ^ 48]
  | .fshl => some [0x03 * 2 ^ 48]
  | .fshr => some [0x04 * 2 ^ 48]
  | .psum => some [0x05 * 2 ^ 48]
  | .clz => some [0x06 * 2 ^ 48]
  | .popc => some [0x07 * 2 ^ 48]
  | .exte => some [0x08 * 2 ^ 48]
  | .inse => some [0x09 * 2 ^ 48]
  | .redAdd => some [0x10 * 2 ^ 48]
  | .redMin => some [0x10 * 2 ^ 48]
  | .redMax => some [0x10 * 2 ^ 48]
  | .redMinu => some [0x10 * 2 ^ 48]
  | .redMaxu => some [0x10 * 2 ^ 48]
  | .redAnd => some [0x10 * 2 ^ 48]
  | .redOr => some [0x10 * 2 ^ 48]
  | .redXor => some [0x10 * 2 ^ 48]
  | .redFadd => some [0x10 * 2 ^ 48]
  | .redFmin => some [0x10 * 2 ^ 48]
  | .redFmax => some [0x10 * 2 ^ 48]
  | .xredAdd => some [0x11 * 2 ^ 48]
  | .xredMin => some [0x11 * 2 ^ 48]
  | .xredMax => some [0x11 * 2 ^ 48]
  | .xredMinu => some [0x11 * 2 ^ 48]
  | .xredMaxu => some [0x11 * 2 ^ 48]
  | .xredAnd => some [0x11 * 2 ^ 48]
  | .xredOr => some [0x11 * 2 ^ 48]
  | .xredXor => some [0x11 * 2 ^ 48]
  | .xredFadd => some [0x11 * 2 ^ 48]
  | .xredFmin => some [0x11 * 2 ^ 48]
  | .xredFmax => some [0x11 * 2 ^ 48]
  | .xcopy => some [0x12 * 2 ^ 48]
  | .xbc => some [0x12 * 2 ^ 48]
  | .exp2 => some [0x20 * 2 ^ 48]
  | .log2 => some [0x21 * 2 ^ 48]
  | .rcp => some [0x22 * 2 ^ 48]
  | .rsqrt => some [0x23 * 2 ^ 48]
  | .rand => some [0x24 * 2 ^ 48]
  | .cvtfb => some [0x28 * 2 ^ 48]
  | .cvtbf => some [0x29 * 2 ^ 48]
  | .fcvtq => some [0x2A * 2 ^ 48]
  | .cbd => some [0x2B * 2 ^ 48]

end Sys2Proof
end

