-- ==== Sys2Proof/Machine/State.lean ====
section
/-! DEFINITION. The state of the machine as plain data: every piece of state the spec names, its reset value, and the
reasons a step can stop. -/
namespace Sys2Proof.Machine

/-- One level of hardware loops with its shadows and pending bits (R132, R141, R212). -/
structure LoopLevel where
  lc  : Word32 := 0
  ls  : BitVec 17 := 0
  le  : BitVec 17 := 0
  plc : Option Word32 := none
  pls : Option (BitVec 17) := none
  ple : Option (BitVec 17) := none
deriving DecidableEq, Repr

/-- WSTATE of a waiting bundle (R162): the cycle it issued in and what its waiting syllables captured, by position:
the target cycle of a GATE, the identifier of an XFENCE. -/
structure Wait where
  since : Nat
  caps  : SMap Nat := []
deriving DecidableEq, Repr

/-- What every stream holds (R97, R132, R212). -/
structure StreamSt where
  /-- program counter, in the stream's own unit -/
  pc     : BitVec 17 := 0
  /-- start delay of the launch record (R24) -/
  delay  : BitVec 16 := 0
  /-- an END has retired (R27); a cluster with no task holds ended streams -/
  ended  : Bool := true
  l0     : LoopLevel := {}
  l1     : LoopLevel := {}
  wait   : Option Wait := none
  /-- earliest cycle of the next issue (R134) -/
  bubble : Nat := 0
  /-- cycle from which each register's latest result can be read, and that result's latency (R134) -/
  ready  : SMap (Nat × Nat) := []
  /-- i0 to i7 of M and X -/
  idx    : SMap Word64 := []
  /-- next repetition of a repeated bundle: MSTEP.RPT of M, REP position of V (R219, R117) -/
  rep    : Nat := 0
  /-- the bundle that branched to pc, until the target has issued (R107) -/
  src    : Option (BitVec 17) := none
  /-- firmware marked BREAK or SYSCALL served: the TRAP syllable acts as NOP once (R147) -/
  served : Bool := false
deriving DecidableEq, Repr

/-- What raises a fault record: the fields of R383 that the cause supplies. -/
structure Trap where
  str    : Str
  cause  : Nat
  detail : Nat := 0
  pos    : Nat := 0
  lane   : Nat := 0xFF
  code   : Nat := 0
  faddr  : Nat := 0
  baddr  : BitVec 17 := 0
  xfer   : Option (Nat × Word32) := none
  /-- a memory-error freeze in place of a fault freeze (R387) -/
  memErr : Bool := false
deriving DecidableEq, Repr

/-- Which bundle is being issued: what a meaning reads of its surroundings. -/
structure Ctx where
  str  : Str := .c
  /-- address A of the bundle and its length n in words (R107, R139) -/
  addr : BitVec 17 := 0
  len  : Nat := 1
  /-- syllable position, or slot 0 VA to 4 VC, 5 the V instruction itself (R383) -/
  pos  : Nat := 0
  /-- target of a taken transfer of control -/
  next : Option (BitVec 17) := none
  /-- an END or VEND of the bundle has executed -/
  fin  : Bool := false
  /-- a syllable of the bundle waits -/
  wait : Bool := false
  /-- GEN of the HCW being issued (R118) -/
  gen  : BitVec 8 := 0xFF
  /-- fields of the slot being issued (R119) -/
  slot : SlotF := {}
  /-- sub-slot words of the M header bundle being issued, with their positions (R113) -/
  words : List (Nat × Instr) := []
  /-- units granted in this cycle to later streams, by semaphore (R143) -/
  later : SMap Nat := []
  /-- banks that a BRET of this cycle takes back (R209) -/
  ret  : BitVec 4 := 0
  /-- pending vector results that stood when the issue began (R209); all of them where none -/
  seen : Option Nat := none
  /-- MSTAT.SATTE as it stood at the start of the cycle (R235) -/
  satte : Option Bool := none
  /-- the cause that the syllable being issued has raised -/
  trap : Option Trap := none
deriving DecidableEq, Repr

/-- The fault record of a cluster, offsets 0x200 to 0x2FF (R383). -/
structure FaultRec where
  cause  : BitVec 8 := 0
  detail : BitVec 8 := 0
  str    : BitVec 4 := 0
  pos    : BitVec 4 := 0
  lane   : BitVec 8 := 0
  code   : BitVec 16 := 0
  uvs    : Bool := false
  valid  : Bool := false
  sec    : BitVec 32 := 0
  ftcyc  : Word64 := 0
  cpc    : BitVec 16 := 0
  mpc    : BitVec 16 := 0
  xpc    : BitVec 16 := 0
  vrep   : BitVec 3 := 0
  vpc    : BitVec 17 := 0
  baddr  : BitVec 17 := 0
  mstep  : Word64 := 0
  faddr  : Word64 := 0
  xv     : Bool := false
  ch     : BitVec 2 := 0
  id     : Word32 := 0
  wm10   : Word64 := 0
  wm32   : Word64 := 0
  cpos   : SMap Word64 := []
  pecur  : Word64 := 0
  mtime  : Word64 := 0
deriving DecidableEq, Repr

/-- The causes of R28 that hold for a task. -/
structure Freeze where
  throttle : Bool := false
  overrun  : Bool := false
  held     : Bool := false
  memErr   : Bool := false
  snap     : Bool := false
  out      : Bool := false
  fault    : Bool := false
  /-- a save or a rollback has begun (R369, R393) -/
  save     : Bool := false
deriving DecidableEq, Repr

/-! The vector engine (06, 07). -/

/-- Where a pending result lands (R164, R176). -/
inductive VDest
  | lane (g phys l : Nat)
  | mask (g j l : Nat)
  | q (g : Nat)
  | qin (g : Nat)
  | base (g j : Nat)
  | rpos
deriving DecidableEq, Repr

/-- A result not yet visible: `due` is the first cycle whose reads see it (R173, R176). -/
structure VPend where
  dest  : VDest
  val   : Word32
  flags : BitVec 6 := 0
  due   : Nat
deriving DecidableEq, Repr

/-- An entry of the row-statistics queue (R215, R239). -/
structure RsEntry where
  id    : Nat
  ready : Bool := false
  rows  : Nat := 0
  mx    : SMap Word32 := []
  sum   : SMap Word32 := []
  ssq   : SMap Word32 := []
deriving DecidableEq, Repr

structure VEng where
  /-- physical registers: (g · 64 + phys) · 16 + lane -/
  v    : SMap Word32 := []
  /-- masks, g · 8 + j, 0xFFFF where unlisted -/
  m    : SMap (BitVec 16) := []
  /-- stage predicates q7..q0 of group g, 0xFF where unlisted -/
  q    : SMap (BitVec 8) := []
  /-- QIN of group g in bit g -/
  qin  : BitVec 8 := 0xFF
  /-- base registers, g · 16 + j -/
  b    : SMap Word32 := []
  rpos : BitVec 5 := 0
  /-- VSTAT [5:0]: SAT, NV, DZ, OF, UF, NX (R168) -/
  flags : BitVec 6 := 0
  pend : List VPend := []
  /-- lent banks (R208) -/
  lent : BitVec 4 := 0
  /-- reserved entries, oldest first -/
  rsq  : List RsEntry := []
deriving DecidableEq, Repr

/-! The matrix stream and its engines (08). -/

/-- The west tile bound by an EW operation (R223, R224). -/
structure WestBind where
  /-- 0 raw codes, 1 binary elements, 2 C4 indices -/
  kind  : Nat
  base  : Nat
  eps   : Nat
  rows  : Nat
  pitch : Nat
  fmt   : Nat
  rnd   : Nat
  cb    : Nat
  /-- the SKW list in force at the binding -/
  skw   : Option Nat
deriving DecidableEq, Repr

/-- The current operation of a sub-unit with the address it last issued (R114, R221). -/
structure MCur where
  op   : Option Instr := none
  base : Nat := 0
  addr : Nat := 0
deriving DecidableEq, Repr

/-- A pass in flight: what it captured and how far it is (R79, R84, R88, R229 to R231). -/
structure PassSt where
  id     : Nat
  cfg    : SMap Word32
  key    : BitVec 256
  west   : Option WestBind
  c0     : Nat
  c1     : Nat
  k      : Nat
  k0     : Nat
  stop   : Nat
  issue  : Nat
  baddr  : BitVec 17
  /-- 1 setup, 2 streaming, 3 holding -/
  phase  : Nat := 1
  setup  : Nat := 0
  outer  : Nat := 0
  kstep  : Nat := 0
  /-- first cycle of the current phase -/
  start  : Nat := 0
  wcode  : SMap Byte := []
  ncode  : SMap Byte := []
  /-- active counters, row · 256 + column -/
  cnt    : SMap Word32 := []
  /-- pairs of them that hold an uncorrectable error: granules of 8 bytes (R448, log 108) -/
  bad    : List Nat := []
  odone  : Nat := 0
  stopped : Bool := false
  nset   : Nat := 0
deriving DecidableEq, Repr

/-- A DRN or DRV in flight (R234 to R236). -/
structure DrJob where
  op    : Instr
  addr  : Nat
  /-- the pass it drains; 0 when none was issued -/
  pass  : Nat
  issue : Nat
  /-- the cycle in which the drained pass ended, once it has -/
  start : Option Nat := none
  /-- rows read and written so far, and whether all are -/
  row   : Nat := 0
  read  : Bool := false
  /-- word address of the absmax merge -/
  word  : Nat := 0
  mag   : Nat := 0
  sat   : Bool := false
  satte : Bool := false
  shift : Nat := 0
  baddr : BitVec 17
  rpt   : Nat := 0
deriving DecidableEq, Repr

/-- An ACLR or RSTAT in flight (R237, R239). -/
structure BankJob where
  op    : Instr
  addr  : Nat
  issue : Nat
  due   : Nat
  id    : Nat := 0
  baddr : BitVec 17 := 0
deriving DecidableEq, Repr

/-- An NLD in flight (R225). -/
structure NldJob where
  op    : Instr
  base  : Nat
  eps   : Nat
  cfg   : SMap Word32
  key   : BitVec 256
  skn   : Option Nat
  issue : Nat
  pos   : Nat := 0
  baddr : BitVec 17
deriving DecidableEq, Repr

/-- A CBLD in flight (R227). -/
structure CbldJob where
  cb    : Nat
  issue : Nat
  base  : Nat
  slen  : Word32
  scale : Word32
  due   : Nat
  baddr : BitVec 17 := 0
deriving DecidableEq, Repr

/-- A converted codebook (R66, R94). -/
structure Codebook where
  entries : SMap (BitVec 16) := []
  codes   : SMap Byte := []
  flags   : BitVec 16 := 0
deriving DecidableEq, Repr

structure MEng where
  /-- configuration registers by SEL (R218), reset values where unlisted -/
  cfg   : SMap Word32 := []
  /-- MCFG and PCFG writes and skep bindings that take effect at the end of the repetition (R220) -/
  cfgP  : List (Nat × Word32) := []
  pcfgP : List (Nat × Word64) := []
  bindP : List (Bool × Option Nat) := []
  skw   : Option Nat := none
  skn   : Option Nat := none
  west  : Option WestBind := none
  cur   : SMap MCur := []
  cb    : SMap Codebook := []
  pass  : Option PassSt := none
  /-- passes issued since launch; the identifier of the pass most recently issued -/
  passes : Nat := 0
  /-- draining counters and the SLEN of the pass they come from (R232) -/
  dcnt  : SMap Word32 := []
  /-- pairs of draining counters that hold an uncorrectable error (R448, log 108) -/
  dbad  : List Nat := []
  dslen : Option Word32 := none
  drs   : List DrJob := []
  aclrs : List BankJob := []
  rstats : List BankJob := []
  rsId  : Nat := 0
  nld   : Option NldJob := none
  cblds : List CbldJob := []
  /-- skep entries of an operation that wait for an earlier one on their list to have made its own (R92): list, index,
  value, bundle -/
  later : List (Nat × Nat × Nat × BitVec 17) := []
  /-- MSTAT: SATTE, and ACC_SAT, NV, DZ, OF, UF, NX in [5:0] (R219) -/
  satte : Bool := false
  flags : BitVec 6 := 0
  /-- PSTAT (R219) -/
  odone : Nat := 0
  stopped : Bool := false
  nset  : Nat := 0
deriving DecidableEq, Repr

/-! The pair engine (09). -/

/-- A PE operation in flight: captured registers, the unit its cursor names and when that unit's cost ends (R246,
R457, R266). -/
structure PeJob where
  op    : Instr
  /-- XR at issue, stepped -/
  xr    : Word64
  cfg   : SMap Word64
  issue : Nat
  baddr : BitVec 17
  /-- position: home cell or i of A; stencil step; position of i; position of the block's first j -/
  h     : Nat := 0
  q     : Nat := 0
  i     : Nat := 0
  j     : Nat := 0
  /-- 0 the home cell's cost, 1 a stencil position's cost, 2 a block's cost -/
  level : Nat := 0
  /-- first cycle of the current unit's cost -/
  at_   : Nat
  /-- every unit is done -/
  fin   : Bool := false
  /-- the operation's own arithmetic has set PAIR_SAT since the last trap -/
  sat   : Bool := false
  /-- cycle in which PAIR_SATURATE of a block that is done is raised (R257, R457) -/
  trapAt : Option Nat := none
deriving DecidableEq, Repr

structure PEng where
  cfg   : SMap Word64 := []
  lfull : Bool := false
  ptab  : Bool := false
  psat  : Bool := false
  tests : Word64 := 0
  pairs : Word64 := 0
  job   : Option PeJob := none
deriving DecidableEq, Repr

/-! The copy engine (10). -/

/-- A task of a job: the job's lead die and slot, and the task's place among the job's records. -/
structure TaskRef where
  lead : Nat
  slot : Nat
  idx  : Nat
deriving DecidableEq, Repr

/-- A request a die originated and holds until its answer returns (R407). -/
structure Req where
  seq   : BitVec 20
  msg   : Msg
  cl    : Nat
  ch    : Nat
  id    : Word32
  /-- first byte or element of the piece within its transfer -/
  piece : Nat := 0
  nacks : Nat := 0
  /-- clock cycle of the next try after a NACK (R287) -/
  retry : Option Nat := none
  /-- refused or stopped by an error: sent again when its task resumes -/
  stopped : Bool := false
  /-- a held effect released from the commit buffer: job lead and slot (R396) -/
  held  : Option (Nat × Nat) := none
  /-- an atomic under way whose task has been aborted: its job's lead and slot (R30, R311) -/
  orphan : Option (Nat × Nat) := none
  /-- nacked, and its task is pre-empted: it waits for the task's restore (R287, R369) -/
  away   : Option TaskRef := none
deriving DecidableEq, Repr

/-- A write held in the commit buffer: where it goes and its bytes; the low nibble of the first, or the high nibble of the last, is not
written where it belongs to a neighbour (R49, R387). -/
structure HeldWrite where
  addr  : Nat
  bytes : List Byte
  lo    : Bool := false
  hi    : Bool := false
deriving DecidableEq, Repr

/-- A write of a held copy that has been gathered for the commit buffer (R395): the first byte of its page, the first element in it with
its virtual address. -/
structure HeldPart where
  page  : Nat
  el    : Nat
  va    : Nat
  w     : HeldWrite
deriving DecidableEq, Repr

/-- A transfer issued and not completed, with everything it captured (R268 to R277, R290). -/
structure Transfer where
  id     : Word32
  op     : Instr
  /-- shapes: four words each -/
  src    : List Word64 := []
  dst    : List Word64 := []
  cfg    : SMap Word64 := []
  key    : BitVec 256 := 0
  /-- register values captured at issue -/
  xr     : Word64 := 0
  xv     : Word64 := 0
  xw     : Word64 := 0
  /-- physical address of each 64 KiB virtual page translated at issue (R274, R379), and the chunks of 64 KiB of
  those destination pages that have HELD set, each with its page -/
  tr     : SMap Nat := []
  held   : List (Nat × Nat) := []
  issue  : Nat
  /-- issue on the clock that its time is counted on: logical cycles and overrun clock cycles -/
  start  : Nat
  /-- least time of R276 -/
  least  : Nat
  /-- budget cycle in locked mode (R276) -/
  due    : Option Nat := none
  baddr  : BitVec 17
  pos    : Nat := 0
  /-- cursor in the units of R290 -/
  cursor : Nat := 0
  /-- its pieces have all moved -/
  fin    : Bool := false
  /-- complete; it stays in its channel until every earlier one is (R268) -/
  done   : Bool := false
  /-- widest scope of its homes: 0 task, 1 die, 2 module, 3 system (R309) -/
  scope  : Nat := 0
  /-- a home lies on another die, or it is a SEND or a RAMO: it works by messages -/
  far    : Bool := false
  /-- source elements asked for; for a SEND or a RAMO, bytes or requests sent -/
  asked  : Nat := 0
  /-- bytes that other dies have answered, by physical address -/
  buf    : SMap (Option Byte) := []
  /-- requests not yet answered, by SEQ -/
  out    : List Nat := []
  /-- ranges it has written (R275) -/
  wrote  : List (Nat × Nat) := []
  /-- elements below it have made their skep append -/
  app    : Nat := 0
  /-- a cause it raised and that holds until it is marked done or resumed: cause and detail (R385) -/
  failed : Option (Nat × Nat) := none
  /-- DECODE: next bit of the payload at hand, CRC register, pending low nibble + 1 (R281, R282) -/
  work   : List Nat := []
  /-- bytes gathered and not yet used: of a tile, of its record, of an indivisible unit of a load, of a block (R274, R282, R283) -/
  tile   : List Byte := []
  /-- bytes of the tile or record that have been written, and the scratchpad offset of the record -/
  tput   : Nat := 0
  tat    : Nat := 0
  /-- CMPR: the record is made and is being written; EXPD: the tile's words are and are -/
  tfull  : Bool := false
  /-- held effect that found no room, which the cursor names until it does (R395) -/
  back   : Option Nat := none
  /-- WRITEs not yet answered: SEQ and the cursor at their piece (R290) -/
  wr     : List (Nat × Nat) := []
  /-- pieces of a held copy -/
  heldW  : List HeldPart := []
deriving DecidableEq, Repr

structure Chan where
  nextId : Word32 := 1
  wmark  : Word32 := 0
  q      : List Transfer := []
  /-- the period in which SENDs last used the plan, and the bytes that each of its entries has carried in it (R284) -/
  slotPer : Nat := 0
  slotUsed : SMap Nat := []
  /-- the period in which other data last used the plan's slots, and the bytes of it in the slots of each entry (R413) -/
  sentPer  : Nat := 0
  sentUsed : SMap Nat := []
deriving DecidableEq, Repr

/-- States of a receive barrier (R270, R286). -/
inductive XbState | idle | armed | zero | error
deriving DecidableEq, Repr

structure Barrier where
  state : XbState := .idle
  rem   : Word32 := 0
  /-- due cycle of its last RECV -/
  due   : Option Nat := none
deriving DecidableEq, Repr

structure XEng where
  /-- shape registers, 4 · k + word -/
  sh    : SMap Word64 := []
  /-- XCFG registers by SEL, reset values where unlisted -/
  cfg   : SMap Word64 := []
  /-- fill pointers; 2^21 after a region that ends with the scratchpad and is full (log 101) -/
  cfill : SMap (BitVec 22) := []
  ch    : SMap Chan := []
  xb    : SMap Barrier := []
  /-- XSTAT [5:0] -/
  flags : BitVec 6 := 0
deriving DecidableEq, Repr

/-- A release of a semaphore made in the running cycle (R143). -/
structure SemRel where
  str : Str
  sem : Nat
  n   : Nat
deriving DecidableEq, Repr

/-! The cluster. -/

/-- Everything a logical cluster holds beside its window of memory (R12, R25, R32, R132). -/
structure Cluster where
  task  : Option TaskRef := none
  /-- the job's mode and slot facts that a stream reads: locked mode (R33) -/
  locked : Bool := false
  /-- task ordinal in the die image (R145) -/
  ord   : Nat := 0
  /-- start cycle in the job timeline (R359) -/
  scyc  : Nat := 0
  c : StreamSt := {}
  m : StreamSt := {}
  x : StreamSt := {}
  v : StreamSt := {}
  /-- s1 to s63 -/
  s     : SMap Word64 := []
  /-- p0 to p15; p0 reads as 1 (R104) -/
  p     : BitVec 16 := 1
  k     : SMap Word64 := []
  seedk : BitVec 256 := 0
  /-- writes of k and of the quarters of SEEDK made in the running cycle (R133) -/
  kP    : List (Nat × Word64) := []
  seedP : List (Nat × Word64) := []
  sem   : SMap (BitVec 8) := []
  /-- releases of the running cycle, in the order of R143 -/
  semP  : List SemRel := []
  /-- releases by engine completions of the running cycle, credited to M: semaphore and issuing bundle (R143) -/
  engP  : List (Nat × BitVec 17) := []
  taskcyc : Word64 := 0
  frzcyc  : Word64 := 0
  ovrcyc  : Word64 := 0
  slicecnt : Word64 := 0
  /-- clock cycles in which its copy engine has run: transfers are timed on it (R28, R276, R443) -/
  xclk  : Nat := 0
  /-- logical cycles since it last became resident (R16) -/
  quantum : Nat := 0
  /-- clock cycle in which a switch made it resident (R16) -/
  resAt : Nat := 0
  swapped : Bool := false
  /-- an ISWAP of the running cycle, in force from the next (R161) -/
  swapP   : Bool := false
  /-- flags set in the running cycle, by their register's offset: a W1C clear of the same cycle leaves them (R168) -/
  setNow  : SMap Nat := []
  frz   : Freeze := {}
  flt   : FaultRec := {}
  /-- causes held until the task is resumed (R383) -/
  heldF : List Trap := []
  /-- the cause whose record was written, and in which clock cycle: the streams' causes of that cycle join it (R41) -/
  fltNow : Option (Trap × Nat) := none
  ve    : VEng := {}
  me    : MEng := {}
  pe    : PEng := {}
  xe    : XEng := {}
  /-- image tags of the physical halves with their valid bits (R38) -/
  tagA  : Option (BitVec 512) := none
  tagB  : Option (BitVec 512) := none
  /-- the HCW table as its task found it at launch: the HCW image (R169, R330) -/
  hcw0  : SMap Byte := []
  /-- tasks waiting for the cluster, in admission order (R365) -/
  pendl : List TaskRef := []
  /-- the job after whose start on it the cluster was reset by an ABORT (R287, R386) -/
  resetBy : List (Nat × Nat) := []
  /-- pre-empted tasks, whose sends are nacked (R287, R369) -/
  saved : List TaskRef := []
  /-- it has run its quantum (R16) -/
  expired : Bool := false
  /-- the piece of an FENCE.S read is outstanding: 0 none, 1 issued, 2 answered (R309) -/
  pcie  : Nat := 0
  /-- clock cycles of the running logical cycle still to spend under throttling (R443) -/
  splitLeft : Nat := 0
  /-- a syllable of the running cycle has met late work (R35) -/
  late  : Bool := false
deriving DecidableEq, Repr

/-! The die (18 to 20, 23). -/

/-- A work queue (R355, R375, R422). -/
structure Queue where
  qbase  : BitVec 52 := 0
  en     : Bool := false
  ien    : Bool := false
  wgt    : BitVec 4 := 0
  pri    : BitVec 2 := 0
  log2n  : BitVec 4 := 4
  qtail  : BitVec 16 := 0
  qhead  : BitVec 16 := 0
  werr   : Bool := false
  terr   : Bool := false
  eerr   : Bool := false
  qcbase : BitVec 52 := 0
  qctail : BitVec 16 := 0
  qchead : BitVec 16 := 0
  qxroot : BitVec 40 := 0
  qivec  : BitVec 11 := 0
  /-- completions owed, in admission order: entry index and the finished record once it is known (R360) -/
  owed   : List (Nat × Option (List Byte)) := []
deriving DecidableEq, Repr

/-- The arbitration of one priority level (R362): Q, u and the selection that stands. -/
structure Arb where
  q   : Nat := 255
  u   : Nat := 16
  sel : Option Nat := none
deriving DecidableEq, Repr

/-- One end of a Girth link (R400, R403, R410). -/
structure Link where
  /-- 0 down, 1 training, 2 up -/
  state  : BitVec 2 := 0
  width  : BitVec 8 := 0
  crc    : Word64 := 0
  retry  : Word64 := 0
  retrain : Word32 := 0
  nextTx : BitVec 16 := 0
  expRx  : BitVec 16 := 0
  /-- a flit has been received in order -/
  ackv   : Bool := false
  replay : List Flit := []
  /-- flits of the replay buffer that wait to be sent again, oldest first (R403) -/
  again  : List Flit := []
  /-- after a retraining: its first flit is still to be sent, and the other end's first flit to come (R403) -/
  greet  : Bool := false
  await  : Bool := false
  /-- first clock cycle in which its output is free (R412) -/
  freeAt : Nat := 0
  /-- it was not up when the routes were computed, and no route takes it before they are again (R401) -/
  spare  : Bool := false
  /-- messages waiting for a flit -/
  out    : List Msg := []
  /-- flits accepted since the last flit sent, whose ACKSEQ covers them -/
  owed   : Nat := 0
  /-- clock cycles of CRC failures since the last retraining -/
  fails  : List Nat := []
  /-- went down and stays down until power-up (R411) -/
  dead   : Bool := false
deriving DecidableEq, Repr

/-- A pinned translation entry (R379). -/
structure TlbEntry where
  root  : Nat
  vbase : Nat
  size  : Nat
  phys  : Nat
  perm  : Nat
  /-- pins: cluster, channel, identifier -/
  pins  : List (Nat × Nat × Word32) := []
  /-- dies whose invalidations have selected it: no new lookup may use it (R381) -/
  inval : List Nat := []
deriving DecidableEq, Repr

/-- An effect held in the commit buffer (R395): an atomic on addr, or the writes of one copy. -/
structure HeldEff where
  lead  : Nat
  slot  : Nat
  idx   : Nat := 0
  cl    : Nat
  ch    : Nat
  /-- OP, W and the operands: operand, or comparand and new value -/
  atom  : Option (Nat × Nat × Word64 × Word64) := none
  addr  : Nat := 0
  writes : List HeldWrite := []
  /-- bytes of other dies that its writes share with neighbours, once they have been read there (R387, R396) -/
  buf   : SMap (Option Byte) := []
deriving DecidableEq, Repr

/-- A flit on the wire: the clock cycle it arrives in, the receiving die and its link (R412). -/
structure WireFlit where
  at_  : Nat
  die  : Nat
  link : Nat
  flit : Flit
deriving DecidableEq, Repr

/-- A locked admission posted to D0's ownership table (R362). -/
structure Claim where
  lead  : Nat
  queue : Nat
  dies  : List Nat
deriving DecidableEq, Repr

/-- Power control of a physical cluster (R439, R441). -/
structure PhysSt where
  imeas  : BitVec 16 := 0
  temp   : BitVec 8 := 0
  thr    : BitVec 2 := 0
  thrcyc : Word64 := 0
  /-- consecutive measurements beyond 0.10 and below 0.05, and measurements at this level -/
  hi     : Nat := 0
  lo     : Nat := 0
  atLvl  : Nat := 0
  /-- over-temperature holds level 2 -/
  hot    : Bool := false
deriving DecidableEq, Repr

/-- A voltage domain (R447, R454, R455). -/
structure Domain where
  snapcnt : BitVec 8 := 0
  voff  : BitVec 7 := 0
  snap  : Bool := false
  bsat  : Bool := false
  vup   : BitVec 12 := 0
  vlow  : BitVec 12 := 0
  limit : BitVec 8 := 0
  lock  : Bool := false
  /-- its snap-backs since power-up and the start of its clean window, in nanoseconds of operation -/
  snaps : List Nat := []
  clean : Nat := 0
  /-- clock cycle in which its layers have settled -/
  settle : Nat := 0
  /-- jobs, by lead and slot, whose replay is requested once it settles -/
  wants : List (Nat × Nat) := []
  /-- the offset to be set again after the replays of these jobs (R455) -/
  back  : BitVec 7 := 0
  after : List (Nat × Nat) := []
deriving DecidableEq, Repr

/-- A staged remap entry and the pre-emption registers of a logical cluster (R366, R368). -/
structure Preempt where
  busy  : Bool := false
  port  : Bool := false
  out   : BitVec 2 := 0
  rst   : Bool := false
  req   : Bool := false
  addr  : BitVec 52 := 0
deriving DecidableEq, Repr

structure Die where
  present : Bool := false
  /-- remap entries by logical cluster, and the staged ones (R14, R366) -/
  clmap  : SMap Byte := []
  staged : SMap Byte := []
  defmask : BitVec 18 := 0
  queues : SMap Queue := []
  arb    : SMap Arb := []
  pre    : SMap Preempt := []
  /-- locked pre-emption register (R371) -/
  jout   : BitVec 2 := 0
  jres   : Bool := false
  jreq   : Bool := false
  jslot  : BitVec 6 := 0
  invva  : BitVec 36 := 0
  invall : Bool := false
  invq   : BitVec 8 := 0
  invkind : BitVec 2 := 0
  invbusy : Bool := false
  /-- what the invalidation in progress names: KIND, root, page and reach; it selects its entries at the end of the clock cycle of
  its GO (R381) -/
  invrun  : BitVec 2 := 0
  invroot : Nat := 0
  invpage : BitVec 36 := 0
  invwide : Bool := false
  invwait : Bool := false
  tlb    : List TlbEntry := []
  ckbase : BitVec 45 := 0
  commit : List HeldEff := []
  replays : Word64 := 0
  cecnt  : Word64 := 0
  uecnt  : Word64 := 0
  evlost : Word64 := 0
  links  : SMap Link := []
  nextSeq : BitVec 20 := 0
  reqs   : List Req := []
  /-- executed requests by source die: SEQ and answer, newest first, at most 64 (R408) -/
  window : SMap (List (BitVec 20 × Msg)) := []
  phys   : SMap PhysSt := []
  doms   : SMap Domain := []
  /-- clock cycle of its last current measurement (R439) -/
  measAt : Nat := 0
  /-- the die that owns it for a locked job: lead and slot (R362) -/
  owner  : Option (Nat × Nat) := none
  /-- its answer to D0's first send: 0 none yet, 1 its digest equals M, 2 it counts as absent (R434) -/
  answer : Nat := 0
deriving DecidableEq, Repr

/-! Jobs (18, 19). -/

/-- A task's stage (R364, R365, R27, R386). -/
inductive TStage | waiting | loaded | running | retired | aborted
deriving DecidableEq, Repr

/-- A segment of a task record: address, length, target offset (R359). -/
structure Seg where
  addr : Nat
  len  : Nat
  off  : Nat
deriving DecidableEq, Repr

structure TaskRec where
  die   : Nat
  ord   : Nat
  lcl   : Nat
  scyc  : Nat
  pcs   : List Nat
  dly   : List Nat
  sp    : Word64
  segs  : List Seg
  seedk : BitVec 256
  diga  : BitVec 512
  digb  : BitVec 512
  k     : List Word64
  stage : TStage := .waiting
  /-- its cluster was free at admission: T0 waits for its loads (R365) -/
  first : Bool := false
  /-- its checkpoint stands in the generation of the step in progress (R390) -/
  ck    : Bool := false
  /-- period and clock cycle of its retirement (R145) -/
  retPer : Nat := 0
  retClk : Nat := 0
  /-- clock cycle in which it is to start, once its period has begun (R365) -/
  startAt : Option Nat := none
  /-- step of its retirement or abort -/
  retStep : Nat := 0
  /-- OVRCYC, FRZCYC, SLICECNT and TASKCYC when it left its cluster or its attempt was abandoned -/
  ovr    : Nat := 0
  frz    : Nat := 0
  slice  : Nat := 0
  cyc    : Nat := 0
  /-- what its FRZCYC, OVRCYC and SLICECNT start from after an abandoned attempt (R323) -/
  frz0   : Nat := 0
  ovr0   : Nat := 0
  slice0 : Nat := 0
  /-- it is to be restored from its checkpoint once its cluster is free (R393) -/
  rest   : Bool := false
deriving DecidableEq, Repr

/-- A slot of a stitch plan (R284). -/
structure PlanEnt where
  start : Nat
  len   : Nat
  cl    : Nat
  ch    : Nat
  ddie  : Nat
  dcl   : Nat
  slack : Bool
  bytes : Nat
deriving DecidableEq, Repr

/-- An entry of the step table (R389). -/
structure StepEnt where
  port : Bool
  nr   : Bool
  per  : Nat
deriving DecidableEq, Repr

structure Job where
  lead   : Nat
  slot   : Nat
  tag    : Word32
  queue  : Nat
  index  : BitVec 16
  locked : Bool
  cexp   : Nat
  dies   : List Nat
  root   : Nat
  tasks  : List TaskRec
  plans  : SMap (List PlanEnt) := []
  steps  : List StepEnt
  /-- admitted and its dies claimed (R362) -/
  granted : Bool := true
  /-- clock cycle of its last load (R417) -/
  loadedAt : Nat := 0
  /-- clock cycle in which T0 acts, once issued (R365, R415) -/
  t0     : Option Nat := none
  /-- period in progress, and the tick issued but not yet acted on: period, clock cycle it acts -/
  period : Nat := 0
  tick   : Option (Nat × Nat) := none
  /-- dies whose DONE for the period in progress has reached D0 -/
  dones  : List Nat := []
  /-- step in progress, its first period, and its rollbacks -/
  step   : Nat := 0
  stepP  : Nat := 0
  rolls  : Nat := 0
  /-- checkpoint generation of the step in progress; none where it is not replayable -/
  gen    : Nat := 0
  ckpt   : Bool := false
  /-- 0 a step is in progress; 1 it has ended and its held effects are being released; 2 they are (R396) -/
  phase  : Nat := 0
  /-- clock cycle in which the period in progress began, dies that have the tick, dies that have sent DONE (R415) -/
  began  : Nat := 0
  got    : List Nat := []
  /-- overrun clock cycles of the job's tasks when the period began -/
  ovr0   : Nat := 0
  dsent  : List Nat := []
  /-- locked save: requested, saved, resume requested (R371) -/
  saveReq : Bool := false
  saved  : Bool := false
  /-- clock cycle of its last locked resume (R371) -/
  backAt : Nat := 0
  nfault : Nat := 0
  nreplay : Nat := 0
  /-- a rollback has been requested: the job is frozen until its atomics are answered (R393) -/
  rollback : Bool := false
  /-- clock cycle in which the step in progress began -/
  stepClk : Nat := 0
  aborted : Bool := false
  /-- it ends with STATUS 2 and this CAUSE (R360) -/
  fail   : Option Nat := none
  failAddr : Nat := 0
  /-- its tasks are over, and atomics of theirs are still under way (R311) -/
  ending : Bool := false
  /-- its completion is known and waits to be written -/
  closed : Bool := false
deriving DecidableEq, Repr

/-! The module (20, 22 to 24). -/

/-- A host port (R421). -/
structure HostPort where
  trained : Bool := false
  pwbase : BitVec 15 := 0
  tkalign : Word64 := 0
  evbase : BitVec 40 := 0
  even   : Bool := false
  evlog2n : BitVec 4 := 8
  evtail : BitVec 16 := 0
  evhead : BitVec 16 := 0
  topo   : BitVec 52 := 0
  /-- bytes of the MSI-X table that differ from their reset values, and the pending vectors (R419, R420) -/
  msix   : SMap Byte := []
  pend   : List Nat := []
deriving DecidableEq, Repr

/-- The boot block and what D0's ROM holds (R431 to R436). -/
structure Boot where
  bstate : BitVec 4 := 0
  berr   : BitVec 8 := 0
  imgaddr : BitVec 52 := 0
  imglen : Word32 := 0
  attnonce : BitVec 52 := 0
  attout : BitVec 52 := 0
  atterr : Bool := false
  attdone : Bool := false
  /-- FWVER and M of the image in D0's region -/
  fwver  : Word32 := 0
  m      : BitVec 512 := 0
  /-- bytes of the download's image, and whether the host's memory answered its read with an error (R433) -/
  len    : Nat := 0
  rdErr  : Bool := false
  /-- requests for the attestation report and the certificate that are unfinished, and the clock cycle of the last (R436) -/
  attReq  : Bool := false
  certReq : Bool := false
  reqAt   : Nat := 0
  /-- clock cycle in which BSTATE last changed; in state 3 that of D0's first send (R434) -/
  sent   : Nat := 0
deriving DecidableEq, Repr

/-- Frequency and voltage of the module (R445, R446). -/
structure Freq where
  vnom : BitVec 12 := 750
  fmhz : BitVec 12 := 2100
  ramp : Bool := false
  pend : Bool := false
  vcur : BitVec 12 := 750
  fcur : BitVec 12 := 2100
  fchg : Word32 := 0
  /-- the request being carried out -/
  tf   : BitVec 12 := 2100
  tv   : BitVec 12 := 750
  /-- the clock has switched, and the clock cycle in which the running voltage ramp has settled -/
  switched : Bool := false
  settled : Nat := 0
deriving DecidableEq, Repr

/-- What a host read returned: port, BAR, offset and bytes. -/
structure HostAns where
  port : Bool
  bar  : BitVec 2
  off  : Nat
  data : List Byte
deriving DecidableEq, Repr

/-- The whole module. -/
structure State where
  /-- one memory over the 52-bit physical space (R293, R294); an unlisted byte reads as 0 -/
  mem    : List Host.Cell := []
  /-- granules that hold an uncorrectable error, by address div 8 (R387) -/
  bad    : List Nat := []
  /-- the cluster in focus: 16 · die + logical cluster, and its state -/
  cur    : Nat := 0
  cl     : Cluster := {}
  /-- every other cluster -/
  park   : SMap Cluster := []
  dies   : SMap Die := []
  jobs   : List Job := []
  /-- the bundle being issued -/
  ctx    : Ctx := {}
  /-- clusters whose turn in the running clock cycle is still to come -/
  turns  : List Nat := []
  /-- clock cycles since power-up, module time, and the part of a nanosecond not yet counted (R417) -/
  clk    : Nat := 0
  mtime  : Word64 := 0
  nsAcc  : Nat := 0
  /-- messages that have reached their destination die -/
  net    : List Msg := []
  /-- flits on the wire -/
  wire   : List WireFlit := []
  /-- claims in the order D0 received them -/
  claims : List Claim := []
  /-- end of the traffic hold of R409 -/
  hold   : Option Nat := none
  /-- inputs from outside, oldest first: host accesses, firmware acts, link events, power -/
  inputs : List Instr := []
  boot   : Boot := {}
  port0  : HostPort := {}
  port1  : HostPort := {}
  /-- interrupt vectors raised, newest first -/
  irqs   : List Nat := []
  answers : List HostAns := []
  freq   : Freq := {}
  gaddr  : BitVec 40 := 0
  goven  : Bool := false
  /-- nanoseconds of operation, with BSTATE 5 (R455) -/
  opns   : Nat := 0
  /-- uncorrectable errors met in the SRAM of undervolted domains whose snap-back is still to come: address, and the job of the task
  that met it (R448) -/
  uvMet  : List (Nat × Option (Nat × Nat)) := []
  /-- what saves wrote into the sections whose layout the spec leaves open, by the number that an image holds in the first
  8 bytes of its section at 0x1000 (R373) -/
  images : List Cluster := []
  /-- beat stretch of R414 holds -/
  stretch : Bool := false
  /-- a link has fallen to 32 lanes since power-up (R414) -/
  narrowed : Bool := false
  /-- next FSEQ of the frames received and sent, by scale-out port, and the payloads received and sent, oldest first (R418) -/
  soRx   : SMap (BitVec 16) := []
  soTx   : SMap (BitVec 16) := []
  soIn   : List (Nat × Flit) := []
  soOut  : List (Nat × Flit) := []
  /-- the model's own counter: each use of a free value reads and advances it -/
  fresh  : Nat := 0
deriving DecidableEq, Repr

/-- Why a step can stop with a fault. -/
inductive Fault
  /-- A host BAR access names a BAR that the port does not have (R420). Raised by HOST_WRITE and HOST_READ. Safe. -/
  | noSuchBar
deriving DecidableEq, Repr

/-- Why a step can stop with a refusal. -/
inductive Refusal
  /-- An instruction whose meaning the model does not hold yet. Safe. -/
  | notModelled (mnemonic : String)
deriving DecidableEq, Repr

/-- The module at power-up (R430): no power-up event has happened, no task runs, every register holds its reset value. -/
def State.reset : State := {}

end Sys2Proof.Machine
end

