-- ==== Sys2Proof/Machine/Ops.lean ====
section
/-! DEFINITION. The named operations over clusters, memory and registers, and taking a fault (11 R293 to R296; 05 R103,
R132; 19 R382, R383, R387). Every meaning reads and writes the state through these. -/
namespace Sys2Proof

/-- Streams by number, in the order of R41. -/
def Str.num : Str → Nat
  | .c => 0 | .m => 1 | .x => 2 | .v => 3

def Str.ofNum (n : Nat) : Str :=
  match n % 4 with
  | 0 => .c | 1 => .m | 2 => .x | _ => .v

end Sys2Proof

namespace Sys2Proof.Machine

/-- The answer of every meaning. -/
abbrev Out := Host.Outcome State Fault Refusal

/-! Clusters, dies and streams. -/

/-- 16 · die + logical cluster. -/
def clKey (die cl : Nat) : Nat := 16 * die + cl

def State.cluster (s : State) (k : Nat) : Cluster := if k = s.cur then s.cl else s.park.get {} k

def State.setCluster (s : State) (k : Nat) (c : Cluster) : State :=
  if k = s.cur then { s with cl := c } else { s with park := s.park.set {} k c }

def State.updCluster (s : State) (k : Nat) (f : Cluster → Cluster) : State := s.setCluster k (f (s.cluster k))

/-- The cluster k brought into focus. -/
def State.focus (s : State) (k : Nat) : State :=
  if k = s.cur then s
  else { s with cur := k, cl := s.park.get {} k, park := (s.park.set {} s.cur s.cl).erase k }

def State.die (s : State) (d : Nat) : Die := s.dies.get {} d
def State.setDie (s : State) (d : Nat) (x : Die) : State := { s with dies := s.dies.set {} d x }
def State.updDie (s : State) (d : Nat) (f : Die → Die) : State := s.setDie d (f (s.die d))

/-- The die of the cluster in focus, and its logical number. -/
def State.curDie (s : State) : Nat := s.cur / 16
def State.curCl (s : State) : Nat := s.cur % 16

def Cluster.str (c : Cluster) : Str → StreamSt
  | .c => c.c | .m => c.m | .x => c.x | .v => c.v

def Cluster.setStr (c : Cluster) (st : Str) (x : StreamSt) : Cluster :=
  match st with
  | .c => { c with c := x }
  | .m => { c with m := x }
  | .x => { c with x := x }
  | .v => { c with v := x }

/-- The stream whose bundle is being issued. -/
def State.strm (s : State) : StreamSt := s.cl.str s.ctx.str
def State.updStrm (s : State) (f : StreamSt → StreamSt) : State :=
  { s with cl := s.cl.setStr s.ctx.str (f (s.cl.str s.ctx.str)) }

/-- The task's logical cycle. -/
def State.cyc (s : State) : Nat := s.cl.taskcyc.toNat

/-- An address in a stream's own unit: modulo 2^16, or 2^17 in V (R97). -/
def pcWrap (st : Str) (n : Nat) : BitVec 17 :=
  .ofNat 17 (if st = .v then n else n % 2 ^ 16)

/-- A PC-relative address: base + signed offset, wrapped. -/
def pcRel (st : Str) (a : BitVec 17) (off : Int) : BitVec 17 := pcWrap st (ofInt 17 ((a.toNat : Int) + off))

/-! Memory. -/

/-- What a byte of memory reads as (R299; unlisted bytes: DESIGN CHOICE, log 3). -/
def State.rd8 (s : State) (a : Nat) : Byte := SMap.get 0 s.mem a

/-- A byte of memory written. -/
def State.wr8 (s : State) (a : Nat) (v : Byte) : State := { s with mem := SMap.set 0 s.mem a v }

/-- n bytes at a, little-endian (R49). -/
def State.rdLE (s : State) (a : Nat) : Nat → Nat
  | 0 => 0
  | n + 1 => (s.rd8 a).toNat + 256 * State.rdLE s (a + 1) n

/-- The bytes of a number, low first. -/
def bytesOf (v : Nat) : Nat → List Byte
  | 0 => []
  | n + 1 => BitVec.ofNat 8 v :: bytesOf (v / 256) n

/-- The number of a list of bytes. -/
def ofBytes : List Byte → Nat
  | [] => 0
  | b :: t => b.toNat + 256 * ofBytes t

/-- n bytes of memory from a. -/
def State.rdBytes (s : State) (a : Nat) : Nat → List Byte
  | 0 => []
  | n + 1 => s.rd8 a :: State.rdBytes s (a + 1) n

/-- The bytes l from address a as entries; a byte that reads as an unlisted one is not listed. -/
def listed (a : Nat) : List Byte → SMap Byte
  | [] => []
  | b :: t => if b = 0 then listed (a + 1) t else (a, b) :: listed (a + 1) t

/-- Memory with the bytes l in place from address a. -/
def memWrBytes (m : SMap Byte) (a : Nat) (l : List Byte) : SMap Byte :=
  (m.filter fun e => decide (e.1 < a)) ++ listed a l ++ m.filter fun e => decide (a + l.length ≤ e.1)

def State.wrBytes (s : State) (a : Nat) (l : List Byte) : State := { s with mem := memWrBytes s.mem a l }

/-- n bytes at a set to the low bytes of v. -/
def State.wrLE (s : State) (a n v : Nat) : State := s.wrBytes a (bytesOf v n)

/-- n bytes at a set to 0. -/
def State.wrZero (s : State) (a n : Nat) : State :=
  { s with mem := s.mem.filter fun e => !(decide (a ≤ e.1) && decide (e.1 < a + n)) }

/-- The memory's canonical form: addresses strictly rising, no byte listed that reads as an unlisted one. -/
def Memory.wf (m : SMap Byte) : Bool := SMap.wf 0 m

/-- Physical address of a cluster's window (R293, R294). -/
def winBase (k : Nat) : Nat := (k / 16) * 2 ^ 45 + (k % 16) * 0x400000

/-- Window offsets of R294. -/
def offPlane : Nat := 0x040000
def offShadow : Nat := 0x050000
def offHcw : Nat := 0x060000
def offPair : Nat := 0x070000
def offSpad : Nat := 0x100000
def offAcc : Nat := 0x300000

/-- Physical address of an offset of the data scratchpad in focus. -/
def State.spad (s : State) (o : Nat) : Nat := winBase s.cur + offSpad + o

/-- Accumulator word (bank, row, column) (R235). -/
def State.accAddr (s : State) (b row col : Nat) : Nat :=
  winBase s.cur + offAcc + 0x10000 * b + 1024 * row + 4 * col

/-- Window offsets that name the counters, two cells of 4 bytes to a granule: 32,768 granules of active counters, then as many of draining
ones, laid into the window's holes (R294), where no access reaches them. DESIGN CHOICE (log 108). -/
def counterOff (g : Nat) : Nat := if g < 0xE800 then 0x08C000 + 8 * g else 0x064000 + 8 * (g - 0xE800)

/-- The counter granule that a window offset names. -/
def counterAt (o : Nat) : Option Nat :=
  if 0x08C000 ≤ o ∧ o < 0x100000 then some ((o - 0x08C000) / 8)
  else if 0x064000 ≤ o ∧ o < 0x070000 then some (0xE800 + (o - 0x064000) / 8)
  else none

/-- Module granule of a counter granule of the cluster in focus. -/
def State.counterGranule (s : State) (g : Nat) : Nat := (winBase s.cur + counterOff g) / 8

/-- The first bad counter granule whose cells, of row r and columns c0 to c1, are read. -/
def badCell (l : List Nat) (rows : Nat → Bool) (c0 c1 : Nat) : Option Nat :=
  l.find? fun g => rows (g / 128) && decide (c0 ≤ 2 * (g % 128) + 1) && decide (2 * (g % 128) ≤ c1)

/-- The counters of cluster `c` whose granule g meets an error that it holds from then on; active ones that belong to no pass are cleared
before they are read. -/
def Cluster.markCounter (c : Cluster) (g : Nat) : Cluster :=
  { c with me := if g < 0x8000 then { c.me with pass := c.me.pass.map fun p => { p with bad := (g :: p.bad).eraseDups } }
                 else { c.me with dbad := ((g - 0x8000) :: c.me.dbad).eraseDups } }

/-- The first granule of [a, a + n) that holds an uncorrectable error (R387). DESIGN CHOICE (log 5). -/
def State.badRead (s : State) (a n : Nat) : Option Nat :=
  s.bad.find? fun g => decide (a / 8 ≤ g) && decide (g * 8 < a + n) && decide (0 < n)

/-- The first such granule that a write of [a, a + n) covers only in part (R387). -/
def State.badWrite (s : State) (a n : Nat) : Option Nat :=
  s.bad.find? fun g => decide (a / 8 ≤ g) && decide (g * 8 < a + n) && decide (0 < n) &&
    !(decide (a ≤ g * 8) && decide (g * 8 + 8 ≤ a + n))

/-- Errors that a write of [a, a + n) clears: those of granules it covers whole. -/
def State.clearBad (s : State) (a n : Nat) : State :=
  { s with bad := s.bad.filter fun g => !(decide (a ≤ g * 8) && decide (g * 8 + 8 ≤ a + n)) }

/-- A write into a half of an instruction scratchpad clears that half's tag valid bit (R38). -/
def State.clearTags (s : State) (a n : Nat) : State :=
  let loc := a % 2 ^ 45
  let off := loc % 0x400000
  if a < 2 ^ 51 ∧ loc < 0x4000000 ∧ off < 0x40000 ∧ 0 < n then
    s.updCluster (clKey (a / 2 ^ 45) (loc / 0x400000)) fun c =>
      { c with tagA := if off < 0x20000 then none else c.tagA
               tagB := if off + n > 0x20000 then none else c.tagB }
  else s

/-- The bytes of one write performed at their home: memory, errors cleared, image tags cleared. -/
def State.store (s : State) (a : Nat) (l : List Byte) : State :=
  ((s.wrBytes a l).clearBad a l.length).clearTags a l.length

/-- A write of n zero bytes. -/
def State.storeZero (s : State) (a n : Nat) : State := ((s.wrZero a n).clearBad a n).clearTags a n

/-! Registers of the streams (R103, R132). -/

/-- s0 reads as 0. -/
def State.sreg (s : State) (r : Nat) : Word64 := if r = 0 then 0 else s.cl.s.get 0 r

/-- A write to s0 is discarded (R132). -/
def State.setS (s : State) (r : Nat) (v : Word64) : State :=
  if r = 0 then s else { s with cl := { s.cl with s := s.cl.s.set 0 r v } }

/-- k as it stood at the start of the cycle (R133). -/
def State.kreg (s : State) (n : Nat) : Word64 := s.cl.k.get 0 n

/-- p0 reads as 1 (R104). -/
def State.preg (s : State) (j : Nat) : Bool := j == 0 || s.cl.p.toNat.testBit j

/-- A write to p0 is discarded. -/
def State.setP (s : State) (j : Nat) (b : Bool) : State :=
  if j = 0 then s
  else { s with cl := { s.cl with
      p := if b then s.cl.p ||| (BitVec.ofNat 16 (2 ^ j)) else s.cl.p &&& ~~~(BitVec.ofNat 16 (2 ^ j)) } }

/-- An index operand read by the issuing stream (R103). -/
def State.reg (s : State) (r : BitVec 6) : Word64 :=
  match s.ctx.str with
  | .c => s.sreg r.toNat
  | _ => if r.toNat < 8 then s.strm.idx.get 0 r.toNat else s.kreg (r.toNat - 32)

/-- A destination index operand written. -/
def State.setReg (s : State) (r : BitVec 6) (v : Word64) : State :=
  match s.ctx.str with
  | .c => s.setS r.toNat v
  | _ => s.updStrm fun t => { t with idx := t.idx.set 0 r.toNat v }

/-- The guard of a C syllable holds (R104, R135). -/
def State.guard (s : State) (g : BitVec 5) : Bool := s.preg (g.toNat % 16) != (g.toNat / 16 == 1)

/-- A value written to a C register by a guarded syllable. -/
def State.guarded (s : State) (g : BitVec 5) (f : State → State) : State := if s.guard g then f s else s

/-! Composite registers (R219, R266, R270). -/

/-- MSTEP (R219). -/
def mstepOf (c : Cluster) : Word64 :=
  let (ph, su, ou, ks) := match c.me.pass with
    | none => (0, 0, 0, 0)
    | some p => (p.phase, p.setup, p.outer, p.kstep)
  .ofNat 64 (c.m.rep % 2 ^ 12 * 2 ^ 52 + ph * 2 ^ 50 + su % 2 ^ 25 * 2 ^ 25 + ou % 2 ^ 7 * 2 ^ 17 + ks % 2 ^ 17)

/-- PECUR (R266): 0 too for an operation in flight with no unit left, in the cycles that its last costs still take (DESIGN CHOICE,
log 104). -/
def pecurOf (c : Cluster) : Word64 :=
  match c.pe.job with
  | none => 0
  | some j =>
    if j.fin then 0
    else match j.op with
    | .pcell .. => .ofNat 64 (j.h * 2 ^ 46 + j.q * 2 ^ 41 + j.i % 2 ^ 16 * 2 ^ 25 + j.j % 2 ^ 16 * 2 ^ 9)
    | .psets .. => .ofNat 64 (j.i * 2 ^ 32 + j.j)
    | _ => .ofNat 64 j.i

def Cluster.chan (c : Cluster) (n : Nat) : Chan := c.xe.ch.get {} n
def Cluster.setChan (c : Cluster) (n : Nat) (x : Chan) : Cluster := { c with xe := { c.xe with ch := c.xe.ch.set {} n x } }

/-- The cursor of a transfer as software sees it: at its first piece that has not landed (R290). -/
def Transfer.shown (t : Transfer) : Nat := t.wr.foldl (fun m w => Nat.min m w.2) (t.back.getD t.cursor)

/-- CPOSn: the lowest incomplete identifier and its progress (R270, R290). -/
def cposOf (c : Cluster) (n : Nat) : Word64 :=
  match (c.chan n).q with
  | [] => 0
  | t :: _ => .ofNat 64 (t.id.toNat * 2 ^ 32 + t.shown % 2 ^ 32)

/-! Event records (20 R421 to R423). -/

/-- The primary port: the one at D0 when it trained, else the one at D32 (R419). DESIGN CHOICE (log 26). -/
def State.primary (s : State) : HostPort := if s.port0.trained then s.port0 else s.port1
def State.setPrimary (s : State) (p : HostPort) : State :=
  if s.port0.trained then { s with port0 := p } else { s with port1 := p }

/-- Byte o of the MSI-X table: the mask bit of a vector's control word is set at reset. PRESUMED (log 71). -/
def msixReset (o : Nat) : Byte := if o % 16 = 12 then 1 else 0
def HostPort.msixByte (p : HostPort) (o : Nat) : Byte := p.msix.get (msixReset o) o
def HostPort.masked (p : HostPort) (v : Nat) : Bool := (p.msixByte (16 * v + 12)).getLsbD 0

/-- Interrupt vector v through the primary port; a masked one is pending instead (R419, R422). -/
def State.interrupt (s : State) (v : Nat) : State :=
  let p := s.primary
  if p.masked v then s.setPrimary { p with pend := if p.pend.contains v then p.pend else p.pend ++ [v] }
  else { s with irqs := v :: s.irqs }

/-- An event record of 256 bytes posted to the ring of the primary port; with the ring full or disabled the die's EVLOST
counts it (R421, R423). DESIGN CHOICE (log 23). -/
def State.postEvent (s : State) (code srck die idx : Nat) (body : List Byte) : State :=
  let p := s.primary
  let held := (p.evtail - p.evhead).toNat
  if p.even ∧ held < 2 ^ p.evlog2n.toNat then
    let a := 2 ^ 51 + p.evbase.toNat * 4096 % 2 ^ 51 + 256 * (p.evtail.toNat % 2 ^ p.evlog2n.toNat)
    let rec_ := [BitVec.ofNat 8 code, BitVec.ofNat 8 srck, BitVec.ofNat 8 die, BitVec.ofNat 8 idx, 0, 0, 0, 0]
      ++ bytesOf s.mtime.toNat 8 ++ (body ++ List.replicate 240 0).take 240
    ((s.wrBytes a rec_).setPrimary { p with evtail := p.evtail + 1 }).interrupt 2047
  else s.updDie die fun d => { d with evlost := d.evlost + 1 }

/-- Module address of offset o of die d's control blocks. -/
def regAddr (d o : Nat) : Nat := d * 2 ^ 45 + 0x1F0000000000 + o

/-- The address that an event gives for offset o of die d's control blocks: the die-control local one where the host (1) wrote it,
through BAR 0 (R423). -/
def regSeen (who d o : Nat) : Nat := if who = 1 then 0x1F0000000000 + o else regAddr d o

/-- An ignored write recorded as an event (CODE 0x40, R423). -/
def State.ignored (s : State) (srck die idx addr : Nat) (v : Nat) (len who port : Nat) : State :=
  s.postEvent 0x40 srck die idx
    (bytesOf addr 8 ++ bytesOf (v % 256 ^ len) 8 ++ [BitVec.ofNat 8 who, BitVec.ofNat 8 port])

/-! Faults (19 R382, R383). -/

/-- Codes of the causes (R382). -/
inductive Cause
  | illegalOpcode | illegalBundle | illegalTarget | illegalCode | misaligned | spadRange | timingMiss | checkFail
  | semOverflow | xlateMiss | xlatePerm | memUncorr | decodeChecksum | skepFull | pairSaturate | accSaturate
  | xbOverrun | targetDown | targetReset | contextGeometry | launchDieAbsent | linkDown | brk | syscall | jobFault
deriving DecidableEq, Repr

def Cause.code : Cause → Nat
  | .illegalOpcode => 0x01 | .illegalBundle => 0x02 | .illegalTarget => 0x03 | .illegalCode => 0x04
  | .misaligned => 0x05 | .spadRange => 0x06 | .timingMiss => 0x07 | .checkFail => 0x08 | .semOverflow => 0x09
  | .xlateMiss => 0x0A | .xlatePerm => 0x0B | .memUncorr => 0x0C | .decodeChecksum => 0x0D | .skepFull => 0x0E
  | .pairSaturate => 0x0F | .accSaturate => 0x10 | .xbOverrun => 0x11 | .targetDown => 0x12 | .targetReset => 0x13
  | .contextGeometry => 0x14 | .launchDieAbsent => 0x15 | .linkDown => 0x16 | .brk => 0x17 | .syscall => 0x18
  | .jobFault => 0x19

/-- An address in the SRAM of a logical cluster (R294, R448). -/
def sramAddr (a : Nat) : Bool := decide (a < 2 ^ 51) && decide (a % 2 ^ 45 < 0x4000000)

/-- An error at address a is held by its granule. -/
def State.markBad (s : State) (a : Nat) : State :=
  match if sramAddr a then counterAt (a % 0x400000) else none with
  | some g => s.updCluster (clKey (a / 2 ^ 45) (a % 2 ^ 45 / 0x400000)) (·.markCounter g)
  | none => if s.bad.contains (a / 8) then s else { s with bad := s.bad ++ [a / 8] }

/-- The voltage domain of cluster k: the pair of its physical cluster (R438). -/
def State.domOf (s : State) (k : Nat) : Domain :=
  (s.die (k / 16)).doms.get {} (((s.die (k / 16)).clmap.get 0 (k % 16)).toNat % 32 / 2)

/-- Address a lies in the SRAM of a domain that is undervolted or snaps back (R448). -/
def State.undervolted (s : State) (a : Nat) : Bool :=
  let d := s.domOf (clKey (a / 2 ^ 45) (a % 2 ^ 45 / 0x400000))
  sramAddr a && (d.voff != 0 || d.snap)

/-- The cause is an error in such SRAM. -/
def State.uvCause (s : State) (t : Trap) : Bool := t.cause == 0x0C && s.undervolted t.faddr

/-- UVS of a record (R448): an error in the SRAM of an undervolted domain, or any record of a task whose domain snaps back. -/
def State.uvsOf (s : State) (t : Trap) : Bool := (s.domOf s.cur).snap || s.uvCause t

/-- An uncorrectable error met on die d: UECNT counts it, and the clean windows of its domains begin afresh (R388, R455). -/
def State.countUE (s : State) (d : Nat) : State :=
  s.updDie d fun x => { x with
    uecnt := x.uecnt + 1
    doms := (List.range 9).foldl (fun (m : SMap Domain) j => m.set {} j { m.get {} j with clean := s.opns }) x.doms }

/-- An uncorrectable error at address a met by a task of the job, if any: in the SRAM of an undervolted domain it brings the domain
back (R448). -/
def State.meetUE (s : State) (a : Nat) (job : Option (Nat × Nat)) : State :=
  if s.undervolted a then { s with uvMet := s.uvMet ++ [(a, job)] } else s

/-- An uncorrectable error at address a met by a task of the job, if any, or by an access of the host or firmware: counted on the die
that holds the granule, d where it is host memory, with the snap-back it calls for (R388, R448). -/
def State.noteUE (s : State) (a d : Nat) (job : Option (Nat × Nat)) : State :=
  (s.countUE (if a < 2 ^ 51 then a / 2 ^ 45 % 64 else d)).meetUE a job

/-- A trap that reports an uncorrectable error counts it on the die that holds the granule (R388). -/
def State.countTrap (s : State) (t : Trap) : State :=
  if t.cause = 0x0C then s.noteUE t.faddr s.curDie (s.cl.task.map fun r => (r.lead, r.slot)) else s

/-- The fault record that a trap writes (R383). -/
def State.record (s : State) (t : Trap) : FaultRec :=
  let c := s.cl
  { cause := .ofNat 8 t.cause, detail := .ofNat 8 t.detail, str := .ofNat 4 t.str.num, pos := .ofNat 4 t.pos
    lane := .ofNat 8 t.lane, code := .ofNat 16 t.code, uvs := s.uvsOf t, valid := true, sec := 0, ftcyc := c.taskcyc
    cpc := .ofNat 16 c.c.pc.toNat, mpc := .ofNat 16 c.m.pc.toNat, xpc := .ofNat 16 c.x.pc.toNat
    vrep := .ofNat 3 c.v.rep, vpc := c.v.pc, baddr := t.baddr, mstep := mstepOf c, faddr := .ofNat 64 t.faddr
    xv := t.xfer.isSome, ch := .ofNat 2 ((t.xfer.map (·.1)).getD 0), id := (t.xfer.map (·.2)).getD 0
    wm10 := .ofNat 64 ((c.chan 1).wmark.toNat * 2 ^ 32 + (c.chan 0).wmark.toNat)
    wm32 := .ofNat 64 ((c.chan 3).wmark.toNat * 2 ^ 32 + (c.chan 2).wmark.toNat)
    cpos := (List.range 4).foldl (fun m n => m.set 0 n (cposOf c n)) []
    pecur := pecurOf c, mtime := s.mtime }

/-- The 64-bit word of a fault record at offset 0x200 + o (R383). -/
def FaultRec.word (r : FaultRec) (o : Nat) : Nat :=
  match o with
  | 0x00 => r.cause.toNat * 2 ^ 56 + r.detail.toNat * 2 ^ 48 + r.str.toNat * 2 ^ 44 + r.pos.toNat * 2 ^ 40
      + r.lane.toNat * 2 ^ 32 + r.code.toNat * 2 ^ 16 + b2n r.uvs * 2 + b2n r.valid
  | 0x08 => r.sec.toNat
  | 0x10 => r.ftcyc.toNat
  | 0x18 => r.cpc.toNat * 2 ^ 48 + r.mpc.toNat * 2 ^ 32 + r.xpc.toNat * 2 ^ 16
  | 0x20 => r.vrep.toNat * 2 ^ 32 + r.vpc.toNat
  | 0x28 => r.baddr.toNat
  | 0x30 => r.mstep.toNat
  | 0x38 => r.faddr.toNat
  | 0x40 => b2n r.xv * 2 ^ 34 + r.ch.toNat * 2 ^ 32 + r.id.toNat
  | 0x48 => r.wm10.toNat
  | 0x50 => r.wm32.toNat
  | 0x58 => (r.cpos.get 0 0).toNat
  | 0x60 => (r.cpos.get 0 1).toNat
  | 0x68 => (r.cpos.get 0 2).toNat
  | 0x70 => (r.cpos.get 0 3).toNat
  | 0x78 => r.pecur.toNat
  | 0x80 => r.mtime.toNat
  | _ => 0

/-- Offsets 0x200 to 0x287 as bytes. -/
def FaultRec.bytes (r : FaultRec) : List Byte :=
  (List.range 17).flatMap fun i => bytesOf (r.word (8 * i)) 8

/-- The record's copy posted as an event of its cluster (R383, R423). -/
def State.postFault (s : State) : State :=
  s.postEvent s.cl.flt.cause.toNat 0 s.curDie s.curCl s.cl.flt.bytes

/-- The byte of SEC that belongs to a stream: C in [31:24] down to V in [7:0]. -/
def secShift (st : Str) : Nat := 24 - 8 * st.num

/-- One more fault record counted for the task's job (R360). -/
def State.countFault (s : State) : State :=
  match s.cl.task with
  | none => s
  | some r => { s with jobs := s.jobs.map fun j =>
      if j.lead = r.lead ∧ j.slot = r.slot then { j with nfault := j.nfault + 1 } else j }

/-- A cause recorded. With no record valid, the record is written, the task freezes and a copy is posted. While the task is
frozen by a fault, a later cause goes into its stream's byte of SEC, or is held where that byte is taken (R383). -/
def State.recordFault (s : State) (t : Trap) : State :=
  let c := s.cl
  if c.flt.valid then
    if c.flt.sec.toNat / 2 ^ secShift t.str % 256 = 0 then
      ({ s with cl := { c with flt := { c.flt with
          sec := .ofNat 32 (c.flt.sec.toNat + t.cause % 256 * 2 ^ secShift t.str), uvs := c.flt.uvs || s.uvCause t } } }).postFault
    else { s with cl := { c with heldF := c.heldF ++ [t] } }
  else
    let z := { c.frz with fault := !t.memErr || c.frz.fault, memErr := t.memErr || c.frz.memErr }
    (({ s with cl := { c with flt := s.record t, frz := z, fltNow := some (t, s.clk) } }).postFault).countFault

/-- Taking a fault: the one operation every cause goes through (R40, R41, R383, R387): an uncorrectable error is counted, and
the cause recorded. -/
def State.takeFault (s : State) (t : Trap) : State := (s.countTrap t).recordFault t

/-- A record written in this clock cycle for the cause p gives way to the cause t of the same cycle, whose stream comes first:
t becomes primary and p secondary (R41). -/
def State.rePrime (s : State) (p t : Trap) : State :=
  let s := s.countTrap t
  let c := s.cl
  let z := { c.frz with fault := !t.memErr || c.frz.fault, memErr := t.memErr || c.frz.memErr }
  let f := { s.record t with uvs := s.uvsOf t || c.flt.uvs, sec := .ofNat 32 (c.flt.sec.toNat % 2 ^ secShift p.str
    + p.cause % 256 * 2 ^ secShift p.str + c.flt.sec.toNat / 2 ^ (secShift p.str + 8) * 2 ^ (secShift p.str + 8)) }
  ({ s with cl := { c with flt := f, frz := z } }).postFault

/-- The trap of the syllable being issued. -/
def State.trapOf (s : State) (c : Cause) (detail faddr : Nat := 0) : Trap :=
  { str := s.ctx.str, cause := c.code, detail := detail, pos := s.ctx.pos, faddr := faddr, baddr := s.ctx.addr }

/-- The syllable being issued ends with the fault taken; the context keeps the trap for the bundle (R26). -/
def State.trapped (s : State) (t : Trap) : State :=
  let s1 := s.takeFault t
  { s1 with ctx := { s1.ctx with trap := some t } }

/-- Trap(CAUSE) of the syllable being issued (R6). -/
def raise (c : Cause) (s : State) (detail faddr : Nat := 0) : Out := .next (s.trapped (s.trapOf c detail faddr))

/-- Lifting the fault freeze (R385): VALID clears; a cause held meanwhile is raised with a record of its own (R383). -/
def State.liftFault (s : State) : State :=
  let c := s.cl
  let s1 := { s with cl := { c with
      flt := { c.flt with valid := false }, frz := { c.frz with fault := false, memErr := false }, heldF := [] } }
  c.heldF.foldl (fun s h => s.recordFault h) s1

/-! Waiting (R162). -/

/-- The syllable being issued waits: the bundle has no effect and WSTATE records what the syllable captured. -/
def State.waits (s : State) (cap : Option Nat := none) : State :=
  let s1 := s.updStrm fun t =>
    let w := t.wait.getD { since := s.cyc }
    { t with wait := some (match cap with
        | none => w
        | some v => { w with caps := w.caps.set 0 s.ctx.pos v }) }
  { s1 with ctx := { s1.ctx with wait := true } }

/-- The cycle in which the bundle being issued first issued (R144, R162). -/
def State.since (s : State) : Nat := (s.strm.wait.map (·.since)).getD s.cyc

/-- What the syllable captured when its bundle first issued, v where it is only now issuing. -/
def State.captured (s : State) (v : Nat) : Nat :=
  match s.strm.wait with
  | none => v
  | some w => if w.caps.any (fun e => e.1 == s.ctx.pos) then w.caps.get 0 s.ctx.pos else v

/-- A freeze of the task by any cause of R28. -/
def Freeze.any (f : Freeze) : Bool := f.throttle || f.overrun || f.held || f.memErr || f.snap || f.out || f.fault || f.save

/-- A fresh value the spec leaves open: the counter is read and advanced (DESIGN CHOICE, log 2). -/
def State.free (s : State) : Word64 × State := (Config.freeValue s.fresh, { s with fresh := s.fresh + 1 })

end Sys2Proof.Machine
end

