-- ==== Sys2Proof/Machine/Flags.lean ====
section
/-! DEFINITION. Conditions and sticky flags: the compares of the streams (05 R138, R150), and the flag registers VSTAT, MSTAT,
PESR and XSTAT with their sets and W1C clears (06 R168, 08 R219, 09 R248, 10 R270). -/
namespace Sys2Proof.Machine

/-- Conditions 0 to 7 on 64-bit values (R138, R150): EQ NE LT GE LTU GEU TST NTST. -/
def cond (cc : Nat) (x y : Word64) : Bool :=
  match cc with
  | 0 => x == y
  | 1 => x != y
  | 2 => x.slt y
  | 3 => !x.slt y
  | 4 => x.ult y
  | 5 => !x.ult y
  | 6 => (x &&& y) != 0
  | 7 => (x &&& y) == 0
  | _ => false

/-! The flag registers, by offset in the cluster control block. -/

def offVstat : Nat := 0x28
def offMstat : Nat := 0x38
def offPesr : Nat := 0x40
def offXstat : Nat := 0xC0

/-- Flags f of one register set in the running cycle. -/
def Cluster.noteSet (c : Cluster) (off f : Nat) : Cluster := { c with setNow := c.setNow.set 0 off (c.setNow.get 0 off ||| f) }

/-- VSTAT flags set (R168). -/
def Cluster.orV (c : Cluster) (f : BitVec 6) : Cluster :=
  { c.noteSet offVstat f.toNat with ve := { c.ve with flags := c.ve.flags ||| f } }

/-- MSTAT flags set: [5] ACC_SAT, [4:0] of R64 (R219). -/
def Cluster.orM (c : Cluster) (f : BitVec 6) : Cluster :=
  { c.noteSet offMstat f.toNat with me := { c.me with flags := c.me.flags ||| f } }

/-- XSTAT flags set (R270). -/
def Cluster.orX (c : Cluster) (f : BitVec 6) : Cluster :=
  { c.noteSet offXstat f.toNat with xe := { c.xe with flags := c.xe.flags ||| f } }

/-- PESR flags set (R248). -/
def Cluster.orP (c : Cluster) (lfull ptab sat : Bool) : Cluster :=
  { c.noteSet offPesr (b2n lfull * 8 + b2n ptab * 4 + b2n sat * 2) with
    pe := { c.pe with lfull := c.pe.lfull || lfull, ptab := c.pe.ptab || ptab, psat := c.pe.psat || sat } }

/-- The flags of R64 as the low five of a six-bit register, with bit 5 apart. -/
def flags6 (top : Bool) (f : Flags) : BitVec 6 := .ofNat 6 (b2n top * 32 + f.toNat)

/-- What a W1C write v leaves of the flags f of the register at off. -/
def Cluster.w1c (c : Cluster) (off : Nat) (f : BitVec 6) (v : Nat) : BitVec 6 :=
  f &&& (~~~(BitVec.ofNat 6 v) ||| BitVec.ofNat 6 (c.setNow.get 0 off))

/-- A 32-bit write of block 0 by CRW or the host's peers: RW and W1C fields only (R156). -/
def Cluster.writeCreg (c : Cluster) (off v : Nat) : Cluster :=
  match off with
  | 0x28 => { c with ve := { c.ve with flags := c.w1c off c.ve.flags v } }
  | 0x38 => { c with me := { c.me with satte := bit v 8, flags := c.w1c off c.me.flags v } }
  | 0x40 =>
    let k (n : Nat) : Bool := bit (c.setNow.get 0 off) n || !bit v n
    { c with pe := { c.pe with lfull := c.pe.lfull && k 3, ptab := c.pe.ptab && k 2, psat := c.pe.psat && k 1 } }
  | 0xC0 => { c with xe := { c.xe with flags := c.w1c off c.xe.flags v } }
  | _ => c

end Sys2Proof.Machine
end

