-- ==== Sys2Proof/Machine/Operands.lean ====
section
/-! DEFINITION. Operand forms: immediates with their extensions (04 R105), and the resources that syllables read and write,
with the latency of each result (04 R125, 05 R134). -/
namespace Sys2Proof.Machine

/-- The payloads of EXT syllables as one number: ext[1] lowest (R105). -/
def extVal : List (BitVec 25) → Nat
  | [] => 0
  | e :: t => e.toNat + 2 ^ 25 * extVal t

/-- The width of an extended immediate. -/
def immWidth {n : Nat} (i : Imm n) : Nat := n + 25 * i.ext.length

/-- The bits of an extended immediate before narrowing (R105). -/
def immRaw {n : Nat} (i : Imm n) : Nat := i.base.toNat + 2 ^ n * extVal i.ext

/-- An unsigned immediate: its low 64 bits. -/
def immU {n : Nat} (i : Imm n) : Word64 := .ofNat 64 (immRaw i)

/-- A signed immediate: sign-extended from its width, then its low 64 bits. -/
def immS {n : Nat} (i : Imm n) : Word64 := .ofNat 64 (ofInt 64 (toSigned (immWidth i) (immRaw i)))

/-- A signed field as an integer. -/
def sx {n : Nat} (x : BitVec n) : Int := x.toInt

/-! Resources (R125): a number for each, with what a syllable reads and what it writes and when the result can be read. -/

/-- Numbers of the resources: registers of the stream, k, predicates, loop registers, SEEDK, M configuration, control
registers, semaphores (never exempt between syllables). -/
def resK (n : Nat) : Nat := 128 + n
def resP (n : Nat) : Nat := 192 + n
def resLoop (n : Nat) : Nat := 208 + n
def resSeed : Nat := 220
def resCfg (n : Nat) : Nat := 256 + n
def resPcfg (n : Nat) : Nat := 320 + n
def resXcfg (n : Nat) : Nat := 352 + n
def resSh (n : Nat) : Nat := 384 + n

/-- Offsets of block 0 that hold one 64-bit register (R32, R219, R248, R270, R383). -/
def wide0 (o : Nat) : Bool :=
  [0x00, 0x08, 0x10, 0x18, 0x30, 0x48, 0x50, 0x58, 0x88, 0x98, 0xA8, 0xB8].contains o
  || (decide (0x100 ≤ o) && decide (o < 0x200))
  || (decide (0x200 ≤ o) && decide (o < 0x288) && o != 0x208 && o != 0x228)

/-- Words of block 0 that hold a 32-bit register. -/
def narrow0 (w : Nat) : Bool :=
  [0x20, 0x28, 0x38, 0x3C, 0x40, 0x80, 0x84, 0x90, 0x94, 0xA0, 0xA4, 0xB0, 0xB4, 0xC0, 0xD0, 0xD4, 0xD8, 0xDC, 0x208,
   0x228].contains (4 * w)

/-- Offsets of block 1 that hold one 64-bit register (R355, R363, R368, R380, R388, R391, R395, R400, R421, R422, R431, R439,
R454). -/
def wide1 (o : Nat) : Bool :=
  if 0x10000 ≤ o then decide (o < 0x14000) && [0x00, 0x18, 0x28].contains (o % 0x40)
  else if 0x1000 ≤ o then decide (o < 0x1200)
  else if 0xC00 ≤ o then o % 0x40 == 8
  else if 0xB00 ≤ o then o == 0xB10
  else if 0xA00 ≤ o then false
  else if 0x800 ≤ o then decide (o < 0x920) && o % 0x10 == 8
  else if 0x700 ≤ o then [0x708, 0x720, 0x728].contains o
  else if 0x600 ≤ o then [0x600, 0x608, 0x610, 0x628].contains o
  else if 0x500 ≤ o then decide (o < 0x580) && (o % 0x20 == 8 || o % 0x20 == 0x10)
  else [0x300, 0x320, 0x338, 0x340, 0x348, 0x350].contains o

/-- Words of block 1 that hold a 32-bit register. -/
def narrow1 (w : Nat) : Bool :=
  let o := 4 * w
  if 0x10000 ≤ o then decide (o < 0x14000) && [0x08, 0x0C, 0x10, 0x14, 0x20, 0x24, 0x30].contains (o % 0x40)
  else if 0x1000 ≤ o then false
  else if 0xC00 ≤ o then o % 0x40 == 0 || o % 0x40 == 0x10
  else if 0xB00 ≤ o then [0xB00, 0xB04, 0xB08].contains o
  else if 0xA00 ≤ o then decide (o < 0xA90) && (o % 0x10 == 0 || o % 0x10 == 4)
  else if 0x800 ≤ o then decide (o < 0x920) && o % 0x10 == 0
  else if 0x700 ≤ o then [0x700, 0x710, 0x718, 0x730].contains o
  else if 0x600 ≤ o then [0x618, 0x61C, 0x620, 0x624].contains o
  else if 0x500 ≤ o then decide (o < 0x580) && (o % 0x20 == 0 || o % 0x20 == 0x18)
  else [0x100, 0x104, 0x108, 0x10C, 0x110, 0x118, 0x11C, 0x200, 0x308, 0x330].contains o

/-- The control register that holds word w of block b, counted whole by R125; an absent word is no resource. -/
def resCtl (b w : Nat) : List Nat :=
  if (if b = 0 then wide0 (w / 2 * 8) else wide1 (w / 2 * 8)) then [1024 + 32768 * b + w / 2 * 2]
  else if (if b = 0 then narrow0 w else narrow1 w) then [1024 + 32768 * b + w] else []

/-- A resource is there on die d: the port and boot blocks stand on the dies with a host port, the clock block on D0 (R421, R431, R445,
R454); elsewhere their words are absent (R156). -/
def resOn (d r : Nat) : Bool :=
  if r < 1024 + 32768 then true
  else
    let o := 4 * (r - 1024 - 32768)
    if 0x600 ≤ o ∧ o < 0x800 then d == 0 || d == 32
    else if 0xB00 ≤ o ∧ o < 0xC00 then d == 0 else true

/-- What a syllable reads, what it writes with its latency, and the semaphores it names. -/
structure Uses where
  reads  : List Nat := []
  writes : List (Nat × Nat) := []
  sems   : List Nat := []
deriving DecidableEq, Repr

/-- The resources that are there on die d. -/
def Uses.on (d : Nat) (u : Uses) : Uses :=
  { u with reads := u.reads.filter (resOn d), writes := u.writes.filter fun w => resOn d w.1 }

/-- An index operand in a stream; s0 counts for nothing. -/
def resReg (st : Str) (r : BitVec 6) : List Nat :=
  match st with
  | .c => if r.toNat = 0 then [] else [r.toNat]
  | _ => if r.toNat < 32 then [64 + r.toNat] else [resK (r.toNat - 32)]

/-- A guard's predicate; p0 counts for nothing. -/
def resGuard (g : BitVec 5) : List Nat := if g.toNat % 16 = 0 then [] else [resP (g.toNat % 16)]

/-- A predicate operand. -/
def resPred (p : BitVec 4) : List Nat := if p.toNat = 0 then [] else [resP p.toNat]

def lat (n : Nat) (l : List Nat) : List (Nat × Nat) := l.map fun r => (r, n)

/-- A guarded three-register operation of latency n. -/
def usesRRR (n : Nat) (rd ra rb : BitVec 6) (g : BitVec 5) : Uses :=
  { reads := resReg .c ra ++ resReg .c rb ++ resGuard g, writes := lat n (resReg .c rd) }

/-- A guarded register and immediate operation. -/
def usesRRI (n : Nat) (rd ra : BitVec 6) (g : BitVec 5) : Uses :=
  { reads := resReg .c ra ++ resGuard g, writes := lat n (resReg .c rd) }

/-- Predicate logic. -/
def usesPPP (rd ra rb : BitVec 4) (g : BitVec 5) : Uses :=
  { reads := resPred ra ++ resPred rb ++ resGuard g, writes := lat 1 (resPred rd) }

/-- A store. -/
def usesSt (rs ra : BitVec 6) (g : BitVec 5) : Uses := { reads := resReg .c rs ++ resReg .c ra ++ resGuard g }

/-- A scratchpad atomic: only CAS reads rd (R155). -/
def usesAmo (rd ra rb : BitVec 6) (cas : Bool := false) : Uses :=
  { reads := resReg .c ra ++ resReg .c rb ++ (if cas then resReg .c rd else []), writes := lat 6 (resReg .c rd) }

/-- The common control set in stream st, and the syllables of C (R106, R134, R148 to R161). The predicate of TESTX, s63 of JAL and
JALR and the loop registers, which the latency table does not list, can be read from the next cycle (DESIGN CHOICE, log 83). -/
def usesC (st : Str) : Instr → Uses
  | .bxi _ x _ _ => { reads := resReg st x }
  | .bxx _ x y _ => { reads := resReg st x ++ resReg st y }
  | .loopReg l r _ =>
    { reads := resReg st r, writes := lat 1 [resLoop (3 * l.toNat), resLoop (3 * l.toNat + 1), resLoop (3 * l.toNat + 2)] }
  | .loopImm l _ _ =>
    { writes := lat 1 [resLoop (3 * l.toNat), resLoop (3 * l.toNat + 1), resLoop (3 * l.toNat + 2)] }
  | .gate c n _ => if c.toNat = 0 then { sems := [n.toNat] } else {}
  | .semp m _ | .semw m _ => { sems := [m.toNat] }
  | .imov rd _ => { writes := lat 1 (resReg st rd) }
  | .iadd rd ra _ => { reads := resReg st ra, writes := lat 1 (resReg st rd) }
  | .add rd ra rb g | .sub rd ra rb g | .min rd ra rb g | .max rd ra rb g | .and rd ra rb g | .or rd ra rb g
  | .xor rd ra rb g | .andn rd ra rb g | .shl rd ra rb g | .shr rd ra rb g | .sra rd ra rb g | .minu rd ra rb g
  | .maxu rd ra rb g => usesRRR 1 rd ra rb g
  | .mulh rd ra rb g | .mul rd ra rb g | .mulhu rd ra rb g => usesRRR 3 rd ra rb g
  | .andi rd ra _ g | .ori rd ra _ g | .xori rd ra _ g | .mini rd ra _ g | .maxi rd ra _ g | .minui rd ra _ g
  | .maxui rd ra _ g | .subfi rd ra _ g => usesRRI 1 rd ra g
  | .shli rd ra _ g | .shri rd ra _ g | .srai rd ra _ g => usesRRI 1 rd ra g
  | .muli rd ra _ g => usesRRI 3 rd ra g
  | .cmp pd ra rb _ g => { reads := resReg .c ra ++ resReg .c rb ++ resGuard g, writes := lat 1 (resPred pd) }
  | .cmpi pd ra _ _ g => { reads := resReg .c ra ++ resGuard g, writes := lat 1 (resPred pd) }
  | .pand rd ra rb g | .por rd ra rb g | .pxor rd ra rb g | .pandn rd ra rb g => usesPPP rd ra rb g
  | .pnot rd ra g => usesPPP rd ra 0 g
  | .pget rd g => { reads := (List.range 15).map (fun j => resP (j + 1)) ++ resGuard g, writes := lat 1 (resReg .c rd) }
  | .pput ra g => { reads := resReg .c ra ++ resGuard g, writes := lat 1 ((List.range 15).map fun j => resP (j + 1)) }
  | .btree t => { reads := t.flatMap fun x => resPred x.p }
  | .brc _ g => { reads := resGuard g }
  | .jal _ g => { reads := resGuard g, writes := [(63, 1)] }
  | .jalr ra _ g => { reads := resReg .c ra ++ resGuard g, writes := [(63, 1)] }
  | .ldb rd ra _ g | .ldbu rd ra _ g | .ldh rd ra _ g | .ldhu rd ra _ g | .ldw rd ra _ g | .ldwu rd ra _ g
  | .ldd rd ra _ g => usesRRI 4 rd ra g
  | .stb rs ra _ g | .sth rs ra _ g | .stw rs ra _ g | .std rs ra _ g => usesSt rs ra g
  | .amoadd rd ra rb _ | .amoand rd ra rb _ | .amoor rd ra rb _ | .amoxor rd ra rb _ | .amomin rd ra rb _
  | .amomax rd ra rb _ | .amominu rd ra rb _ | .amomaxu rd ra rb _ | .amoswap rd ra rb _ => usesAmo rd ra rb
  | .amocas rd ra rb _ => usesAmo rd ra rb true
  | .crr r k w => { reads := resCtl k.toNat w.toNat, writes := lat 8 (resReg .c r) }
  | .crrd r k w => { reads := resCtl k.toNat w.toNat ++ resCtl k.toNat (w.toNat + 1), writes := lat 8 (resReg .c r) }
  | .crw r k w => { reads := resReg .c r, writes := lat 1 (resCtl k.toNat w.toNat) }
  | .krd r k => { reads := [resK k.toNat], writes := lat 1 (resReg .c r) }
  | .kwr r k => { reads := resReg .c r, writes := lat 0 [resK k.toNat] }
  | .seedr r _ => { reads := [resSeed], writes := lat 1 (resReg .c r) }
  | .seedw r _ => { reads := resReg .c r, writes := lat 0 [resSeed] }
  | .lrd r l => { reads := [resLoop l.toNat], writes := lat 1 (resReg .c r) }
  | .lwr r l => { reads := resReg .c r, writes := lat 1 [resLoop l.toNat] }
  | .waitx _ r => { reads := resReg .c r }
  | .testx _ r pd => { reads := resReg .c r, writes := lat 1 (resPred pd) }
  | .iswap => { writes := lat 0 (resCtl 0 8) }
  | _ => {}

/-- What a syllable of the X stream reads and writes (R125, R277, R278, R288, R289). A command reads every word of its
shapes, and the XCFG registers that its form names. -/
def usesX : Instr → Uses
  | .copy _ rd rs v d _ | .xpose _ rd rs v d _ => { reads := shape rd ++ shape rs, writes := did v d }
  | .cvt _ rd rs _ _ v d _ => { reads := shape rd ++ shape rs ++ (List.range 6).map resXcfg, writes := did v d }
  | .cmpr _ k h x v d _ | .expd _ k h x v d _ =>
    { reads := shape h ++ resReg .x x ++ [resXcfg (6 + k.toNat)], writes := did v d }
  | .decode _ rd rs _ v d _ => { reads := shape rd ++ shape rs, writes := did v d }
  | .send _ rs x v d _ => { reads := shape rs ++ resReg .x x, writes := did v d }
  | .ldhcw _ rs x v d _ | .ldpln _ rs x v d _ | .ldpair _ rs x v d _ =>
    { reads := shape rs ++ resReg .x x, writes := did v d }
  | .recv _ x _ => { reads := resReg .x x }
  | .ramoAdd _ _ a v r n _ | .ramoAnd _ _ a v r n _ | .ramoOr _ _ a v r n _ | .ramoXor _ _ a v r n _
  | .ramoMin _ _ a v r n _ | .ramoMax _ _ a v r n _ | .ramoMinu _ _ a v r n _ | .ramoMaxu _ _ a v r n _
  | .ramoSwap _ _ a v r n _ => { reads := ramo a v r n }
  | .ramoCas _ _ a v r n _ => { reads := ramo a v r n ++ [64 + (v.toNat + 1) % 8] }
  | .xwait _ x => { reads := resReg .x x }
  | .xnext _ rd => { writes := lat 1 (resReg .x rd) }
  | .shw k w x => { reads := resReg .x x, writes := lat 0 [resSh (4 * k.toNat + w.toNat)] }
  | .xcfg r x => { reads := resReg .x x, writes := lat 0 [resXcfg r.toNat] }
  | i => usesC .x i
where
  shape (k : BitVec 4) : List Nat := (List.range 4).map fun w => resSh (4 * k.toNat + w)
  did (v : BitVec 1) (d : BitVec 3) : List (Nat × Nat) := if v = 1 then [(64 + d.toNat, 1)] else []
  ramo (a v r : BitVec 3) (n : BitVec 1) : List Nat :=
    [64 + a.toNat, 64 + v.toNat] ++ if n = 1 then [] else [64 + r.toNat]

/-! The scratchpad address of a C access (R154). -/

/-- ea := (ra + SignExtend(off) · size) mod 2^64. -/
def State.ea (s : State) (ra : BitVec 6) (off : Imm 5) (size : Nat) : Nat :=
  ofInt 64 (((s.sreg ra.toNat).toNat : Int) + (immS off).toInt * (size : Int))

end Sys2Proof.Machine
end

