-- ==== Sys2Proof/Machine/Regs.lean ====
section
/-! DEFINITION. The control registers as they read: the cluster control block (01 R32, 05 R157, 06 R168, 08 R219, 09 R248,
10 R270, 19 R383) and the die control block (01 R14, 18 R355, R363, R366, R368, R371, 19 R375, R380, R388, R391, R395,
20 R400, R421, R422, 22 R431, 23 R439, R445, R447, 24 R454). A block is read as 64-bit words at multiples of 8. -/
namespace Sys2Proof.Machine

/-- PSTAT (R219). -/
def pstatOf (c : Cluster) : Nat :=
  c.me.odone % 256 * 2 ^ 16 + b2n c.me.stopped * 2 ^ 15 + b2n c.me.pass.isSome * 2 ^ 14 + c.me.nset % 512

/-- Barrier states in two bits (R270). -/
def XbState.bits : XbState → Nat
  | .idle => 0 | .armed => 1 | .zero => 2 | .error => 3

def Cluster.xb (c : Cluster) (n : Nat) : Barrier := c.xe.xb.get {} n
def Cluster.setXb (c : Cluster) (n : Nat) (b : Barrier) : Cluster := { c with xe := { c.xe with xb := c.xe.xb.set {} n b } }

/-- XBSn (R270). -/
def xbsOf (b : Barrier) : Nat := b.state.bits * 2 ^ 62 + b.rem.toNat

/-- The 64-bit word of a cluster control block at offset o, a multiple of 8. -/
def clusterWord (c : Cluster) (o : Nat) : Nat :=
  if o < 0x80 then
    match o with
    | 0x00 => c.taskcyc.toNat
    | 0x08 => c.frzcyc.toNat
    | 0x10 => c.ovrcyc.toNat
    | 0x18 => c.slicecnt.toNat
    | 0x20 => b2n c.swapped
    | 0x28 => c.ve.rpos.toNat * 2 ^ 8 + c.ve.flags.toNat
    | 0x30 => (mstepOf c).toNat
    | 0x38 => b2n c.me.satte * 2 ^ 8 + c.me.flags.toNat + pstatOf c * 2 ^ 32
    | 0x40 => b2n c.pe.lfull * 8 + b2n c.pe.ptab * 4 + b2n c.pe.psat * 2 + b2n c.pe.job.isSome
    | 0x48 => c.pe.tests.toNat
    | 0x50 => c.pe.pairs.toNat
    | 0x58 => (pecurOf c).toNat
    | _ => 0
  else if o < 0xC0 then
    let n := (o - 0x80) / 16
    if o % 16 = 0 then (c.chan n).wmark.toNat + (c.chan n).nextId.toNat * 2 ^ 32 else (cposOf c n).toNat
  else if o = 0xC0 then c.xe.flags.toNat
  else if o = 0xD0 ∨ o = 0xD8 then
    let k := (o - 0xD0) / 4
    (c.xe.cfill.get 0 k).toNat % 2 ^ 21 + (c.xe.cfill.get 0 (k + 1)).toNat % 2 ^ 21 * 2 ^ 32
  else if 0x100 ≤ o ∧ o < 0x200 then xbsOf (c.xb ((o - 0x100) / 8))
  else if 0x200 ≤ o ∧ o < 0x300 then c.flt.word (o - 0x200)
  else 0

/-- Fields of a remap entry (R14). -/
def entValid (e : Byte) : Bool := bit e.toNat 7
def entHosted (e : Byte) : Bool := bit e.toNat 6
def entSlot (e : Byte) : Nat := field e.toNat 5 5
def entPhys (e : Byte) : Nat := e.toNat % 32

/-- Logical clusters that a table places on physical cluster p. -/
def hostedOn (m : SMap Byte) (p : Nat) : List Nat :=
  (List.range 16).filter fun n => entValid (m.get 0 n) && entPhys (m.get 0 n) == p

/-- The peer of link j of die d (R399). -/
def linkPeer (d j : Nat) : Nat :=
  match j with
  | 0 => (d + 1) % 64
  | 1 => (d + 63) % 64
  | 2 => (d + 8) % 64
  | _ => (d + 56) % 64

def Die.link (d : Die) (j : Nat) : Link := d.links.get {} j
def Die.setLink (d : Die) (j : Nat) (l : Link) : Die := { d with links := d.links.set {} j l }
def Die.queue (d : Die) (q : Nat) : Queue := d.queues.get {} q
def Die.setQueue (d : Die) (q : Nat) (x : Queue) : Die := { d with queues := d.queues.set {} q x }
def Die.physSt (d : Die) (k : Nat) : PhysSt := d.phys.get {} k
def Die.setPhys (d : Die) (k : Nat) (x : PhysSt) : Die := { d with phys := d.phys.set {} k x }
def Die.dom (d : Die) (j : Nat) : Domain := d.doms.get {} j
def Die.setDom (d : Die) (j : Nat) (x : Domain) : Die := { d with doms := d.doms.set {} j x }
def Die.preempt (d : Die) (n : Nat) : Preempt := d.pre.get {} n
def Die.setPreempt (d : Die) (n : Nat) (x : Preempt) : Die := { d with pre := d.pre.set {} n x }

/-- Link registers (R400). -/
def linkWord (d j : Nat) (l : Link) (o : Nat) : Nat :=
  match o with
  | 0x00 => l.state.toNat * 2 ^ 30 + linkPeer d j * 2 ^ 8 + l.width.toNat
  | 0x08 => l.crc.toNat
  | 0x10 => l.retry.toNat
  | _ => l.retrain.toNat

/-- Port block (R421). -/
def portWord (p : HostPort) (prim : Bool) (o : Nat) : Nat :=
  match o with
  | 0x00 => p.pwbase.toNat * 2 ^ 36
  | 0x08 => p.tkalign.toNat
  | 0x10 => p.evbase.toNat * 2 ^ 12
  | 0x18 => b2n p.even * 2 ^ 31 + p.evlog2n.toNat + p.evtail.toNat * 2 ^ 32
  | 0x20 => p.evhead.toNat + b2n prim * 2 ^ 32
  | 0x28 => p.topo.toNat
  | _ => 0

/-- Boot block (R431). -/
def bootWord (b : Boot) (o : Nat) : Nat :=
  match o with
  | 0x00 => b.bstate.toNat * 2 ^ 28 + b.berr.toNat * 2 ^ 16
  | 0x08 => b.imgaddr.toNat
  | 0x10 => b.imglen.toNat
  | 0x20 => b.attnonce.toNat
  | 0x28 => b.attout.toNat
  | 0x30 => b2n b.atterr * 2 + b2n b.attdone
  | _ => 0

/-- Queue block (R355, R375, R422). -/
def queueWord (q : Queue) (o : Nat) : Nat :=
  match o with
  | 0x00 => q.qbase.toNat
  | 0x08 => b2n q.en * 2 ^ 31 + b2n q.ien * 2 ^ 30 + q.wgt.toNat * 2 ^ 6 + q.pri.toNat * 2 ^ 4 + q.log2n.toNat
      + q.qtail.toNat * 2 ^ 32
  | 0x10 => q.qhead.toNat + (b2n q.werr * 4 + b2n q.terr * 2 + b2n q.eerr) * 2 ^ 32
  | 0x18 => q.qcbase.toNat
  | 0x20 => q.qctail.toNat + q.qchead.toNat * 2 ^ 32
  | 0x28 => q.qxroot.toNat * 2 ^ 12
  | 0x30 => q.qivec.toNat
  | _ => 0

/-- Power control of a physical cluster (R439) and of a domain (R447). -/
def physWord (p : PhysSt) (bal : Bool) (o : Nat) : Nat :=
  if o = 0 then p.imeas.toNat * 2 ^ 16 + p.temp.toNat * 2 ^ 8 + b2n bal * 4 + p.thr.toNat else p.thrcyc.toNat

def domWord (d : Domain) : Nat :=
  d.snapcnt.toNat * 2 ^ 16 + d.voff.toNat
    + (b2n d.snap * 2 ^ 31 + b2n d.bsat * 2 ^ 30 + d.vup.toNat * 2 ^ 16 + d.vlow.toNat) * 2 ^ 32

/-- A freeze for a cause other than throttling. -/
def Freeze.other (f : Freeze) : Bool := f.overrun || f.held || f.memErr || f.snap || f.out || f.fault || f.save

/-- Physical cluster p of die d runs a task: some cluster that it hosts does. -/
def State.physRuns (s : State) (d p : Nat) : Bool :=
  (hostedOn (s.die d).clmap p).any fun n => let c := s.cluster (clKey d n); c.task.isSome && !c.frz.other

/-- BALST (R440): an idle cluster whose series partner runs. DEDUCED (log 63). -/
def State.ballast (s : State) (d p : Nat) : Bool := !s.physRuns d p && s.physRuns d (Nat.xor p 1)

/-- Mailbox of the core clock and GOVADDR, in D0 only (R445, R454). -/
def State.clockWord (s : State) (o : Nat) : Nat :=
  match o with
  | 0x00 => s.freq.vnom.toNat * 2 ^ 16 + s.freq.fmhz.toNat
      + (b2n s.freq.ramp * 2 ^ 31 + b2n s.freq.pend * 2 ^ 30 + s.freq.vcur.toNat * 2 ^ 16 + s.freq.fcur.toNat) * 2 ^ 32
  | 0x08 => s.freq.fchg.toNat
  | 0x10 => s.gaddr.toNat * 2 ^ 12 + b2n s.goven
  | _ => 0

/-- Pre-emption block of a logical cluster (R368). -/
def preemptWord (p : Preempt) (o : Nat) : Nat :=
  match o with
  | 0x00 => b2n p.busy * 2 ^ 7 + b2n p.port * 2 ^ 6 + p.out.toNat * 2 ^ 4 + b2n p.rst * 2 + b2n p.req
  | 0x08 => p.addr.toNat
  | _ => 0

/-- A job slot of a lead die (R363). -/
def State.slotWord (s : State) (d n : Nat) : Nat :=
  match s.jobs.find? fun j => j.lead == d && j.slot == n with
  | none => 0
  | some j => 2 ^ 63 + b2n j.locked * 2 ^ 62 + j.queue % 256 * 2 ^ 48 + j.index.toNat * 2 ^ 32 + j.tag.toNat

/-- CLMAP entries of four logical clusters (R14). -/
def clmapWord (d : Die) (k : Nat) : Nat :=
  ofBytes ((List.range 8).map fun i => d.clmap.get 0 (4 * k + i))

/-- The 64-bit word of die d's control block at offset o, a multiple of 8. A write-only register or field reads as 0 (DESIGN CHOICE,
log 96). -/
def State.dieWord (s : State) (d o : Nat) : Nat :=
  let x := s.die d
  if 0x10000 ≤ o then (if o < 0x14000 then queueWord (x.queue ((o - 0x10000) / 0x40)) (o % 0x40) else 0)
  else if 0x1000 ≤ o then (if o < 0x1200 then s.slotWord d ((o - 0x1000) / 8) else 0)
  else if 0xC00 ≤ o then preemptWord (x.preempt ((o - 0xC00) / 0x40)) (o % 0x40)
  else if 0xB00 ≤ o then (if d = 0 then s.clockWord (o - 0xB00) else 0)
  else if 0xA00 ≤ o then (if o < 0xA90 ∧ o % 0x10 = 0 then domWord (x.dom ((o - 0xA00) / 0x10)) else 0)
  else if 0x800 ≤ o then (if o < 0x920 then physWord (x.physSt ((o - 0x800) / 0x10)) (s.ballast d ((o - 0x800) / 0x10)) (o % 0x10) else 0)
  else if 0x700 ≤ o then (if d = 0 ∨ d = 32 then bootWord s.boot (o - 0x700) else 0)
  else if 0x600 ≤ o then
    (if d = 0 then portWord s.port0 s.port0.trained (o - 0x600)
     else if d = 32 then portWord s.port1 (!s.port0.trained && s.port1.trained) (o - 0x600) else 0)
  else if 0x500 ≤ o then
    (if o < 0x580 then linkWord d ((o - 0x500) / 0x20) (x.link ((o - 0x500) / 0x20)) (o % 0x20) else 0)
  else
    match o with
    | 0x100 => clmapWord x 0
    | 0x108 => clmapWord x 2
    | 0x110 => x.defmask.toNat
    | 0x200 => x.jout.toNat * 2 ^ 10 + b2n x.jres * 2 ^ 9 + b2n x.jreq * 2 ^ 8 + x.jslot.toNat
    | 0x300 => x.invva.toNat * 2 ^ 16
    | 0x308 => b2n x.invbusy * 2 ^ 31 + b2n x.invall * 2 ^ 30 + x.invq.toNat * 2 ^ 16 + x.invkind.toNat * 2
    | 0x320 => x.ckbase.toNat
    | 0x330 => x.commit.length
    | 0x338 => x.replays.toNat
    | 0x340 => x.cecnt.toNat
    | 0x348 => x.uecnt.toNat
    | 0x350 => x.evlost.toNat
    | _ => 0

/-- A 32-bit register of block 0 (the cluster in focus) or block 1 (its die), at byte offset o (R156). -/
def State.creg32 (s : State) (blk o : Nat) : Nat :=
  let a := o / 8 * 8
  let w := if blk = 0 then clusterWord s.cl a else s.dieWord s.curDie a
  if o % 8 = 0 then w % 2 ^ 32 else w / 2 ^ 32 % 2 ^ 32

/-- A 64-bit register of a block at byte offset o, a multiple of 8. -/
def State.creg64 (s : State) (blk o : Nat) : Nat :=
  if blk = 0 then clusterWord s.cl o else s.dieWord s.curDie o

end Sys2Proof.Machine
end

