-- ==== Sys2Proof/Machine/Route.lean ====
section
/-! DEFINITION. Routes over the Girth (20 R399, R401, R410): shortest paths over the links in state up. Routes are computed at boot
and when a link goes down: one that trains again keeps its routes, and one that trains late has none. -/
namespace Sys2Proof.Machine

/-- The link of the peer that joins the same two dies. -/
def peerLink (j : Nat) : Nat :=
  match j with
  | 0 => 1 | 1 => 0 | 2 => 3 | _ => 2

/-- Link j of die d is one that routes take. -/
def Link.routed (l : Link) : Bool := (l.state == 2 || (l.state == 1 && l.width != 0)) && !l.spare
def State.linkUp (s : State) (d j : Nat) : Bool := ((s.die d).link j).routed

/-- Distances to one die, by die number; 64 or more where no path is known. -/
abbrev Dist := List Nat

def Dist.at (l : Dist) (d : Nat) : Nat := l.getD d 64

/-- One round of relaxation over the links of every die. -/
def State.relax (s : State) (l : Dist) : Dist :=
  (List.range 64).map fun d =>
    (List.range 4).foldl (fun m j => if s.linkUp d j then Nat.min m (l.at (linkPeer d j) + 1) else m) (l.at d)

/-- Rounds until nothing changes, at most n. -/
def State.relaxN (s : State) : Nat → Dist → Dist
  | 0, l => l
  | n + 1, l => let l' := s.relax l; if l' = l then l else State.relaxN s n l'

/-- Distance of every die to `dst`. -/
def State.dists (s : State) (dst : Nat) : Dist :=
  s.relaxN 64 ((List.range 64).map fun d => if d = dst then 0 else 64)

/-- Hops of the route from die a to die b; `none` where there is no route. -/
def State.hops (s : State) (a b : Nat) : Option Nat :=
  if a = b then some 0 else
  let h := (s.dists b).at a
  if h < 64 then some h else none

/-- The link on which die d sends a message for `dst`: the first of 2, 3, 0, 1 on a shortest path (R401). -/
def State.nextHop (s : State) (d dst : Nat) : Option Nat :=
  let l := s.dists dst
  if l.at d ≥ 64 then none
  else [2, 3, 0, 1].find? fun j => s.linkUp d j && l.at (linkPeer d j) + 1 == l.at d

end Sys2Proof.Machine
end

