-- ==== Sys2Proof/Machine/Net.lean ====
section
/-! DEFINITION. Messages between dies and the requests a die holds (20 R404 to R407), and causes raised on a cluster that is
not in focus. -/
namespace Sys2Proof.Machine

/-- Message types (R405). -/
def mWrite : BitVec 8 := 0x01
def mReadReq : BitVec 8 := 0x02
def mReadData : BitVec 8 := 0x03
def mAtomic : BitVec 8 := 0x04
def mAtomicRsp : BitVec 8 := 0x05
def mSend : BitVec 8 := 0x06
def mAck : BitVec 8 := 0x07
def mNack : BitVec 8 := 0x08
def mTick : BitVec 8 := 0x09
def mDone : BitVec 8 := 0x0A

/-- A message that die d originates or forwards: to its own die at once, else to the output of the first link of its route
(R401). With no route it is lost. -/
def State.sendFrom (s : State) (d : Nat) (m : Msg) : State :=
  if m.ddie.toNat = d then { s with net := s.net ++ [m] }
  else match s.nextHop d m.ddie.toNat with
  | none => s
  | some j => s.updDie d fun x => x.setLink j { x.link j with out := (x.link j).out ++ [m] }

/-- A request of cluster cl of die d, numbered and kept until its answer returns (R407); the state and the request's SEQ. -/
def State.request (s : State) (d cl ch : Nat) (id : Word32) (piece : Nat) (m : Msg) (held : Option (Nat × Nat) := none) :
    State × Nat :=
  let q := (s.die d).nextSeq
  let m := { m with sdie := .ofNat 6 d, scl := .ofNat 4 cl, ch := .ofNat 2 ch, seq := q }
  let r : Req := { seq := q, msg := m, cl := cl, ch := ch, id := id, piece := piece, held := held }
  ((s.updDie d fun x => { x with nextSeq := q + 1, reqs := x.reqs ++ [r] }).sendFrom d m, q.toNat)

/-- Requests that take a place among the 64 of one destination die. -/
def counted (t : BitVec 8) : Bool := t == mAtomic || t == mSend

/-- A 65th ATOMIC or SEND to one die waits (R407). -/
def State.reqFree (s : State) (d dst : Nat) : Bool :=
  decide (((s.die d).reqs.filter fun r => counted r.msg.typ && r.msg.ddie.toNat == dst).length < 64)

/-- A cause raised on cluster k, which need not be in focus. -/
def State.faultAt (s : State) (k : Nat) (t : Trap) : State :=
  ((s.focus k).takeFault t).focus s.cur

/-- Transfer (ch, id) of cluster k changed. -/
def State.updXfer (s : State) (k ch : Nat) (id : Word32) (f : Transfer → Transfer) : State :=
  s.updCluster k fun c =>
    let q := c.chan ch
    c.setChan ch { q with q := q.q.map fun t => if t.id = id then f t else t }

/-- The transfer that a request belongs to. -/
def State.xferOf (s : State) (k ch : Nat) (id : Word32) : Option Transfer := ((s.cluster k).chan ch).q.find? (·.id == id)

/-- A cause that a transfer meets after its issue (R290). -/
def Transfer.trap (t : Transfer) (ch : Nat) (c : Cause) (detail faddr : Nat := 0) : Trap :=
  { str := .x, cause := c.code, detail := detail, pos := t.pos, faddr := faddr, baddr := t.baddr, xfer := some (ch, t.id) }

/-- The memory-error freeze of a piece or of a remote atomic (R387). -/
def Transfer.memTrap (t : Transfer) (ch gr : Nat) (detail : Nat := 2) : Trap :=
  { t.trap ch .memUncorr detail (gr * 8) with memErr := true }

end Sys2Proof.Machine
end

