-- ==== Sys2Proof/Machine/Sync.lean ====
section
/-! DEFINITION. Synchronisation shared by the four streams: semaphores (05 R142, R143), gates (05 R144), completion of
transfers (05 R159, 10 R268), fences (11 R309), and branches (04 R107, 05 R138). -/
namespace Sys2Proof.Machine

/-! Transfers of control. -/

/-- PC := t when the bundle retires. -/
def State.branch (s : State) (t : BitVec 17) : State := { s with ctx := { s.ctx with next := some t } }

/-- A branch relative to the bundle address A. -/
def State.branchRel (s : State) (off : Int) : State := s.branch (pcRel s.ctx.str s.ctx.addr off)

/-- The address after the bundle: A + n. -/
def State.seqPc (s : State) : BitVec 17 := pcWrap s.ctx.str (s.ctx.addr.toNat + s.ctx.len)

/-- The stream executes its END. -/
def State.ends (s : State) : State := { s with ctx := { s.ctx with fin := true } }

/-! Overrun (R35): the syllable waits, and the cluster freezes until the late work completes. -/

def State.overruns (s : State) : State :=
  let s1 := s.waits
  { s1 with cl := { s1.cl with late := true } }

/-- A late piece of work: in locked mode an overrun, else a wait. -/
def State.waitsLate (s : State) (late : Bool) : State := if s.cl.locked && late then s.overruns else s.waits

/-! Semaphores (R142, R143). A wait sees the counter at the start of the cycle, less what was granted in the cycle. -/

def State.semVal (s : State) (n : Nat) : Nat := (s.cl.sem.get 0 n).toNat

def State.setSem (s : State) (n v : Nat) : State := { s with cl := { s.cl with sem := s.cl.sem.set 0 n (.ofNat 8 v) } }

/-- SEMW: waits until the counter reaches `cnt`, then takes it. -/
def semAcquire (n cnt : Nat) (s : State) : Out :=
  if cnt ≤ s.semVal n then .next (s.setSem n (s.semVal n - cnt)) else .next s.waits

/-- Units of releases already made in the cycle. -/
def relSum (n : Nat) : List SemRel → Nat
  | [] => 0
  | r :: t => (if r.sem = n then r.n else 0) + relSum n t

/-- SEMP: a release, added at the end of the cycle; past 255 it raises SEM_OVERFLOW. `later` counts the units that streams
after this one are granted in the cycle. -/
def semRelease (n cnt : Nat) (s : State) : Out :=
  if s.semVal n + relSum n s.cl.semP + cnt - s.ctx.later.get 0 n > 255 then raise .semOverflow s
  else .next { s with cl := { s.cl with semP := s.cl.semP ++ [{ str := s.ctx.str, sem := n, n := cnt }] } }

/-! Transfers (R159, R268). -/

/-- (W − id) mod 2^32 < 2^31: id is at or below W in the order of R159. -/
def idLe (id w : Word32) : Bool := (w - id).toNat < 2 ^ 31

/-- The transfer of channel ch named by id is done. -/
def State.xDone (s : State) (ch : Nat) (id : Word32) : Bool := idLe id (s.cl.chan ch).wmark

/-- Incomplete transfers are all past their budget cycles (R35). -/
def allLate (cyc : Nat) (l : List Transfer) : Bool := l.all fun t => match t.due with
  | some d => decide (d ≤ cyc)
  | none => false

/-- Waiting for every transfer of ch up to id that is not done would be over, had it been on time: an identifier not yet
given waits for its issue. -/
def State.xLate (s : State) (ch : Nat) (id : Word32) : Bool :=
  let c := s.cl.chan ch
  !idLe c.nextId id && allLate s.cyc (c.q.filter fun t => !t.done && idLe t.id id)

/-- A wait for transfer id of channel ch (R159, R289). -/
def waitXfer (ch : Nat) (id : Word32) (s : State) : Out :=
  if s.xDone ch id then .next s else .next (s.waitsLate (s.xLate ch id))

/-! Gates (R144, R214, R286). -/

/-- A piece of b bytes counted against a barrier (R286). -/
def Barrier.count (x : Barrier) (b : Nat) : Barrier :=
  match x.state with
  | .armed =>
    if b ≤ x.rem.toNat then { x with rem := x.rem - .ofNat 32 b, state := if b = x.rem.toNat then .zero else .armed }
    else { x with rem := 0, state := .error }
  | _ => { x with state := .error }

/-- Barrier n is seen ZERO (R286). -/
def State.xbZero (s : State) (n : Nat) : Bool :=
  let b := s.cl.xb n
  decide (b.state = .zero) && (!s.cl.locked || decide (b.due.getD 0 ≤ s.cyc))

/-- A gate of class 0 at or after its target cycle. While another syllable holds its bundle the counter is looked at again
in each cycle (DESIGN CHOICE, log 86). -/
def gateSem (n : Nat) (s : State) : Out :=
  if 1 ≤ s.semVal n then .next (s.setSem n (s.semVal n - 1))
  else if s.cl.locked then raise .timingMiss s else .next s.waits

/-- A gate of class 1: every transfer issued on the channel before the gate's issue has completed. -/
def gateChan (n t : Nat) (s : State) : Out :=
  let l := (s.cl.chan n).q.filter fun x => !x.done && decide (x.issue < s.since)
  if l.isEmpty then .next s
  else if !s.cl.locked then .next s.waits
  else if l.any (fun x => decide (t < x.due.getD 0)) then raise .timingMiss s
  else .next s.overruns

/-- A gate of class 2; its barrier is looked at again in each cycle that the bundle is held (DESIGN CHOICE, log 86). -/
def gateXb (n t : Nat) (s : State) : Out :=
  let b := s.cl.xb n
  if b.state = .error then raise .xbOverrun s
  else if s.xbZero n then .next s
  else if !s.cl.locked then .next s.waits
  else if b.state = .idle ∨ t < b.due.getD 0 then raise .timingMiss s
  else .next s.overruns

/-- GATE and VGATE: T = issue cycle + offset, captured when the bundle first issues (R144, R162). -/
def gateOp (cls n off : Nat) (s : State) : Out :=
  let t := s.captured (s.since + off)
  if s.cyc < t then .next (s.waits (some t))
  else match cls with
  | 0 => gateSem n s
  | 1 => gateChan n t s
  | _ => gateXb n t s

/-! Fences (R309). -/

/-- The scope of a drain: with an absmax merge in the die pool it is die scope (R235). -/
def drScope (op : Instr) : Nat :=
  match op with
  | .drn _ _ am pool _ _ _ => if am = 1 ∧ pool = 1 then 1 else 0
  | _ => 0

/-- An M or PE operation issued before cycle c is in flight, of scope sc or narrower. -/
def mpeBusy (c : Cluster) (t sc : Nat) : Bool :=
  (c.me.pass.any fun p => decide (p.issue < t)) || (c.me.nld.any fun p => decide (p.issue < t))
  || (c.me.cblds.any fun p => decide (p.issue < t)) || (c.me.aclrs.any fun p => decide (p.issue < t))
  || (c.me.rstats.any fun p => decide (p.issue < t))
  || (c.me.drs.any fun p => decide (p.issue < t) && decide (drScope p.op ≤ sc))
  || (c.pe.job.any fun p => decide (p.issue < t))

/-- The transfers that a fence of scope sc issued in cycle t covers and that are not complete. -/
def fenceXfers (c : Cluster) (t sc : Nat) : List Transfer :=
  ((List.range 4).flatMap fun n => (c.chan n).q).filter fun x => !x.done && decide (x.issue < t) && decide (x.scope ≤ sc)

/-- What a fence waits for is complete; else the wait. -/
def fenceWait (sc : Nat) (s : State) : Option State :=
  let l := fenceXfers s.cl s.since sc
  if mpeBusy s.cl s.since sc then some s.waits
  else if l.isEmpty then none
  else some (s.waitsLate (allLate s.cyc l))

/-- FENCE.T, FENCE.D and FENCE.M. -/
def fenceOp (sc : Nat) (s : State) : Out :=
  match fenceWait sc s with
  | some s' => .next s'
  | none => .next s

/-- Every transfer that a FENCE.S covers has made its writes: the PCIe read after them may be issued. DEDUCED (log 74). -/
def State.hostWritesMade (s : State) : Bool :=
  (fenceXfers s.cl s.since 3).all fun x => x.fin && x.out.isEmpty

/-- FENCE.S also waits for the PCIe read that follows the host writes; its answer stands until the bundle retires. -/
def fenceSys (s : State) : Out :=
  match fenceWait 3 s with
  | some s' => .next (if s.hostWritesMade && s.cl.pcie == 0 then { s' with cl := { s'.cl with pcie := 1 } } else s')
  | none =>
    if s.cl.pcie = 2 then .next s
    else .next (({ s with cl := { s.cl with pcie := 1 } }).waitsLate true)

end Sys2Proof.Machine
end

