-- ==== Sys2Proof/Machine/Control.lean ====
section
/-! DEFINITION. The common control set and the C stream (05 R132 to R163): one meaning for each syllable. -/
namespace Sys2Proof.Machine

/-! Shared operations. -/

/-- A guarded syllable that writes one register. -/
def aluOp (rd : BitVec 6) (g : BitVec 5) (v : Word64) (s : State) : Out := .next (s.guarded g fun s => s.setS rd.toNat v)

/-- A guarded operation on two registers. -/
def aluRR (f : Word64 → Word64 → Word64) (rd ra rb : BitVec 6) (g : BitVec 5) (s : State) : Out :=
  aluOp rd g (f (s.sreg ra.toNat) (s.sreg rb.toNat)) s

/-- A guarded operation on a register and a value. -/
def aluRI (f : Word64 → Word64 → Word64) (rd ra : BitVec 6) (b : Word64) (g : BitVec 5) (s : State) : Out :=
  aluOp rd g (f (s.sreg ra.toNat) b) s

def opMin (a b : Word64) : Word64 := if a.slt b then a else b
def opMax (a b : Word64) : Word64 := if a.slt b then b else a
def opMinu (a b : Word64) : Word64 := if a.ult b then a else b
def opMaxu (a b : Word64) : Word64 := if a.ult b then b else a

/-- Bits [127:64] of the signed and of the unsigned product. -/
def opMulh (a b : Word64) : Word64 := .ofInt 64 (a.toInt * b.toInt / (2 ^ 64 : Nat))
def opMulhu (a b : Word64) : Word64 := .ofNat 64 (a.toNat * b.toNat / 2 ^ 64)

/-- Shifts by the low six bits of the count. -/
def opShl (a b : Word64) : Word64 := a <<< (b.toNat % 64)
def opShr (a b : Word64) : Word64 := a >>> (b.toNat % 64)
def opSra (a b : Word64) : Word64 := a.sshiftRight (b.toNat % 64)

/-- A guarded syllable that writes one predicate. -/
def predOp (pd : BitVec 4) (g : BitVec 5) (b : Bool) (s : State) : Out := .next (s.guarded g fun s => s.setP pd.toNat b)

/-- The checks of a scratchpad access of `size` bytes at offset ea, and whether it reads bad memory (R154, R163, R387). -/
def spadAccess (ea size : Nat) (write : Bool) (s : State) (f : Out) : Out :=
  if ea % size ≠ 0 then raise .misaligned s 0 ea
  else if ea + size > 2 ^ 21 then raise .spadRange s 0 ea
  else match (if write then s.badWrite (s.spad ea) size else s.badRead (s.spad ea) size) with
  | some gr => raise .memUncorr s 0 (gr * 8)
  | none => f

/-- Sign- or zero-extension of a loaded value. -/
def extendLoad (signed : Bool) (size v : Nat) : Word64 :=
  .ofNat 64 (if signed then ofInt 64 (toSigned (8 * size) v) else v)

/-- A load (R154). -/
def loadOp (signed : Bool) (size : Nat) (rd ra : BitVec 6) (off : Imm 5) (g : BitVec 5) (s : State) : Out :=
  if s.guard g then
    spadAccess (s.ea ra off size) size false s
      (.next (s.setS rd.toNat (extendLoad signed size (s.rdLE (s.spad (s.ea ra off size)) size))))
  else .next s

/-- A store (R154). -/
def storeOp (size : Nat) (rs ra : BitVec 6) (off : Imm 5) (g : BitVec 5) (s : State) : Out :=
  if s.guard g then
    spadAccess (s.ea ra off size) size true s
      (.next (s.store (s.spad (s.ea ra off size)) (bytesOf (s.sreg rs.toNat).toNat size)))
  else .next s

/-- The integer atomics of R155 on w-bit values: old and operand to the new value; `cmp` is the comparand of CAS. -/
def amoNew (op w old b cmp : Nat) : Nat :=
  match op with
  | 0 => (old + b) % 2 ^ w
  | 1 => Nat.land old b
  | 2 => Nat.lor old b
  | 3 => Nat.xor old b
  | 4 => if toSigned w old ≤ toSigned w b then old else b
  | 5 => if toSigned w old ≤ toSigned w b then b else old
  | 6 => if old ≤ b then old else b
  | 7 => if old ≤ b then b else old
  | 8 => b
  | _ => if old = cmp then b else old

/-- A scratchpad atomic (R155). -/
def amoOp (op : Nat) (rd ra rb : BitVec 6) (wf : BitVec 1) (s : State) : Out :=
  let n := if wf = 0 then 4 else 8
  let ea := (s.sreg ra.toNat).toNat
  let old := s.rdLE (s.spad ea) n
  let new := amoNew op (8 * n) old ((s.sreg rb.toNat).toNat % 2 ^ (8 * n)) ((s.sreg rd.toNat).toNat % 2 ^ (8 * n))
  spadAccess ea n true s (spadAccess ea n false s
    (.next ((s.store (s.spad ea) (bytesOf new n)).setS rd.toNat (extendLoad true n old))))

/-! Loops (R139 to R141, R158). -/

def StreamSt.level (t : StreamSt) (l : Nat) : LoopLevel := if l = 0 then t.l0 else t.l1
def StreamSt.setLevel (t : StreamSt) (l : Nat) (x : LoopLevel) : StreamSt := if l = 0 then { t with l0 := x } else { t with l1 := x }

/-- LOOP with count n: an end offset inside its own bundle is ILLEGAL_BUNDLE (R139). DEDUCED (log 35). -/
def loopOp (l e n : Nat) (s : State) : Out :=
  if e ≤ s.ctx.len then raise .illegalBundle s
  else
    let le := pcRel s.ctx.str s.ctx.addr e
    let s1 := s.updStrm fun t => t.setLevel l { lc := .ofNat 32 n, ls := s.seqPc, le := le }
    .next (if n = 0 then s1.branch le else s1)

/-- A committed loop register: 0 lc0, 1 ls0, 2 le0, 3 lc1, 4 ls1, 5 le1 (R158). -/
def loopReg (t : StreamSt) (r : Nat) : Nat :=
  let x := t.level (r / 3)
  match r % 3 with
  | 0 => x.lc.toNat
  | 1 => x.ls.toNat
  | _ => x.le.toNat

/-- A write of a loop register: direct on an inactive level, else into its shadow (R141). -/
def LoopLevel.write (x : LoopLevel) (st : Str) (r v : Nat) : LoopLevel :=
  if x.lc = 0 then
    match r with
    | 0 => { x with lc := .ofNat 32 v }
    | 1 => { x with ls := pcWrap st v }
    | _ => { x with le := pcWrap st v }
  else
    match r with
    | 0 => { x with plc := some (.ofNat 32 v) }
    | 1 => { x with pls := some (pcWrap st v) }
    | _ => { x with ple := some (pcWrap st v) }

def lwrOp (r v : Nat) (s : State) : Out :=
  .next (s.updStrm fun t => t.setLevel (r / 3) ((t.level (r / 3)).write s.ctx.str (r % 3) v))

/-! CHECK (R145). -/

/-- The task with ordinal `ord` of the checking task's die image, bound to cluster l, has retired, in locked mode in an
earlier cinch period. -/
def State.checkPasses (s : State) (l ord : Nat) : Bool :=
  match s.cl.task with
  | none => false
  | some r => s.jobs.any fun j => j.lead == r.lead && j.slot == r.slot &&
      j.tasks.any fun t => t.die == s.curDie && t.ord == ord && t.lcl == l && decide (t.stage = .retired) &&
        (if j.locked then decide (t.retPer < j.period) else decide (t.retClk < s.clk))

/-! The meanings. -/

/-- NOP: no effect (R136). -/
def execNop (s : State) : Out := .next s

/-- END: the stream issues nothing further (R136). -/
def execEndStream (s : State) : Out := .next s.ends

/-- BR: PC := A + off (R138). -/
def execBr (off : BitVec 16) (s : State) : Out := .next (s.branchRel (sx off))

/-- BXI: a branch on a register and an immediate (R138). -/
def execBxi (c : BitVec 3) (x : BitVec 6) (imm : Imm 6) (off : BitVec 10) (s : State) : Out :=
  .next (if cond c.toNat (s.reg x) (immS imm) then s.branchRel (sx off) else s)

/-- BXX: a branch on two registers (R138). -/
def execBxx (c : BitVec 3) (x y : BitVec 6) (off : BitVec 10) (s : State) : Out :=
  .next (if cond c.toNat (s.reg x) (s.reg y) then s.branchRel (sx off) else s)

/-- LOOP with its count in a register: bits [31:0] (R139). -/
def execLoopReg (l : BitVec 1) (r : BitVec 6) (e : BitVec 10) (s : State) : Out :=
  loopOp l.toNat e.toNat ((s.reg r).toNat % 2 ^ 32) s

/-- LOOP with an immediate count: N is exact, of which lc keeps the low 32 bits (R6, R139). -/
def execLoopImm (l : BitVec 1) (n : Imm 13) (e : BitVec 10) (s : State) : Out :=
  loopOp l.toNat e.toNat (immU n).toNat s

/-- GATE (R144). -/
def execGate (c : BitVec 3) (n : BitVec 5) (off : Imm 17) (s : State) : Out := gateOp c.toNat n.toNat (immU off).toNat s

/-- CHECK: CHECK_FAIL unless the named task has retired (R145). -/
def execCheck (l : BitVec 4) (off : BitVec 12) (s : State) : Out :=
  if s.checkPasses l.toNat off.toNat then .next s else raise .checkFail s

/-- SEMP (R142, R143). -/
def execSemp (m : BitVec 4) (n : BitVec 8) (s : State) : Out := semRelease m.toNat n.toNat s

/-- SEMW (R142, R143). -/
def execSemw (m : BitVec 4) (n : BitVec 8) (s : State) : Out := semAcquire m.toNat n.toNat s

/-- MARK: accesses are performed in issue order in this model, so it only retires (R146, R302; log 6). -/
def execMark (s : State) : Out := .next s

/-- IMOV: d := SignExtend(imm) (R137). -/
def execImov (rd : BitVec 6) (imm : Imm 19) (s : State) : Out := .next (s.setReg rd (immS imm))

/-- IADD: d := a + SignExtend(imm) (R137). -/
def execIadd (rd ra : BitVec 6) (imm : Imm 13) (s : State) : Out := .next (s.setReg rd (s.reg ra + immS imm))

/-- BREAK and SYSCALL: the cause with its code, or NOP once firmware has marked it served (R147). Of a bundle that holds two of them
the mark covers both, though only the first cause was raised (DESIGN CHOICE, log 99). -/
def trapOp (c : Cause) (code : BitVec 16) (s : State) : Out :=
  if s.strm.served then .next s else .next (s.trapped { s.trapOf c with code := code.toNat })

def execBrk (c : BitVec 16) (s : State) : Out := trapOp .brk c s

def execSyscall (c : BitVec 16) (s : State) : Out := trapOp .syscall c s

/-! Integer arithmetic on registers (R148). -/

/-- ADD: ra + rb (R148). -/
def execAdd (rd ra rb : BitVec 6) (g : BitVec 5) (s : State) : Out := aluRR (fun a b => a + b) rd ra rb g s

/-- SUB: ra − rb (R148). -/
def execSub (rd ra rb : BitVec 6) (g : BitVec 5) (s : State) : Out := aluRR (fun a b => a - b) rd ra rb g s

/-- MIN: signed minimum (R148). -/
def execMin (rd ra rb : BitVec 6) (g : BitVec 5) (s : State) : Out := aluRR opMin rd ra rb g s

/-- MAX: signed maximum (R148). -/
def execMax (rd ra rb : BitVec 6) (g : BitVec 5) (s : State) : Out := aluRR opMax rd ra rb g s

/-- AND: AND (R148). -/
def execAnd (rd ra rb : BitVec 6) (g : BitVec 5) (s : State) : Out := aluRR (fun a b => a &&& b) rd ra rb g s

/-- OR: OR (R148). -/
def execOr (rd ra rb : BitVec 6) (g : BitVec 5) (s : State) : Out := aluRR (fun a b => a ||| b) rd ra rb g s

/-- XOR: XOR (R148). -/
def execXor (rd ra rb : BitVec 6) (g : BitVec 5) (s : State) : Out := aluRR (fun a b => a ^^^ b) rd ra rb g s

/-- ANDN: ra and not rb (R148). -/
def execAndn (rd ra rb : BitVec 6) (g : BitVec 5) (s : State) : Out := aluRR (fun a b => a &&& ~~~b) rd ra rb g s

/-- SHL: ra << rb[5:0] (R148). -/
def execShl (rd ra rb : BitVec 6) (g : BitVec 5) (s : State) : Out := aluRR opShl rd ra rb g s

/-- SHR: logical right shift (R148). -/
def execShr (rd ra rb : BitVec 6) (g : BitVec 5) (s : State) : Out := aluRR opShr rd ra rb g s

/-- SRA: arithmetic right shift (R148). -/
def execSra (rd ra rb : BitVec 6) (g : BitVec 5) (s : State) : Out := aluRR opSra rd ra rb g s

/-- MULH: bits [127:64] of the signed product (R148). -/
def execMulh (rd ra rb : BitVec 6) (g : BitVec 5) (s : State) : Out := aluRR opMulh rd ra rb g s

/-- MUL: bits [63:0] of the product (R148). -/
def execMul (rd ra rb : BitVec 6) (g : BitVec 5) (s : State) : Out := aluRR (fun a b => a * b) rd ra rb g s

/-- MULHU: bits [127:64] of the unsigned product (R148). -/
def execMulhu (rd ra rb : BitVec 6) (g : BitVec 5) (s : State) : Out := aluRR opMulhu rd ra rb g s

/-- MINU: unsigned minimum (R148). -/
def execMinu (rd ra rb : BitVec 6) (g : BitVec 5) (s : State) : Out := aluRR opMinu rd ra rb g s

/-- MAXU: unsigned maximum (R148). -/
def execMaxu (rd ra rb : BitVec 6) (g : BitVec 5) (s : State) : Out := aluRR opMaxu rd ra rb g s

/-! Integer arithmetic with an immediate (R149). -/

/-- ANDI (R149). -/
def execAndi (rd ra : BitVec 6) (imm : Imm 6) (g : BitVec 5) (s : State) : Out :=
  aluRI (fun a b => a &&& b) rd ra (immS imm) g s

/-- ORI (R149). -/
def execOri (rd ra : BitVec 6) (imm : Imm 6) (g : BitVec 5) (s : State) : Out :=
  aluRI (fun a b => a ||| b) rd ra (immS imm) g s

/-- XORI (R149). -/
def execXori (rd ra : BitVec 6) (imm : Imm 6) (g : BitVec 5) (s : State) : Out :=
  aluRI (fun a b => a ^^^ b) rd ra (immS imm) g s

/-- MULI (R149). -/
def execMuli (rd ra : BitVec 6) (imm : Imm 6) (g : BitVec 5) (s : State) : Out :=
  aluRI (fun a b => a * b) rd ra (immS imm) g s

/-- MINI (R149). -/
def execMini (rd ra : BitVec 6) (imm : Imm 6) (g : BitVec 5) (s : State) : Out :=
  aluRI opMin rd ra (immS imm) g s

/-- MAXI (R149). -/
def execMaxi (rd ra : BitVec 6) (imm : Imm 6) (g : BitVec 5) (s : State) : Out :=
  aluRI opMax rd ra (immS imm) g s

/-- MINUI (R149). -/
def execMinui (rd ra : BitVec 6) (imm : Imm 6) (g : BitVec 5) (s : State) : Out :=
  aluRI opMinu rd ra (immS imm) g s

/-- MAXUI (R149). -/
def execMaxui (rd ra : BitVec 6) (imm : Imm 6) (g : BitVec 5) (s : State) : Out :=
  aluRI opMaxu rd ra (immS imm) g s

/-- SUBFI (R149). -/
def execSubfi (rd ra : BitVec 6) (imm : Imm 6) (g : BitVec 5) (s : State) : Out :=
  aluRI (fun a b => b - a) rd ra (immS imm) g s

/-- SHLI: a count from 0 to 63 (R149). -/
def execShli (rd ra : BitVec 6) (imm : BitVec 6) (g : BitVec 5) (s : State) : Out :=
  aluRI opShl rd ra (imm.setWidth 64) g s

/-- SHRI: a count from 0 to 63 (R149). -/
def execShri (rd ra : BitVec 6) (imm : BitVec 6) (g : BitVec 5) (s : State) : Out :=
  aluRI opShr rd ra (imm.setWidth 64) g s

/-- SRAI: a count from 0 to 63 (R149). -/
def execSrai (rd ra : BitVec 6) (imm : BitVec 6) (g : BitVec 5) (s : State) : Out :=
  aluRI opSra rd ra (imm.setWidth 64) g s

/-! Compares and predicates (R150, R151). -/

/-- CMP: pd := Cond(cc, ra, rb) (R150). -/
def execCmp (pd : BitVec 4) (ra rb : BitVec 6) (c : BitVec 4) (g : BitVec 5) (s : State) : Out :=
  predOp pd g (cond c.toNat (s.sreg ra.toNat) (s.sreg rb.toNat)) s

/-- CMPI: pd := Cond(cc, ra, SignExtend(imm)) (R150). -/
def execCmpi (pd : BitVec 4) (ra : BitVec 6) (imm : Imm 6) (c : BitVec 4) (g : BitVec 5) (s : State) : Out :=
  predOp pd g (cond c.toNat (s.sreg ra.toNat) (immS imm)) s

/-- PAND (R151). -/
def execPand (rd ra rb : BitVec 4) (g : BitVec 5) (s : State) : Out :=
  predOp rd g (s.preg ra.toNat && s.preg rb.toNat) s

/-- POR (R151). -/
def execPor (rd ra rb : BitVec 4) (g : BitVec 5) (s : State) : Out :=
  predOp rd g (s.preg ra.toNat || s.preg rb.toNat) s

/-- PXOR (R151). -/
def execPxor (rd ra rb : BitVec 4) (g : BitVec 5) (s : State) : Out :=
  predOp rd g (s.preg ra.toNat != s.preg rb.toNat) s

/-- PANDN (R151). -/
def execPandn (rd ra rb : BitVec 4) (g : BitVec 5) (s : State) : Out :=
  predOp rd g (s.preg ra.toNat && !s.preg rb.toNat) s

/-- PNOT (R151). -/
def execPnot (rd ra : BitVec 4) (g : BitVec 5) (s : State) : Out := predOp rd g (!s.preg ra.toNat) s

/-- PGET: rd := the predicates, bit 0 being 1 (R151). -/
def execPget (rd : BitVec 6) (g : BitVec 5) (s : State) : Out := aluOp rd g ((s.cl.p ||| 1).setWidth 64) s

/-- PPUT: pj := ra[j] for j = 1 to 15 (R151). -/
def execPput (ra : BitVec 6) (g : BitVec 5) (s : State) : Out :=
  .next (s.guarded g fun s => { s with cl := { s.cl with p := (s.sreg ra.toNat).setWidth 16 ||| 1 } })

/-! Branches and calls (R152, R153). -/

/-- The first true test of a BTREE. -/
def firstTest (s : State) : List BTest → Option (BitVec 12)
  | [] => none
  | t :: l => if s.preg t.p.toNat != (t.inv == 1) then some t.off else firstTest s l

/-- BTREE (R152). -/
def execBtree (t : List BTest) (s : State) : Out :=
  .next (match firstTest s t with
    | some off => s.branchRel (sx off)
    | none => s)

/-- BRC (R153). -/
def execBrc (off : BitVec 16) (g : BitVec 5) (s : State) : Out := .next (s.guarded g fun s => s.branchRel (sx off))

/-- JAL: s63 := A + n, PC := A + off (R153). -/
def execJal (off : BitVec 16) (g : BitVec 5) (s : State) : Out :=
  .next (s.guarded g fun s => (s.setS 63 (s.seqPc.setWidth 64)).branchRel (sx off))

/-- JALR: the target is computed from ra before s63 is written (R153). -/
def execJalr (ra : BitVec 6) (off : BitVec 10) (g : BitVec 5) (s : State) : Out :=
  .next (s.guarded g fun s =>
    (s.setS 63 (s.seqPc.setWidth 64)).branch (pcWrap s.ctx.str (ofInt 16 (((s.sreg ra.toNat).toNat : Int) + sx off))))

/-! Scratchpad access (R154, R155). -/

/-- LDB (R154). -/
def execLdb (rd ra : BitVec 6) (off : Imm 5) (g : BitVec 5) (s : State) : Out := loadOp true 1 rd ra off g s

/-- LDBU (R154). -/
def execLdbu (rd ra : BitVec 6) (off : Imm 5) (g : BitVec 5) (s : State) : Out := loadOp false 1 rd ra off g s

/-- LDH (R154). -/
def execLdh (rd ra : BitVec 6) (off : Imm 5) (g : BitVec 5) (s : State) : Out := loadOp true 2 rd ra off g s

/-- LDHU (R154). -/
def execLdhu (rd ra : BitVec 6) (off : Imm 5) (g : BitVec 5) (s : State) : Out := loadOp false 2 rd ra off g s

/-- LDW (R154). -/
def execLdw (rd ra : BitVec 6) (off : Imm 5) (g : BitVec 5) (s : State) : Out := loadOp true 4 rd ra off g s

/-- LDWU (R154). -/
def execLdwu (rd ra : BitVec 6) (off : Imm 5) (g : BitVec 5) (s : State) : Out := loadOp false 4 rd ra off g s

/-- LDD (R154). -/
def execLdd (rd ra : BitVec 6) (off : Imm 5) (g : BitVec 5) (s : State) : Out := loadOp false 8 rd ra off g s

/-- STB (R154). -/
def execStb (rs ra : BitVec 6) (off : Imm 5) (g : BitVec 5) (s : State) : Out := storeOp 1 rs ra off g s

/-- STH (R154). -/
def execSth (rs ra : BitVec 6) (off : Imm 5) (g : BitVec 5) (s : State) : Out := storeOp 2 rs ra off g s

/-- STW (R154). -/
def execStw (rs ra : BitVec 6) (off : Imm 5) (g : BitVec 5) (s : State) : Out := storeOp 4 rs ra off g s

/-- STD (R154). -/
def execStd (rs ra : BitVec 6) (off : Imm 5) (g : BitVec 5) (s : State) : Out := storeOp 8 rs ra off g s

/-- AMOADD (R155). -/
def execAmoadd (rd ra rb : BitVec 6) (w : BitVec 1) (s : State) : Out := amoOp 0 rd ra rb w s

/-- AMOAND (R155). -/
def execAmoand (rd ra rb : BitVec 6) (w : BitVec 1) (s : State) : Out := amoOp 1 rd ra rb w s

/-- AMOOR (R155). -/
def execAmoor (rd ra rb : BitVec 6) (w : BitVec 1) (s : State) : Out := amoOp 2 rd ra rb w s

/-- AMOXOR (R155). -/
def execAmoxor (rd ra rb : BitVec 6) (w : BitVec 1) (s : State) : Out := amoOp 3 rd ra rb w s

/-- AMOMIN (R155). -/
def execAmomin (rd ra rb : BitVec 6) (w : BitVec 1) (s : State) : Out := amoOp 4 rd ra rb w s

/-- AMOMAX (R155). -/
def execAmomax (rd ra rb : BitVec 6) (w : BitVec 1) (s : State) : Out := amoOp 5 rd ra rb w s

/-- AMOMINU (R155). -/
def execAmominu (rd ra rb : BitVec 6) (w : BitVec 1) (s : State) : Out := amoOp 6 rd ra rb w s

/-- AMOMAXU (R155). -/
def execAmomaxu (rd ra rb : BitVec 6) (w : BitVec 1) (s : State) : Out := amoOp 7 rd ra rb w s

/-- AMOSWAP (R155). -/
def execAmoswap (rd ra rb : BitVec 6) (w : BitVec 1) (s : State) : Out := amoOp 8 rd ra rb w s

/-- AMOCAS (R155). -/
def execAmocas (rd ra rb : BitVec 6) (w : BitVec 1) (s : State) : Out := amoOp 9 rd ra rb w s

/-! Control, parameter and seed registers (R156 to R158). -/

/-- CRR: s := the 32-bit register at byte 4·word of block 0 or 1; other blocks are illegal (R156). -/
def execCrr (r : BitVec 6) (k : BitVec 3) (w : BitVec 13) (s : State) : Out :=
  if k.toNat ≤ 1 then .next (s.setS r.toNat (.ofNat 64 (s.creg32 k.toNat (4 * w.toNat)))) else raise .illegalOpcode s

/-- CRRD: the 64-bit register, an even word (R156). -/
def execCrrd (r : BitVec 6) (k : BitVec 3) (w : BitVec 13) (s : State) : Out :=
  if k.toNat ≤ 1 ∧ w.toNat % 2 = 0 then .next (s.setS r.toNat (.ofNat 64 (s.creg64 k.toNat (4 * w.toNat))))
  else raise .illegalOpcode s

/-- CRW: RW and W1C fields of block 0; a write to block 1 is ignored (R156). -/
def execCrw (r : BitVec 6) (k : BitVec 3) (w : BitVec 13) (s : State) : Out :=
  if k.toNat = 0 then
    .next { s with cl := s.cl.writeCreg (4 * w.toNat) ((s.sreg r.toNat).toNat % 2 ^ 32) }
  else if k.toNat = 1 then .next s
  else raise .illegalOpcode s

/-- KRD: s := k (R156). -/
def execKrd (r : BitVec 6) (k : BitVec 5) (s : State) : Out := .next (s.setS r.toNat (s.kreg k.toNat))

/-- KWR: k := s, seen from the next cycle (R133, R156). -/
def execKwr (r : BitVec 6) (k : BitVec 5) (s : State) : Out :=
  .next { s with cl := { s.cl with kP := s.cl.kP ++ [(k.toNat, s.sreg r.toNat)] } }

/-- SEEDR: s := SEEDK[64j+63:64j] (R156). -/
def execSeedr (r : BitVec 6) (j : BitVec 2) (s : State) : Out :=
  .next (s.setS r.toNat ((s.cl.seedk >>> (64 * j.toNat)).setWidth 64))

/-- SEEDW: SEEDK[64j+63:64j] := s, seen from the next cycle (R133, R156). -/
def execSeedw (r : BitVec 6) (j : BitVec 2) (s : State) : Out :=
  .next { s with cl := { s.cl with seedP := s.cl.seedP ++ [(j.toNat, s.sreg r.toNat)] } }

/-- LRD: the committed value, zero-extended (R158). -/
def execLrd (r : BitVec 6) (l : BitVec 3) (s : State) : Out := .next (s.setS r.toNat (.ofNat 64 (loopReg s.strm l.toNat)))

/-- LWR (R141, R158). -/
def execLwr (r : BitVec 6) (l : BitVec 3) (s : State) : Out := lwrOp l.toNat (s.sreg r.toNat).toNat s

/-! Completion waits and fences (R159 to R161). -/

/-- WAITX: retires when the transfer is done (R159). -/
def execWaitx (c : BitVec 2) (r : BitVec 6) (s : State) : Out := waitXfer c.toNat ((s.sreg r.toNat).setWidth 32) s

/-- TESTX: pd := done, without waiting; in locked mode a late transfer overruns (R159). DEDUCED (log 34). -/
def execTestx (c : BitVec 2) (r : BitVec 6) (pd : BitVec 4) (s : State) : Out :=
  let id : Word32 := (s.sreg r.toNat).setWidth 32
  if !s.xDone c.toNat id && s.cl.locked && s.xLate c.toNat id then .next s.overruns
  else .next (s.setP pd.toNat (s.xDone c.toNat id))

def execFenceT (s : State) : Out := fenceOp 0 s

def execFenceD (s : State) : Out := fenceOp 1 s

def execFenceM (s : State) : Out := fenceOp 2 s

def execFenceS (s : State) : Out := fenceSys s

/-- IFENCE: writes into the instruction scratchpad land when they are made, so it retires at once (R161). -/
def execIfence (s : State) : Out := .next s

/-- ISWAP: SWAPPED toggles from the next cycle (R161). -/
def execIswap (s : State) : Out := .next { s with cl := { s.cl with swapP := !s.cl.swapP } }

end Sys2Proof.Machine
end

