-- ==== Sys2Proof/Machine/Issue.lean ====
section
/-! DEFINITION. A bundle as a unit (01 R26, 04 R124, R126, 05 R162, R163): its parts run in ascending position; the first
cause in the order of the rules decides; a bundle that waits has no effect but its wait state. -/
namespace Sys2Proof.Machine

/-- A part of a bundle: position, instruction, meaning. -/
structure Part where
  pos : Nat
  ins : Instr
  run : State → Out

/-- How running the parts came out. -/
inductive Ran
  | done (s : State)
  | wait (s : State)
  | trap (t : Trap)
  | stop (o : Out)

/-- Order of the execution-time causes of R163, after the stages of R124. -/
def rank163 (cause : Nat) : Nat :=
  if cause = Cause.illegalOpcode.code then 0
  else if cause = Cause.illegalBundle.code then 1
  else if cause = Cause.semOverflow.code then 10
  else if cause = Cause.misaligned.code then 11
  else if cause = Cause.spadRange.code then 12
  else if cause = Cause.memUncorr.code then 13
  else if cause = Cause.checkFail.code then 14
  else if cause = Cause.timingMiss.code then 15
  else if cause = Cause.xbOverrun.code then 16
  else 17

/-- A waiting syllable that raises a cause of its own while its bundle waits (R144, R286). -/
def raisesWaiting : Instr → Bool
  | .gate .. | .vgate .. | .xwaitb .. => true
  | _ => false

/-- A cause that stands only once the bundle issues: the bank that DRV finds not lent (R236, R241). -/
def atIssue : Instr → Bool
  | .drv .. => true
  | _ => false

/-- A trap that a bundle raises though another syllable of it waits: stages 1 to 3, and the causes of waiting syllables. -/
def urgent (i : Instr) (t : Trap) : Bool := (decide (rank163 t.cause ≤ 1) && !atIssue i) || raisesWaiting i

/-- The better of two traps: lower rank, then the earlier. -/
def betterTrap (rank : Instr → Trap → Nat) (a b : Option (Instr × Trap)) : Option (Instr × Trap) :=
  match a, b with
  | none, x => x
  | x, none => x
  | some x, some y => if rank y.1 y.2 < rank x.1 x.2 then some y else some x

/-- The parts run in order; a part that traps has no effect and its trap is kept. While a part waits only an urgent trap is
raised; else the first in the order of the causes. -/
def runParts (rank : Instr → Trap → Nat) : List Part → State → Option (Instr × Trap) → Option (Instr × Trap) → Ran
  | [], s, t, u =>
    match if s.ctx.wait then u else t with
    | some x => .trap x.2
    | none => if s.ctx.wait then .wait s else .done s
  | p :: l, s, t, u =>
    match p.run { s with ctx := { s.ctx with pos := p.pos, trap := none } } with
    | .next s' =>
      match s'.ctx.trap with
      | none => runParts rank l s' t u
      | some x =>
        runParts rank l s (betterTrap rank t (some (p.ins, x)))
          (if urgent p.ins x then betterTrap rank u (some (p.ins, x)) else u)
    | o => .stop o

/-- What a waiting bundle keeps (R162): its wait state, an overrun, and the PCIe read of FENCE.S. -/
def State.keepWait (s after : State) : State :=
  let w := (after.cl.str s.ctx.str).wait
  { s with
    ctx := { s.ctx with wait := true }
    cl := { (s.cl.setStr s.ctx.str { s.cl.str s.ctx.str with wait := w }) with
      late := after.cl.late, pcie := after.cl.pcie } }

/-- A bundle's outcome as the answer of a meaning. -/
def Ran.answer (r : Ran) (s : State) : Out :=
  match r with
  | .done s' => .next s'
  | .wait s' => .next (s.keepWait s')
  | .trap t => .next (s.trapped t)
  | .stop o => o

end Sys2Proof.Machine
end

