-- ==== Sys2Proof/Machine/Gen.lean ====
section
/-! DEFINITION. The counter-mode generator (02 R70 to R73). -/
namespace Sys2Proof.Machine

/-- Rotation of a 32-bit word to the left (RFC 8439, section 2.1). -/
def rotl32 (x : Word32) (n : Nat) : Word32 := x.rotateLeft n

/-- One quarter round on four words of the state. -/
def quarterRound (a b c d : Word32) : Word32 × Word32 × Word32 × Word32 :=
  let a := a + b
  let d := rotl32 (d ^^^ a) 16
  let c := c + d
  let b := rotl32 (b ^^^ c) 12
  let a := a + b
  let d := rotl32 (d ^^^ a) 8
  let c := c + d
  let b := rotl32 (b ^^^ c) 7
  (a, b, c, d)

/-- The sixteen words of a state, by row. -/
structure ChaRow where
  a : Word32
  b : Word32
  c : Word32
  d : Word32
deriving DecidableEq, Repr

/-- Quarter rounds down the columns of four rows. -/
def columnRound (w x y z : ChaRow) : ChaRow × ChaRow × ChaRow × ChaRow :=
  let (a0, b0, c0, d0) := quarterRound w.a x.a y.a z.a
  let (a1, b1, c1, d1) := quarterRound w.b x.b y.b z.b
  let (a2, b2, c2, d2) := quarterRound w.c x.c y.c z.c
  let (a3, b3, c3, d3) := quarterRound w.d x.d y.d z.d
  (⟨a0, a1, a2, a3⟩, ⟨b0, b1, b2, b3⟩, ⟨c0, c1, c2, c3⟩, ⟨d0, d1, d2, d3⟩)

/-- A double round: columns, then diagonals (R70). -/
def doubleRound (w x y z : ChaRow) : ChaRow × ChaRow × ChaRow × ChaRow :=
  let (w, x, y, z) := columnRound w x y z
  let (w, x, y, z) := columnRound w ⟨x.b, x.c, x.d, x.a⟩ ⟨y.c, y.d, y.a, y.b⟩ ⟨z.d, z.a, z.b, z.c⟩
  (w, ⟨x.d, x.a, x.b, x.c⟩, ⟨y.c, y.d, y.a, y.b⟩, ⟨z.b, z.c, z.d, z.a⟩)

def doubleRounds : Nat → ChaRow × ChaRow × ChaRow × ChaRow → ChaRow × ChaRow × ChaRow × ChaRow
  | 0, s => s
  | n + 1, (w, x, y, z) => doubleRounds n (doubleRound w x y z)

def addRow (x y : ChaRow) : List Word32 := [x.a + y.a, x.b + y.b, x.c + y.c, x.d + y.d]

/-- Word k of the key: SEEDK[32k+31:32k] (R71). -/
def keyWord (key : BitVec 256) (k : Nat) : Word32 := BitVec.ofNat 32 (key.toNat >>> (32 * k))

/-- Block(key, ctr, sid, tid): sixteen words (R70). -/
def genBlock (key : BitVec 256) (ctr : Nat) (sid tid : Word32) : List Word32 :=
  let w : ChaRow := ⟨0x61707865, 0x3320646E, 0x79622D32, 0x6B206574⟩
  let x : ChaRow := ⟨keyWord key 0, keyWord key 1, keyWord key 2, keyWord key 3⟩
  let y : ChaRow := ⟨keyWord key 4, keyWord key 5, keyWord key 6, keyWord key 7⟩
  let z : ChaRow := ⟨BitVec.ofNat 32 ctr, BitVec.ofNat 32 (ctr >>> 32), sid, tid⟩
  let (w', x', y', z') := doubleRounds 4 (w, x, y, z)
  addRow w' w ++ addRow x' x ++ addRow y' y ++ addRow z' z

/-- The word that element e receives (R73). -/
def genWord (key : BitVec 256) (e : Nat) (sid tid : Word32) : Nat :=
  ((genBlock key (e / 16 % 2 ^ 64) sid tid).getD (e % 16) 0).toNat

end Sys2Proof.Machine
end

