-- ==== Sys2Proof/Machine/Stream.lean ====
section
/-! DEFINITION. Unary stream arithmetic (03 R74 to R95): codes, comb generators, counts, early stop, edge conversion, skep
lists. -/
namespace Sys2Proof.Machine

/-! SLEN and the scrambles (R77, R78). -/

def slenP (w : Word32) : Nat := field w.toNat 2 0
def slenD (w : Word32) : Nat := field w.toNat 5 3
def slenXB (w : Word32) : Bool := bit w.toNat 6

/-- A value that SLEN accepts (R77). -/
def slenOk (v : Nat) : Bool := decide (v % 2 ^ 32 < 2 ^ 7) && decide (v % 8 ≠ 0) && decide (v / 8 % 8 ≤ v % 8)

/-- sx(r) and sy(c): the scramble of row or column i under SEQX or SEQY. -/
def scramble (seq : Word32) (p i : Nat) : Nat := (field seq.toNat 6 0 + field seq.toNat 14 8 * i) % 128 % 2 ^ p

/-! Codes (R74 to R76). -/

def lev (x : Byte) : Nat := x.toNat % 128

/-- A code that meets R74 for p and the mode. -/
def codeOk (p : Nat) (xb : Bool) (x : Byte) : Bool := decide (lev x < 2 ^ p) && !(xb && bit x.toNat 7)

def zeroValued (p : Nat) (xb : Bool) (x : Byte) : Bool := if xb then lev x == 2 ^ (p - 1) else lev x == 0

/-- The contribution of one term over the inner sweep at outer index o (R81, R84). -/
def innerSum (p : Nat) (xb : Bool) (sx sy o : Nat) (x y : Byte) : Nat → Int
  | 0 => 0
  | i + 1 =>
    let bx := decide (lev x > Nat.xor (bitRev i p) sx)
    let by_ := decide (lev y > Nat.xor (bitRev o p) sy)
    let c : Int :=
      if xb then (if bx = by_ then 1 else -1)
      else if bx && by_ then (if bit x.toNat 7 != bit y.toNat 7 then -1 else 1) else 0
    innerSum p xb sx sy o x y i + c

/-- A term at one outer index; zero-valued codes add nothing (R76). -/
def termAt (p : Nat) (xb : Bool) (sx sy o : Nat) (x y : Byte) : Int :=
  if zeroValued p xb x || zeroValued p xb y then 0 else innerSum p xb sx sy o x y (2 ^ p)

/-! Elements of the source formats (R48, R223). -/

/-- Bits of an element of FMT 0 to 9; C4 (0xA) has 4, a stream code (0xB) 8. -/
def fmtWidth (fmt : Nat) : Nat :=
  match fmt with
  | 0 | 3 | 0xB => 8
  | 1 | 4 | 6 => 16
  | 2 | 5 | 7 => 32
  | _ => 4

/-- The value of an element (R57, R58): integers as m · 2^0. -/
def elemVal (fmt bits : Nat) : FVal :=
  match fmt with
  | 0 | 1 | 2 | 8 =>
    let x := toSigned (fmtWidth fmt) bits
    .fin (decide (x < 0)) x.natAbs 0
  | 6 => fval (widenBF bits)
  | 7 => fval bits
  | _ => .fin false bits 0

/-- The value that an outlier's entry holds (R92). -/
def outlierVal (fmt bits : Nat) : Nat :=
  match fmt with
  | 6 => widenBF bits
  | 7 => bits
  | _ =>
    match elemVal fmt bits with
    | .fin s m e => (roundTo 23 .rne 0 false s m e).bits
    | _ => 0

/-- A scale that R91 accepts: finite and above 0. -/
def scaleOk (w : Word32) : Bool :=
  match fval w.toNat with
  | .fin s m _ => !s && m != 0
  | _ => false

/-- Conversion to a stream code (R91): the code, and whether the element is an outlier. -/
def toCode (p : Nat) (xb : Bool) (scale : Word32) (mode : RMode) (u : Nat) (v : FVal) : Byte × Bool :=
  let out : Byte × Bool := (if xb then BitVec.ofNat 8 (2 ^ (p - 1)) else 0, true)
  match v, fval scale.toNat with
  | .fin s m e, .fin _ ms es =>
    if xb then
      let q : Int := signedMag s (roundMag mode u (m * ms) (e + es - 1)) + (2 ^ (p - 1) : Nat)
      if q < 0 ∨ q ≥ (2 ^ p : Nat) then out else (.ofNat 8 q.toNat, false)
    else
      let mag := roundMag mode u (m * ms) (e + es)
      if mag ≥ 2 ^ p then out
      else if mag = 0 then (0, false) else (.ofNat 8 (b2n s * 128 + mag), false)
  | _, _ => out

/-! Elements in the data scratchpad (R49, R224). -/

/-- Byte of element pos of w bits, from base B. -/
def elemByte (b pos w : Nat) : Nat := b + pos * w / 8

/-- The bits of element pos. -/
def State.spadElem (s : State) (b pos w : Nat) : Nat :=
  if w = 4 then (s.rd8 (s.spad (elemByte b pos 4))).toNat / 16 ^ (pos % 2) % 16
  else s.rdLE (s.spad (elemByte b pos w)) (w / 8)

/-- The bytes of an element hold an uncorrectable error. -/
def State.spadBad (s : State) (b pos w : Nat) : Option Nat := s.badRead (s.spad (elemByte b pos w)) (ceilDiv w 8)

/-! Skep lists (R93). -/

def State.skepCap (s : State) (o : Nat) : Nat := s.rdLE (s.spad o) 4
def State.skepCnt (s : State) (o : Nat) : Nat := s.rdLE (s.spad (o + 4)) 4

/-- A list that is misaligned, or does not end inside the data scratchpad. -/
def skepMisaligned (o : Nat) : Bool := o % 16 != 0
def State.skepRange (s : State) (o : Nat) : Bool := decide (o + 16 + 8 * s.skepCap o > 2 ^ 21)

/-- An entry appended to the list at o; `none` where no list is bound or the list is full: SKEP_FULL. Where CAP has been raised
since the check at issue, an entry past the end of the data scratchpad is written on in the window (DESIGN CHOICE, log 87). -/
def State.skepAppend (s : State) (list : Option Nat) (e : Nat) (val : Nat) : Option State :=
  match list with
  | none => none
  | some o =>
    let n := s.skepCnt o
    if n < s.skepCap o then
      some ((s.store (s.spad (o + 16 + 8 * n)) (bytesOf (e % 2 ^ 32) 4 ++ bytesOf val 4)).store (s.spad (o + 4))
        (bytesOf (n + 1) 4))
    else none

/-- The granules that an append reads or writes in part hold an error (R387). -/
def State.skepBad (s : State) (list : Option Nat) : Option Nat :=
  match list with
  | none => none
  | some o => (s.badRead (s.spad o) 8)

/-! A pass's rows and columns (R83, R88 to R90, R224, R229). -/

def PassSt.c (p : PassSt) (sel : Nat) (d : Word32) : Word32 := p.cfg.get d sel
def PassSt.slen (p : PassSt) : Word32 := p.c 0 0x3F
def PassSt.rows (p : PassSt) : Nat := (p.west.map (·.rows)).getD 0
def PassSt.nc (p : PassSt) : Nat := p.c1 - p.c0 + 1
def PassSt.pp (p : PassSt) : Nat := slenP p.slen
def PassSt.dd (p : PassSt) : Nat := slenD p.slen
def PassSt.xb (p : PassSt) : Bool := slenXB p.slen

/-- L ≤ 128: a packed pass. -/
def PassSt.packed (p : PassSt) : Bool := decide (p.pp + p.dd ≤ 7)

/-- Terms of one cycle word (R83). -/
def PassSt.perWord (p : PassSt) : Nat := if p.packed then 128 / 2 ^ (p.pp + p.dd) else 128 / 2 ^ p.pp

/-- Cycle words at one outer index, and outer indices streamed. -/
def PassSt.words (p : PassSt) : Nat := ceilDiv p.k p.perWord
def PassSt.outers (p : PassSt) : Nat := if p.packed then 1 else 2 ^ p.dd

/-- The zero code of a mode. -/
def zeroCode (p : Nat) (xb : Bool) : Byte := if xb then .ofNat 8 (2 ^ (p - 1)) else 0

/-- Codes read in setup: west (r, k), north (k, column c). -/
def PassSt.wc (p : PassSt) (r k : Nat) : Byte := if r < p.rows then p.wcode.get 0 (r * 65536 + k) else zeroCode p.pp p.xb
def PassSt.nc_ (p : PassSt) (k c : Nat) : Byte := p.ncode.get 0 (k * 256 + c)

/-- What one cycle word adds to cell (r, c) (R82 to R84): `terms` counts down over the word's terms. -/
def PassSt.wordSum (p : PassSt) (r c : Nat) : Nat → Int
  | 0 => 0
  | j + 1 =>
    let k := p.kstep * p.perWord + j
    let sx := scramble (p.c 1 0) p.pp r
    let sy := scramble (p.c 2 0) p.pp c
    let x := p.wc r k
    let y := p.nc_ k c
    let t : Int :=
      if k ≥ p.k then 0
      else if p.packed then sumTo (fun o => termAt p.pp p.xb sx sy o x y) (2 ^ p.dd)
      else termAt p.pp p.xb sx sy p.outer x y
    p.wordSum r c j + t

/-- Active cells, row-major. -/
def PassSt.cells (p : PassSt) : List (Nat × Nat) :=
  (List.range p.rows).flatMap fun r => (List.range p.nc).map fun i => (r, p.c0 + i)

/-- One cycle word: every active counter takes its contribution. -/
def PassSt.streamWord (p : PassSt) : PassSt :=
  { p with cnt := p.cells.foldl (fun m x =>
      m.set 0 (x.1 * 256 + x.2) (m.get 0 (x.1 * 256 + x.2) + .ofInt 32 (p.wordSum x.1 x.2 p.perWord))) p.cnt }

/-- An active cell whose counter cannot be read (R387, R448). -/
def PassSt.badCount (p : PassSt) : Option Nat := badCell p.bad (fun r => decide (r < p.rows)) p.c0 p.c1

/-- n(r) and NN(r) (R88). -/
def PassSt.nAct (p : PassSt) (r : Nat) : Nat :=
  ((List.range p.k).filter fun k => !zeroValued p.pp p.xb (p.wc r k)).length
def PassSt.nonNeg (p : PassSt) (r : Nat) : Bool :=
  !p.xb && ((List.range p.k).all fun k => zeroValued p.pp p.xb (p.wc r k) || !bit (p.wc r k).toNat 7)
    && ((List.range p.k).all fun k => (List.range p.nc).all fun i =>
        zeroValued p.pp p.xb (p.nc_ k (p.c0 + i)) || !bit (p.nc_ k (p.c0 + i)).toNat 7)

def PassSt.cntOf (p : PassSt) (r c : Nat) : Int := (p.cnt.get 0 (r * 256 + c)).toInt

/-- Largest and second largest of a list (R90). -/
def top2 : List Int → Int × Int
  | [] => (0, 0)
  | [a] => (a, a)
  | a :: b :: t =>
    t.foldl (fun (m : Int × Int) x => if x > m.1 then (x, m.1) else if x > m.2 then (m.1, x) else m)
      (if a > b then (a, b) else (b, a))

/-- Row r is settled with `o` outer indices done (R88, R90). -/
def PassSt.settled (p : PassSt) (r o : Nat) : Bool :=
  let mmax := if p.xb then 2 ^ p.pp else 2 ^ p.pp - 1
  let b : Int := (p.nAct r * mmax * (2 ^ p.dd - o) : Nat)
  let lo : Int := if p.nonNeg r then 0 else -b
  let l := (List.range p.nc).map fun i => p.cntOf r (p.c0 + i)
  let m := top2 l
  if p.stop = 1 then decide (p.nc = 1) || decide (m.1 - m.2 > b - lo)
  else
    let th := (p.c 3 0).toInt
    decide (m.1 + lo > th) || decide (m.1 + b ≤ th)

/-- Rows selected by RMASK among 0 to R − 1 (R218, R231). -/
def PassSt.selRows (p : PassSt) : List Nat :=
  (List.range p.rows).filter fun r => (p.c (18 + r / 32) 0xFFFFFFFF).toNat.testBit (r % 32)

end Sys2Proof.Machine
end

