-- ==== Sys2Proof/Machine/Matrix.lean ====
section
/-! DEFINITION. The matrix engines (08 R218 to R243; 03 R79 to R95): the issue of each operation, what a pass, a load and a
drain do in each cycle, and the completions. -/
namespace Sys2Proof.Machine

/-! Configuration (R218). -/

/-- Reset value of the register SEL. -/
def mcfgDef (sel : Nat) : Word32 :=
  if sel = 0 then 0x3F
  else if sel = 11 ∨ sel = 12 then 0x3F800000
  else if 18 ≤ sel ∧ sel ≤ 25 then 0xFFFFFFFF
  else 0

def MEng.cf (e : MEng) (sel : Nat) : Word32 := e.cfg.get (mcfgDef sel) sel
def MEng.setCf (e : MEng) (sel : Nat) (v : Word32) : MEng := { e with cfg := e.cfg.set (mcfgDef sel) sel v }

def State.me (s : State) : MEng := s.cl.me
def State.updMe (s : State) (f : MEng → MEng) : State := { s with cl := { s.cl with me := f s.cl.me } }
def State.mcf (s : State) (sel : Nat) : Word32 := s.cl.me.cf sel

/-- A failing check: cause and FADDR. -/
abbrev Check := Bool × Cause × Nat

/-- The first failing check is raised (R243); else the operation issues. -/
def checked (l : List Check) (s : State) (f : Out) : Out :=
  match l.find? (·.1) with
  | some x => raise x.2.1 s 0 x.2.2
  | none => f

/-- An issue condition: while it does not hold, the repetition waits (R220). DEDUCED (log 37). -/
def whenReady (b : Bool) (s : State) (f : Out) : Out := if b then f else .next s.waits

/-- Offset of the last byte of element pos of w bits from base b. -/
def lastByte (b pos w : Nat) : Nat := if w = 4 then b + pos / 2 else b + (pos + 1) * (w / 8) - 1

def unaligned (b w : Nat) : Bool := w != 4 && b % (w / 8) != 0

/-- Misalignment and range of a bound list (R93). -/
def State.listMis (_s : State) (l : Option Nat) : Bool := match l with
  | some o => skepMisaligned o
  | none => false
def State.listRange (s : State) (l : Option Nat) : Bool := match l with
  | some o => s.skepRange o
  | none => false

/-! Issue of the operations (R220 to R240). Each takes its current operation's base and stepped address. -/

/-- EW: binds a west tile (R223, R224). -/
def issueWest (kind base eps rows pitch fmt rnd cb : Nat) (s : State) : Out :=
  .next (s.updMe fun e => { e with west := some {
    kind := kind, base := base, eps := eps, rows := rows, pitch := if pitch = 0 then 65536 else pitch
    fmt := fmt, rnd := rnd, cb := cb, skw := e.skw } })

/-- Bits of an element of a west binding or an NLD. -/
def kindWidth (kind fmt : Nat) : Nat :=
  match kind with
  | 0 => 8
  | 1 => fmtWidth fmt
  | _ => 4

/-- NLD (R225). -/
def issueNld (i : Instr) (kind fmt n base eps : Nat) (s : State) : Out :=
  let w := kindWidth kind fmt
  let skn := if kind = 0 then none else s.me.skn
  whenReady s.me.nld.isNone s (checked
    [(unaligned base w, .misaligned, base), (s.listMis skn, .misaligned, skn.getD 0),
     (decide (lastByte base (eps + n - 1) w ≥ 2 ^ 21), .spadRange, lastByte base (eps + n - 1) w),
     (s.listRange skn, .spadRange, skn.getD 0),
     (kind == 1 && !scaleOk (s.mcf 12), .illegalCode, 0)] s
    (.next (s.updMe fun e => { e with nld := some {
      op := i, base := base, eps := eps, cfg := e.cfg, key := s.cl.seedk, skn := e.skn, issue := s.cyc
      baddr := s.ctx.addr } })))

/-- Two adjacent regions of n bytes from a exchanged. -/
def swapKey (a n k : Nat) : Nat := if k < a then k else if k < a + n then k + n else if k < a + 2 * n then k - n else k

def State.swapRegions (s : State) (a n : Nat) : State :=
  let pick (lo hi : Nat) : SMap Byte := s.mem.filter fun e => decide (lo ≤ e.1) && decide (e.1 < hi)
  { s with
    mem := (s.mem.filter fun e => decide (e.1 < a))
      ++ (pick (a + n) (a + 2 * n)).map (fun e => (e.1 - n, e.2))
      ++ (pick a (a + n)).map (fun e => (e.1 + n, e.2))
      ++ s.mem.filter fun e => decide (a + 2 * n ≤ e.1)
    bad := s.bad.map fun g => swapKey a n (g * 8) / 8 }

/-- NSWP: the active and the shadow plane change places (R226). -/
def issueNswp (s : State) : Out :=
  whenReady (s.me.pass.isNone && s.me.nld.isNone) s
    (.next (s.swapRegions (winBase s.cur + offPlane) 0x10000))

/-- CBLD (R227). -/
def issueCbld (cb ssel base : Nat) (s : State) : Out :=
  let scale := s.mcf (11 + ssel)
  whenReady (s.me.pass.isNone && s.me.nld.isNone) s (checked
    [(base % 2 != 0, .misaligned, base), (decide (base > 0x1FFFE0), .spadRange, base),
     (!scaleOk scale, .illegalCode, 0)] s
    (.next (s.updMe fun e => { e with cblds := e.cblds ++ [{
      cb := cb, issue := s.cyc, base := base, slen := e.cf 0, scale := scale, due := s.cyc + 4
      baddr := s.ctx.addr }] })))

/-- What a configuration register keeps of a written value (R77, R78). -/
def mcfgVal (sel : Nat) (v : Word32) : Word32 := if sel = 1 ∨ sel = 2 then v &&& 0x7F7F else v

/-- MCFG: written at the end of the repetition; a value that R77 forbids is ILLEGAL_CODE (R228). -/
def issueMcfg (sel : Nat) (v : Word32) (s : State) : Out :=
  checked [(sel == 0 && !slenOk v.toNat, .illegalCode, 0)] s
    (.next (s.updMe fun e => { e with cfgP := e.cfgP ++ [(sel, mcfgVal sel v)] }))

/-- The west tile's furthest byte of a pass of K terms. -/
def WestBind.last (b : WestBind) (k : Nat) : Nat :=
  lastByte b.base (b.eps + (b.rows - 1) * b.pitch + k - 1) (kindWidth b.kind b.fmt)

/-- R230: the checks of a PASS, in order. -/
def State.passChecks (s : State) (k nc k0 : Nat) : List Check :=
  let plane : Check := (decide ((k0 + k) * nc > 65536), .spadRange, (k0 + k) * nc - 1)
  match s.me.west with
  | none => [plane]
  | some b =>
    let l := if b.kind = 0 then none else b.skw
    [(unaligned b.base (kindWidth b.kind b.fmt), .misaligned, b.base), (s.listMis l, .misaligned, l.getD 0),
     (decide (b.last k ≥ 2 ^ 21), .spadRange, b.last k), plane, (s.listRange l, .spadRange, l.getD 0),
     (b.kind == 1 && !scaleOk (s.mcf 11), .illegalCode, 0),
     (b.kind != 0 && decide (b.rows > 1) && decide ((s.mcf 14).toNat < k), .illegalCode, 0)]

/-- PASS (R229). -/
def issuePass (stop c0 c1 k k0 : Nat) (s : State) : Out :=
  whenReady s.me.pass.isNone s (checked (s.passChecks k (c1 - c0 + 1) k0) s
    (.next (s.updMe fun e => { e with
      passes := e.passes + 1
      pass := some {
        id := e.passes + 1, cfg := e.cfg, key := s.cl.seedk, west := e.west, c0 := c0, c1 := c1, k := k, k0 := k0
        stop := stop, issue := s.cyc, baddr := s.ctx.addr, start := s.cyc } })))

/-- Every M and PE operation issued in an earlier cycle has completed (R233). -/
def issueMwait (xd : BitVec 6) (s : State) : Out :=
  whenReady (!mpeBusy s.cl s.cyc 3) s (.next (s.setReg xd (.ofNat 64 (pstatOf s.cl))))

/-! Accumulator banks (R116, R235, R238). -/

/-- Banks that an operation accesses at a stepped address. -/
def banksOf (i : Instr) (addr : Nat) : List Nat :=
  match i with
  | .drn .. | .aclr _ => [addr % 16]
  | .rstat _ nm1 _ _ => (List.range 16).filter fun b =>
      decide (addr / 64 ≤ b) && decide (b ≤ (addr + nm1.toNat) / 64)
  | _ => []

/-- A bank that an operation in flight holds busy (R238): a DRN until its last write, an ACLR until it completes; an RSTAT too, the
cycle of whose last read is not given (DESIGN CHOICE, log 36). -/
def MEng.bankBusy (e : MEng) (b : Nat) : Bool :=
  (e.drs.any fun j => !j.read && (banksOf j.op j.addr).contains b)
  || (e.aclrs.any fun j => (banksOf j.op j.addr).contains b)
  || (e.rstats.any fun j => (banksOf j.op j.addr).contains b)

def MEng.banksFree (e : MEng) (l : List Nat) : Bool := l.all fun b => !e.bankBusy b

/-- The drain of the pass most recently issued (R234), with SATTE as it stood at the start of the repetition (R235). -/
def State.drJob (s : State) (i : Instr) (addr : Nat) : DrJob :=
  let e := s.me
  let p := e.passes
  let running := match e.pass with
    | some x => x.id == p
    | none => false
  { op := i, addr := addr, pass := p, issue := s.cyc, start := if running then none else some s.cyc
    satte := s.ctx.satte.getD e.satte, shift := slenP (e.cf 0) - slenD (e.cf 0), baddr := s.ctx.addr, rpt := s.strm.rep }

def State.pushDr (s : State) (j : DrJob) : State := s.updMe fun e => { e with drs := e.drs ++ [j] }

/-- DRN (R235): `off` is the merge word's offset. -/
def issueDrn (i : Instr) (am pool : Bool) (off addr : Nat) (s : State) : Out :=
  whenReady (s.me.banksFree [addr % 16]) s (checked
    [(am && off % 4 != 0, .misaligned, off),
     (am && decide (off ≥ (if pool then 2 ^ 23 else 2 ^ 21)), .spadRange, off)] s
    (.next (s.pushDr { s.drJob i addr with
      word := if pool then s.curDie * 2 ^ 45 + 0x4000000 + off else s.spad off })))

/-- DRV (R236): the bank must be lent, and not taken back in this cycle (R209). -/
def issueDrv (i : Instr) (k addr : Nat) (s : State) : Out :=
  if s.cl.ve.lent.toNat.testBit k && !s.ctx.ret.toNat.testBit k then .next (s.pushDr (s.drJob i addr))
  else raise .illegalBundle s

/-- ACLR (R237). -/
def issueAclr (i : Instr) (addr : Nat) (s : State) : Out :=
  whenReady (s.me.banksFree [addr % 16]) s
    (.next (s.updMe fun e => { e with aclrs := e.aclrs ++ [{
      op := i, addr := addr, issue := s.cyc, due := s.cyc + 16, baddr := s.ctx.addr }] }))

/-- RSTAT (R239): the entry is reserved at issue. -/
def issueRstat (i : Instr) (n nc addr : Nat) (s : State) : Out :=
  whenReady (s.me.banksFree (banksOf i addr) && decide (s.cl.ve.rsq.length < 4)) s (checked
    [(decide (addr + n > 1024), .spadRange, addr + n - 1)] s
    (let s1 := s.updMe fun e => { e with
        rsId := e.rsId + 1
        rstats := e.rstats ++ [{ op := i, addr := addr, issue := s.cyc, due := s.cyc + 6 + ceilDiv (n * nc) 1024
                                 id := e.rsId + 1, baddr := s.ctx.addr }] }
     .next { s1 with cl := { s1.cl with ve := { s1.cl.ve with
        rsq := s1.cl.ve.rsq ++ [{ id := s.me.rsId + 1, rows := n }] } } }))

/-- SKW and SKN: bound at the end of the repetition (R240). DEDUCED (log 38). -/
def issueSkep (west : Bool) (l : Option Nat) (s : State) : Out :=
  .next (s.updMe fun e => { e with bindP := e.bindP ++ [(west, l)] })

/-! Conversion at the edges (R91 to R95). -/

/-- Source, formats and scale of one converting operation. -/
structure Conv where
  kind  : Nat
  fmt   : Nat
  rnd   : Nat
  cb    : Nat
  slen  : Word32
  scale : Word32
  key   : BitVec 256
  csid  : Word32
  ctid  : Word32
deriving DecidableEq, Repr

/-- The code of an element, and the value of its skep entry where it is an outlier. -/
def Conv.code (c : Conv) (e : MEng) (idx bits : Nat) : Byte × Option Nat :=
  match c.kind with
  | 0 => (.ofNat 8 bits, none)
  | 1 =>
    let u := if c.rnd = 2 then genWord c.key idx c.csid c.ctid else 0
    let r := toCode (slenP c.slen) (slenXB c.slen) c.scale (.ofBits c.rnd) u (elemVal c.fmt bits)
    (r.1, if r.2 then some (outlierVal c.fmt bits) else none)
  | _ =>
    let b := e.cb.get {} c.cb
    (b.codes.get 0 bits, if b.flags.toNat.testBit bits then some (widenBF (b.entries.get 0 bits).toNat) else none)

/-- A cause met after issue, in the M stream (R243). -/
def mTrap (c : Cause) (baddr : BitVec 17) (faddr : Nat := 0) : Trap :=
  { str := .m, cause := c.code, faddr := faddr, baddr := baddr }

/-- An uncorrectable error met by an M or PE operation (R387). -/
def mMemErr (gr : Nat) (baddr : BitVec 17) : Trap :=
  { mTrap .memUncorr baddr (gr * 8) with detail := 3, memErr := true }

/-! Elements of a pass's setup and of a load (R224, R225, R231). -/

def PassSt.conv (p : PassSt) (b : WestBind) : Conv :=
  { kind := b.kind, fmt := b.fmt, rnd := b.rnd, cb := b.cb, slen := p.slen, scale := p.c 11 0x3F800000, key := p.key
    csid := p.c 16 0, ctid := p.c 17 0 }

/-- Position and logical index of setup element x of the west binding b. -/
def PassSt.elemPos (p : PassSt) (b : WestBind) (x : Nat) : Nat := b.eps + x / p.k * b.pitch + x % p.k
def PassSt.elemIdx (p : PassSt) (b : WestBind) (x : Nat) : Nat :=
  ((p.c 13 0).toNat + b.eps + x / p.k * (p.c 14 0).toNat + x % p.k) % 2 ^ 32

/-- Positions of a load. -/
def NldJob.count (j : NldJob) : Nat :=
  match j.op with
  | .nld _ _ _ _ _ nm1 => nm1.toNat + 1
  | _ => 0

def NldJob.conv (j : NldJob) : Conv :=
  let c (sel : Nat) : Word32 := j.cfg.get (mcfgDef sel) sel
  match j.op with
  | .nld _ kind fmt rnd cb _ =>
    { kind := kind.toNat, fmt := fmt.toNat, rnd := rnd.toNat, cb := cb.toNat, slen := c 0, scale := c 12, key := j.key
      csid := c 16, ctid := c 17 }
  | _ => { kind := 0, fmt := 0, rnd := 0, cb := 0, slen := c 0, scale := c 12, key := j.key, csid := 0, ctid := 0 }

/-- Logical index of position n of the load. -/
def NldJob.elemIdx (j : NldJob) (n : Nat) : Nat := ((j.cfg.get 0 15).toNat + j.eps + n) % 2 ^ 32

/-- Element pos of a converting operation is an outlier. -/
def State.outlier (s : State) (c : Conv) (base pos idx : Nat) : Bool :=
  (c.code s.me idx (s.spadElem base pos (kindWidth c.kind c.fmt))).2.isSome

/-- Entries that the load in flight, for the pass, or the pass, for the load, is still to append to the list l. -/
def State.ahead (s : State) (west : Bool) (l : Option Nat) : Nat :=
  if west then match s.me.nld with
    | some j => if j.skn = l then
        ((List.range (j.count - j.pos)).filter fun i => s.outlier j.conv j.base (j.eps + j.pos + i) (j.elemIdx (j.pos + i))).length
      else 0
    | none => 0
  else match s.me.pass.bind fun p => p.west.map fun b => (p, b) with
    | some (p, b) => if b.skw = l ∧ p.phase = 1 then
        ((List.range (p.rows * p.k - p.setup)).filter fun i =>
          s.outlier (p.conv b) b.base (p.elemPos b (p.setup + i)) (p.elemIdx b (p.setup + i))).length
      else 0
    | none => 0

/-- The list at o has room for one more entry after those that wait and those that the earlier operation is still to append. -/
def State.roomAfter (s : State) (west : Bool) (o : Nat) : Bool :=
  decide (s.skepCnt o + s.ahead west (some o) + (s.me.later.filter (·.1 == o)).length < s.skepCap o)

/-- One element read and converted, its outlier appended: the code, or the cause that stops it (R91 to R93). `wait` says that an
operation issued earlier still appends to the list: the entry then waits for it, if the list has room for it after those that
come before (R92, R93; DESIGN CHOICE, log 88). -/
def State.convElem (s : State) (west : Bool) (c : Conv) (base pos idx : Nat) (list : Option Nat) (wait : Bool) (baddr : BitVec 17) :
    Except Trap (Byte × State) :=
  let w := kindWidth c.kind c.fmt
  match s.spadBad base pos w with
  | some g => .error (mMemErr g baddr)
  | none =>
    match c.code s.me idx (s.spadElem base pos w) with
    | (x, none) => .ok (x, s)
    | (x, some v) =>
      match s.skepBad list with
      | some g => .error (mMemErr g baddr)
      | none =>
        if wait && list.isSome then
          (if s.roomAfter west (list.getD 0) then
            .ok (x, s.updMe fun e => { e with later := e.later ++ [(list.getD 0, idx, v, baddr)] })
          else .error (mTrap .skepFull baddr))
        else match s.skepAppend list idx v with
        | some t => .ok (x, t)
        | none => .error (mTrap .skepFull baddr)

/-! A pass, cycle by cycle (R231). -/

def PassSt.total (p : PassSt) : Nat := (p.rows + p.nc) * p.k

/-- The load still converts elements whose outliers go to the list l. -/
def NldJob.appends (j : NldJob) (l : Option Nat) : Bool :=
  decide (j.pos < j.count) && j.skn == l && match j.op with
    | .nld _ kind _ _ _ _ => kind != 0
    | _ => false

/-- The pass still converts elements whose outliers go to the list l. -/
def PassSt.appends (p : PassSt) (l : Option Nat) : Bool :=
  match p.west with
  | some b => p.phase == 1 && decide (p.setup < p.rows * p.k) && b.kind != 0 && b.skw == l
  | none => false

/-- Entries for the list l wait to be appended. -/
def State.waiting (s : State) (l : Option Nat) : Bool := s.me.later.any fun x => some x.1 == l

/-- An outlier of the pass waits for a load issued before it, or with it, on the same list (R92, R114). -/
def State.nldFirst (s : State) (p : PassSt) (l : Option Nat) : Bool :=
  s.me.nld.any fun j => decide (j.issue ≤ p.issue) && (j.appends l || (j.skn == l && s.waiting l))

/-- An outlier of the load waits for a pass issued before it on the same list. -/
def State.passFirst (s : State) (j : NldJob) : Bool :=
  s.me.pass.any fun p => decide (p.issue < j.issue) &&
    (p.appends j.skn || (p.west.any (·.skw == j.skn) && s.waiting j.skn))

/-- The operation in flight that was issued first still appends to the list at o. -/
def State.appending (s : State) (o : Nat) : Bool :=
  match s.me.nld, s.me.pass with
  | some j, some p => if j.issue ≤ p.issue then j.appends (some o) else p.appends (some o)
  | some j, none => j.appends (some o)
  | none, some p => p.appends (some o)
  | none, none => false

/-- Element x of the setup order: read, converted and checked under R75. A flagged C4 element whose code fails R75 appends
nothing (DESIGN CHOICE, log 89). -/
def State.setupElem (s : State) (p : PassSt) (x : Nat) : Except Trap (PassSt × State) :=
  if x < p.rows * p.k then
    match p.west with
    | none => .ok (p, s)
    | some b =>
      match s.convElem true (p.conv b) b.base (p.elemPos b x) (p.elemIdx b x) b.skw (s.nldFirst p b.skw) p.baddr with
      | .error t => .error t
      | .ok (y, s1) =>
        if codeOk p.pp p.xb y then .ok ({ p with wcode := p.wcode.set 0 (x / p.k * 65536 + x % p.k) y }, s1)
        else .error (mTrap .illegalCode p.baddr)
  else
    let k := (x - p.rows * p.k) / p.nc
    let i := (x - p.rows * p.k) % p.nc
    let a := winBase s.cur + offPlane + (p.k0 + k) * p.nc + i
    match s.badRead a 1 with
    | some g => .error (mMemErr g p.baddr)
    | none =>
      let y := s.rd8 a
      if codeOk p.pp p.xb y then .ok ({ p with ncode := p.ncode.set 0 (k * 256 + p.c0 + i) y }, s)
      else .error (mTrap .illegalCode p.baddr)

def State.setPass (s : State) (p : PassSt) : State := s.updMe fun e => { e with pass := some p }

/-- n elements of the setup order, or up to the cause that stops them. -/
def setupRun : Nat → PassSt → State → State × Option Trap
  | 0, p, s => (s.setPass p, none)
  | n + 1, p, s =>
    match s.setupElem p p.setup with
    | .error t => (s.setPass p, some t)
    | .ok (q, s1) => setupRun n { q with setup := p.setup + 1 } s1

/-- Length of the setup phase. -/
def PassSt.setupTime (p : PassSt) : Nat := 4 + ceilDiv p.total 512

/-- Early stop after o outer indices (R89). -/
def PassSt.stopCheck (p : PassSt) (o : Nat) : PassSt :=
  let l := p.selRows.filter fun r => p.settled r o
  { p with nset := l.length, stopped := decide (l.length = p.selRows.length) }

/-- One cycle word counted, and what follows it: the next word, the next outer index with its StopCheck, or the hold,
where OUTER and KSTEP read 0 and SETUP stays (DESIGN CHOICE, log 109). -/
def PassSt.advance (p : PassSt) (now : Nat) : PassSt :=
  let q := p.streamWord
  if q.kstep + 1 < q.words then { q with kstep := q.kstep + 1 }
  else
    let o := q.outer + 1
    let q1 := { q with kstep := 0, outer := o, odone := o }
    if o = q1.outers then { q1 with phase := 3, start := now, outer := 0 }
    else if q1.packed || q1.stop = 0 then q1
    else
      let q2 := q1.stopCheck o
      if q2.stopped then { q2 with phase := 3, start := now, outer := 0 } else q2

/-- What the pass does in cycle t. -/
def tickPass (t : Nat) (s : State) : State × Option Trap :=
  match s.me.pass with
  | none => (s, none)
  | some p =>
    match p.phase with
    | 1 =>
      let (s1, x) := setupRun (Nat.min p.total (512 * (t - p.issue - 3)) - p.setup) p s
      match x with
      | some e => (s1, some e)
      | none =>
        match s1.me.pass with
        | some q =>
          if q.setup = q.total ∧ p.issue + p.setupTime ≤ t then (s1.setPass { q with phase := 2, start := t }, none)
          else (s1, none)
        | none => (s1, none)
    | 2 =>
      if p.outer * p.words + p.kstep < t - p.start then
        (match p.badCount with
         | some g => (s, some (mMemErr (s.counterGranule g) p.baddr))
         | none => (s.setPass (p.advance t), none))
      else (s, none)
    | _ => (s, none)

/-! NLD (R225). -/

/-- n positions of the load. The record of a load that SKEP_FULL stops shows no position: only the load itself keeps it
(DESIGN CHOICE, log 90). -/
def nldRun : Nat → NldJob → State → State × Option Trap
  | 0, j, s => (s.updMe fun e => { e with nld := some j }, none)
  | n + 1, j, s =>
    match s.convElem false j.conv j.base (j.eps + j.pos) (j.elemIdx j.pos) j.skn (s.passFirst j) j.baddr with
    | .error t => (s.updMe fun e => { e with nld := some j }, some t)
    | .ok (x, s1) =>
      let a := winBase s.cur + offShadow + j.pos
      match s1.badWrite a 1 with
      | some g => (s.updMe fun e => { e with nld := some j }, some (mMemErr g j.baddr))
      | none => nldRun n { j with pos := j.pos + 1 } (s1.store a [x])

def tickNld (t : Nat) (s : State) : State × Option Trap :=
  match s.me.nld with
  | none => (s, none)
  | some j => nldRun (Nat.min j.count (256 * (t - j.issue - 3)) - j.pos) j s

/-! Drains (R234 to R236). -/

def DrJob.am (j : DrJob) : Bool := match j.op with
  | .drn _ _ am _ _ _ _ => am == 1
  | _ => false

/-- Cycles from s to the end of reading, and to completion (R241). -/
def DrJob.readTime (j : DrJob) : Nat := match j.op with
  | .drv .. => 4
  | _ => 16
def DrJob.doneTime (j : DrJob) : Nat := if j.am then 20 else j.readTime

/-- The value a drain takes from cell (r, c) (R86). -/
def State.drained (s : State) (j : DrJob) (r c : Nat) : Int :=
  if j.pass = 0 then 0
  else
    let w := s.me.dslen.getD 0x3F
    (s.me.dcnt.get 0 (r * 256 + c)).toInt * (2 ^ (slenP w - slenD w) : Nat)

/-- A counter of rows and columns c0 to c1 that a drain takes and cannot read (R387, R448). -/
def State.badDrained (s : State) (j : DrJob) (rows : Nat → Bool) (c0 c1 : Nat) : Option Nat :=
  if j.pass = 0 then none else (badCell s.me.dbad rows c0 c1).map fun g => s.counterGranule (0x8000 + g)

/-- One row of a DRN: 256 words written, and the largest magnitude and saturation so far. -/
def drnRow (j : DrJob) (acc : Bool) (b h row : Nat) (s : State) : State × Nat × Bool :=
  let vals : List (Int × Bool) := (List.range 256).map fun col =>
    let x := s.drained j (64 * h + row) col
      + (if acc then toSigned 32 (s.rdLE (s.accAddr b row col) 4) else 0)
    (sat32 x, decide (sat32 x ≠ x))
  (s.store (s.accAddr b row 0) (vals.flatMap fun v => bytesOf (ofInt 32 v.1) 4),
   vals.foldl (fun m v => Nat.max m v.1.natAbs) 0, vals.any (·.2))

/-- n rows of a DRN from its cursor (R235), up to a row whose words cannot be read (R387). DEDUCED (log 36). -/
def drnRows (acc : Bool) : Nat → State → DrJob → State × DrJob × Option Trap
  | 0, s, q => (s, { q with read := true }, none)
  | n + 1, s, q =>
    let b := q.addr % 16
    match (s.badDrained q (· == 64 * (q.addr / 16) + q.row) 0 255).or
      (if acc then s.badRead (s.accAddr b q.row 0) 1024 else none) with
    | some g => (s, q, some (mMemErr g q.baddr))
    | none =>
      let (s1, m, sat) := drnRow q acc b (q.addr / 16) q.row s
      drnRows acc n s1 { q with row := q.row + 1, mag := Nat.max q.mag m, sat := q.sat || sat }

/-- The lanes of a DRV (R236). -/
def drvCells : List (Nat × Nat × Nat) :=
  (List.range 16).flatMap fun j => engineLanes.map fun x => (j, x.1, x.2)
where engineLanes : List (Nat × Nat) := (List.range 128).map fun e => (e / 16, e % 16)

/-- A counter that a DRV takes and cannot read: 16 columns from c0, modulo 256. -/
def State.badDrv (s : State) (j : DrJob) (half c0 : Nat) : Option Nat :=
  (s.badDrained j (· / 128 == half) c0 (c0 + 15)).or
    (if c0 + 15 < 256 then none else s.badDrained j (· / 128 == half) 0 (c0 + 15 - 256))

def drvWrite (j : DrJob) (k half c0 : Nat) (s : State) : State × DrJob :=
  let vals : List (Nat × Int) := drvCells.map fun x =>
    ((x.2.1 * 64 + 16 * k + x.1) * 16 + x.2.2, s.drained j (128 * half + 16 * x.2.1 + x.2.2) ((c0 + x.1) % 256))
  ({ s with cl := { s.cl with ve := { s.cl.ve with
      v := vals.foldl (fun m x => m.set 0 x.1 (.ofNat 32 (ofInt 32 (sat32 x.2)))) s.cl.ve.v } } },
   { j with sat := j.sat || vals.any fun x => decide (sat32 x.2 ≠ x.2) })

/-- The reads and writes of one drain. -/
def drainWork (j : DrJob) (s : State) : State × DrJob × Option Trap :=
  match j.op with
  | .drn _ acc _ _ _ _ _ => drnRows (acc = 1) (64 - j.row) s j
  | .drv k half _ =>
    match s.badDrv j half.toNat j.addr with
    | some g => (s, j, some (mMemErr g j.baddr))
    | none =>
      let (s1, q) := drvWrite j k.toNat half.toNat j.addr s
      (s1, { q with read := true }, none)
  | _ => (s, { j with read := true }, none)

/-- The drains whose cycle t it is to read, in issue order. -/
def tickDrains (t : Nat) : List DrJob → List DrJob → State → State × Option Trap
  | [], done, s => (s.updMe fun e => { e with drs := done }, none)
  | j :: l, done, s =>
    if !j.read && (match j.start with
        | some x => decide (x + j.readTime ≤ t)
        | none => false) then
      match drainWork j s with
      | (s1, q, none) =>
        tickDrains t l (done ++ [q])
          (if q.sat then { s1 with cl := s1.cl.orM 0x20 } else s1)
      | (s1, q, some x) => (s1.updMe fun e => { e with drs := done ++ q :: l }, some x)
    else tickDrains t l (done ++ [j]) s

/-- Entries that waited are appended, in their order, up to one whose list an operation issued earlier still appends to, or
one that cannot be appended, which takes a program that writes the list meanwhile (R93). -/
def appendLater : List (Nat × Nat × Nat × BitVec 17) → State → State × Option Trap
  | [], s => (s.updMe fun e => { e with later := [] }, none)
  | x :: l, s =>
    if s.appending x.1 then (s.updMe fun e => { e with later := x :: l }, none)
    else match s.skepBad (some x.1) with
    | some g => (s.updMe fun e => { e with later := x :: l }, some (mMemErr g x.2.2.2))
    | none =>
      match s.skepAppend (some x.1) x.2.1 x.2.2.1 with
      | some s1 => appendLater l s1
      | none => (s.updMe fun e => { e with later := x :: l }, some (mTrap .skepFull x.2.2.2))

/-- The next of two works of a cycle, where the first has met no cause. -/
def thenDo (r : State × Option Trap) (f : State → State × Option Trap) : State × Option Trap :=
  match r with
  | (s, none) => f s
  | r => r

/-- The pass and the load work in the order of their issue, for both may append to one list (R92). -/
def tickEdges (t : Nat) (s : State) : State × Option Trap :=
  match s.me.nld, s.me.pass with
  | some j, some p => if j.issue ≤ p.issue then thenDo (tickNld t s) (tickPass t) else thenDo (tickPass t s) (tickNld t)
  | _, _ => thenDo (tickPass t s) (tickNld t)

/-- What the matrix engines do in cycle t, before its completions: a pass that converts in the cycle in which a CBLD completes
takes the old codes (DESIGN CHOICE, log 91). -/
def tickMatrix (t : Nat) (s : State) : State × Option Trap :=
  thenDo (thenDo (tickEdges t s) fun s => appendLater s.me.later s) fun s => tickDrains t s.me.drs [] s

/-! Completions. Each is due in the cycle that R241 gives; the meaning completes the first one due. -/

/-- The first entry that a test accepts, and the list without it. -/
def takeFirst {α : Type} (p : α → Bool) : List α → Option (α × List α)
  | [] => none
  | a :: t => if p a then some (a, t) else (takeFirst p t).map fun x => (x.1, a :: x.2)

def DrJob.due (j : DrJob) (t : Nat) : Bool := j.read && match j.start with
  | some x => decide (x + j.doneTime ≤ t)
  | none => false

/-- A semaphore released by an engine operation, credited to M (R143). -/
def State.engRelease (s : State) (sem : Nat) (baddr : BitVec 17) : State :=
  { s with cl := { s.cl with engP := s.cl.engP ++ [(sem, baddr)] } }

/-- AtomicMaxU32 at the merge word (R235). -/
def State.absMax (s : State) (j : DrJob) : State :=
  let v := (roundTo 23 .raz 0 false false j.mag 0).bits
  s.store j.word (bytesOf (Nat.max (s.rdLE j.word 4) v) 4)

/-- The trap of a saturating drain: the record's RPT names the DRN's repetition (R235). DEDUCED (log 40). -/
def State.accSaturate (s : State) (j : DrJob) : State :=
  let live := !s.cl.flt.valid
  let s1 := s.takeFault (mTrap .accSaturate j.baddr)
  if live then
    let f := s1.cl.flt
    { s1 with cl := { s1.cl with flt := { f with
        mstep := .ofNat 64 (f.mstep.toNat % 2 ^ 52 + j.rpt % 2 ^ 12 * 2 ^ 52) } } }
  else s1

/-- DRAIN_COMPLETE (R235, R236): merge, semaphore release, possible ACC_SATURATE. -/
def execDrainComplete (s : State) : Out :=
  match takeFirst (·.due s.cyc) s.me.drs with
  | none => .next s
  | some (j, l) =>
    match if j.am then s.badWrite j.word 4 else none with
    | some g => .next (s.takeFault (mMemErr g j.baddr))
    | none =>
      let s1 := s.updMe fun e => { e with drs := l }
      let s2 := if j.am then s1.absMax j else s1
      let s3 := match j.op with
        | .drn _ _ _ _ _ se sem => if se = 1 then s2.engRelease sem.toNat j.baddr else s2
        | _ => s2
      .next (if j.satte && j.sat then s3.accSaturate j else s3)

/-- ACLR_COMPLETE (R237): every word of the bank is 0, all of them from the completion cycle on (DESIGN CHOICE, log 36). -/
def execAclrComplete (s : State) : Out :=
  match takeFirst (fun j => decide (j.due ≤ s.cyc)) s.me.aclrs with
  | none => .next s
  | some (j, l) =>
    .next ((s.updMe fun e => { e with aclrs := l }).storeZero (s.accAddr (j.addr % 16) 0 0) 0x10000)

/-- Words C0 to C1 of accumulator row r (R239). -/
def State.accRow (s : State) (r c0 nc : Nat) : List Int :=
  (List.range nc).map fun i => toSigned 32 (s.rdLE (s.accAddr (r / 64) (r % 64) (c0 + i)) 4)

/-- RoundF32 of an integer, nearest even. -/
def f32OfInt (x : Int) : FRes := roundTo 23 .rne 0 false (decide (x < 0)) x.natAbs 0

/-- MAX, SUM and SSQ of one row, with the flags met (R239). -/
def rowStat (l : List Int) : Nat × Nat × Nat × Flags :=
  let mx := f32OfInt (l.foldl (fun a b => if a < b then b else a) (l.headD 0))
  let v := l.map f32OfInt
  let q := l.map fun x => f32OfInt (x * x)
  let sm := treeSum (v.map (·.bits))
  let sq := treeSum (q.map (·.bits))
  (mx.bits, sm.bits, sq.bits, (v ++ q).foldl (fun f r => f ||| r.flags) (mx.flags ||| sm.flags ||| sq.flags))

/-- RSTAT_COMPLETE (R239): the rows are read in the completion cycle (DESIGN CHOICE, log 36) and the entry becomes receivable. -/
def execRstatComplete (s : State) : Out :=
  match takeFirst (fun j => decide (j.due ≤ s.cyc)) s.me.rstats with
  | none => .next s
  | some (j, l) =>
    match j.op with
    | .rstat _ nm1 c0 c1 =>
      let n := nm1.toNat + 1
      let nc := c1.toNat - c0.toNat + 1
      match (List.range n).findSome? fun i =>
          s.badRead (s.accAddr ((j.addr + i) / 64) ((j.addr + i) % 64) c0.toNat) (4 * nc) with
      | some g => .next (s.takeFault (mMemErr g j.baddr))
      | none =>
        let st := (List.range n).map fun i => rowStat (s.accRow (j.addr + i) c0.toNat nc)
        let put (f : Nat × Nat × Nat × Flags → Nat) : SMap Word32 :=
          (List.range n).foldl (fun m i => m.set 0 i (.ofNat 32 (f (st.getD i (0, 0, 0, 0))))) []
        let fl := st.foldl (fun f x => f ||| x.2.2.2) (0 : Flags)
        let s1 := s.updMe fun e => { e with rstats := l }
        .next { s1 with cl := { s1.cl.orM (flags6 false fl) with ve := { s1.cl.ve with
          rsq := s1.cl.ve.rsq.map fun r => if r.id = j.id
            then { r with ready := true, mx := put (·.1), sum := put (·.2.1), ssq := put (·.2.2.1) } else r } } }
    | _ => .next (s.updMe fun e => { e with rstats := l })

/-- The load has written its last position and its time has come (R241). -/
def NldJob.due (j : NldJob) (t : Nat) : Bool :=
  decide (j.count ≤ j.pos) && decide (j.issue + 4 + ceilDiv j.count 256 ≤ t)

/-- NLD_COMPLETE (R225). -/
def execNldComplete (s : State) : Out :=
  match s.me.nld with
  | none => .next s
  | some j => .next (if j.due s.cyc then s.updMe fun e => { e with nld := none } else s)

/-- The codes and flags of a codebook's entries (R94). -/
def codebookOf (slen scale : Word32) (l : List Nat) : Codebook :=
  let r := l.map fun x => toCode (slenP slen) (slenXB slen) scale .rne 0 (elemVal 6 x)
  { entries := (List.range 16).foldl (fun m i => m.set 0 i (.ofNat 16 (l.getD i 0))) []
    codes := (List.range 16).foldl (fun m i => m.set 0 i (r.getD i (0, false)).1) []
    flags := .ofNat 16 (ofBits (r.map (·.2))) }
where ofBits : List Bool → Nat
  | [] => 0
  | b :: t => b2n b + 2 * ofBits t

/-- CBLD_COMPLETE (R227): the table is read in the completion cycle (DESIGN CHOICE, log 36). -/
def execCbldComplete (s : State) : Out :=
  match takeFirst (fun j => decide (j.due ≤ s.cyc)) s.me.cblds with
  | none => .next s
  | some (j, l) =>
    match s.badRead (s.spad j.base) 32 with
    | some g => .next (s.takeFault (mMemErr g j.baddr))
    | none =>
      let ent := (List.range 16).map fun i => s.rdLE (s.spad (j.base + 2 * i)) 2
      .next (s.updMe fun e => { e with cblds := l, cb := e.cb.set {} j.cb (codebookOf j.slen j.scale ent) })

/-- A pass in phase 3 ends once every DR operation issued before it has read (R231, R234). -/
def MEng.passDue (e : MEng) : Bool :=
  match e.pass with
  | some p => p.phase == 3 && e.drs.all fun j => j.read || decide (p.id ≤ j.pass)
  | none => false

/-- PASS_END (R232): the active counters become the draining ones, and the pass's drains start. -/
def execPassEnd (s : State) : Out :=
  match s.me.pass with
  | none => .next s
  | some p =>
    if s.me.passDue then
      .next (s.updMe fun e => { e with
        pass := none, dcnt := p.cnt, dbad := p.bad, dslen := some p.slen
        odone := if p.packed then 1 else p.odone, stopped := p.stopped, nset := p.nset
        drs := e.drs.map fun j => if j.pass = p.id ∧ j.start.isNone then { j with start := some s.cyc } else j })
    else .next s

end Sys2Proof.Machine
end

