-- ==== Sys2Proof/Machine/Xlate.lean ====
section
/-! DEFINITION. The memory map as the copy engines reach it (11 R293, R294; 18 R367) and translation: walks, permissions,
pins and invalidation (19 R375 to R381). -/
namespace Sys2Proof.Machine

/-! Homes (R293, R294). -/

/-- The tier that holds a physical address. -/
inductive Tier
  /-- the window of a logical cluster -/
  | window
  | pool
  | dram
  | lpddr
  | host
  /-- a control block or a hole -/
  | none
deriving DecidableEq, Repr

def isHost (pa : Nat) : Bool := decide (pa / 2 ^ 51 % 2 = 1)
def paDie (pa : Nat) : Nat := pa / 2 ^ 45 % 64
def paLocal (pa : Nat) : Nat := pa % 2 ^ 45

def tierOf (pa : Nat) : Tier :=
  let o := paLocal pa
  if isHost pa then .host
  else if o < 0x4000000 then .window
  else if o < 0x4800000 then .pool
  else if 0x1000000000 ≤ o ∧ o < 0x1600000000 then .dram
  else if 0x10000000000 ≤ o ∧ o < 0x14000000000 then .lpddr
  else .none

/-- The cluster whose window holds the address, and the offset there. -/
def paKey (pa : Nat) : Nat := clKey (paDie pa) (paLocal pa / 0x400000)
def paOff (pa : Nat) : Nat := pa % 0x400000

/-- A window offset that a copy engine may reach (R294). -/
def windowOpen (own write : Bool) (off : Nat) : Bool :=
  decide (0x100000 ≤ off) || (own && write && decide (off < 0x40000))

/-- The firmware region, or the checkpoint region of the address's die (R367, R378, R391). -/
def State.reserved (s : State) (pa : Nat) : Bool :=
  let o := paLocal pa
  let ck := (s.die (paDie pa)).ckbase.toNat
  (decide (0x15F0000000 ≤ o) && decide (o < 0x1600000000))
    || (ck != 0 && decide (ck ≤ o) && decide (o < ck + 192 * 2 ^ 20))

/-- What the copy engine of the cluster in focus may not do at pa: the detail of XLATE_PERM (R378). -/
def State.unreachable (s : State) (pa : Nat) (write : Bool) : Option Nat :=
  match tierOf pa with
  | .host => none
  | .window =>
    if paDie pa = s.curDie ∧ windowOpen (paKey pa == s.cur) write (paOff pa) then none else some 3
  | .none => some 3
  | _ => if s.reserved pa then some 4 else none

/-- The home of pa lies on an absent die, or on one without a route (R10, R274, R409). -/
def State.targetDown (s : State) (pa : Nat) : Bool :=
  if isHost pa then false
  else !(s.die (paDie pa)).present || (s.hops s.curDie (paDie pa)).isNone

/-! Walks (R375 to R377). -/

/-- Why a translation fails: cause, detail, and the address of FADDR where it is not the virtual address. -/
structure XFail where
  cause  : Cause
  detail : Nat := 0
  at_    : Option Nat := none
deriving DecidableEq, Repr

/-- A table entry may be read at a (R377). -/
def State.walkable (s : State) (a : Nat) : Bool :=
  match tierOf a with
  | .host => true
  | .pool | .dram | .lpddr => (s.die (paDie a)).present
  | _ => false

/-- A page of the tables: its virtual base and size, its physical base, and HELD, W, R in bits 2 to 0. -/
structure Page where
  vbase : Nat
  size  : Nat
  phys  : Nat
  perm  : Nat
deriving DecidableEq, Repr

/-- Levels lvl − 1 down to 0 of the walk, from the table at t. -/
def State.walk (s : State) (va : Nat) : Nat → Nat → Except XFail Page
  | 0, _ => .error { cause := .xlateMiss, detail := 1 }
  | lvl + 1, t =>
    let a := t + 8 * (va / 2 ^ (16 + 9 * lvl) % 512)
    if !s.walkable a then .error { cause := .xlateMiss, detail := 3 }
    else match s.badRead a 8 with
    | some g => .error { cause := .memUncorr, detail := 5, at_ := some (g * 8) }
    | none =>
      let e := s.rdLE a 8
      let sz := 16 + 9 * lvl
      if !bit e 0 then .error { cause := .xlateMiss, detail := 0 }
      else if field e 63 52 ≠ 0 ∨ field e 11 5 ≠ 0 then .error { cause := .xlateMiss, detail := 1 }
      else if bit e 1 then
        if lvl = 3 ∨ field e (sz - 1) 12 ≠ 0 then .error { cause := .xlateMiss, detail := 1 }
        else .ok { vbase := va / 2 ^ sz * 2 ^ sz, size := 2 ^ sz, phys := field e 51 12 * 4096, perm := field e 4 2 }
      else if lvl = 0 ∨ field e 4 2 ≠ 0 then .error { cause := .xlateMiss, detail := 1 }
      else State.walk s va lvl (field e 51 12 * 4096)

/-- The root of the job of the task in focus (R375). -/
def State.root (s : State) : Nat :=
  match s.cl.task with
  | none => 0
  | some r => ((s.jobs.find? fun j => j.lead == r.lead && j.slot == r.slot).map (·.root)).getD 0

/-- A pinned entry that a lookup may use (R379, R381). -/
def TlbEntry.hits (e : TlbEntry) (root va : Nat) : Bool :=
  e.root == root && e.inval.isEmpty && decide (e.vbase ≤ va) && decide (va < e.vbase + e.size)

/-- Translate (R377): a pinned entry is used while it stands; else the tables are walked. -/
def State.translate (s : State) (va : Nat) : Except XFail Page :=
  let root := s.root
  if va ≥ 2 ^ 52 then .error { cause := .xlateMiss, detail := 2 }
  else match (s.die s.curDie).tlb.find? (·.hits root va) with
  | some e => .ok { vbase := e.vbase, size := e.size, phys := e.phys, perm := e.perm }
  | none => if root = 0 then .error { cause := .xlateMiss, detail := 0 } else s.walk va 4 (root * 4096)

/-- The physical address of va on a page. -/
def Page.pa (p : Page) (va : Nat) : Nat := p.phys + (va - p.vbase)

/-! Checks of one page, in the order of R274 and R378. -/

/-- How a command uses a page: reading, writing `n` bytes of it, or an atomic. -/
inductive Access
  | read
  | write (bytes : Nat)
  | ramo (result : Bool)
deriving DecidableEq, Repr

/-- XLATE_PERM of an access to the page at pa. -/
def State.denied (s : State) (p : Page) (pa : Nat) : Access → Option Nat
  | .read => if !bit p.perm 0 then some 0 else s.unreachable pa false
  | .write n =>
    if !bit p.perm 1 then some 1
    else match s.unreachable pa true with
    | some d => some d
    | none => if bit p.perm 2 ∧ 64 < n then some 5 else none
  | .ramo res =>
    if !bit p.perm 0 then some 0
    else if !bit p.perm 1 then some 1
    else if isHost pa then some 2
    else if tierOf pa = .window ∨ tierOf pa = .none then some 3
    else if s.reserved pa then some 4
    else if bit p.perm 2 ∧ res then some 5
    else none

/-- One page that a command touches at byte va; a page it has met before is not walked again. -/
def State.checkPage (s : State) (va : Nat) (met : Option Page) (k : Page → Access) : Except (XFail × Nat) Page :=
  match (match met with
    | some p => Except.ok p
    | none => s.translate va) with
  | .error f => .error (f, va)
  | .ok p =>
    match s.denied p (p.pa va) (k p) with
    | some d => .error ({ cause := .xlatePerm, detail := d }, va)
    | none => if s.targetDown (p.pa va) then .error ({ cause := .targetDown }, va) else .ok p

/-- The pages that a command touches, by the first byte it touches in each 64 KiB, in order; `k` says how it uses each page.
`seen` are the pages met so far with the first byte touched in each, which FADDR names where a later part of the page
fails. -/
def State.checkPages (s : State) (k : Page → Access) (seen : List (Nat × Page)) :
    List Nat → Except (XFail × Nat) (List (Nat × Page))
  | [] => .ok []
  | va :: l =>
    let q := seen.find? fun x => decide (x.2.vbase ≤ va) && decide (va < x.2.vbase + x.2.size)
    match s.checkPage va (q.map (·.2)) k with
    | .error f => .error (f.1, (q.map (·.1)).getD f.2)
    | .ok p =>
      match State.checkPages s k (if q.isSome then seen else (va, p) :: seen) l with
      | .error f => .error f
      | .ok r => .ok ((va, p) :: r)

/-! Pins (R379). -/

/-- Entries pinned by the commands of a logical cluster: an entry selected for invalidation counts until it goes. -/
def Die.pinnedBy (d : Die) (cl : Nat) : List TlbEntry := d.tlb.filter fun e => e.pins.any fun p => p.1 == cl

/-- The pages of a command with the first byte it touches in each, in order of first touch, none twice. -/
def distinctPages (l : List (Nat × Page)) : List (Nat × Page) :=
  l.foldl (fun r p => if r.any (fun q => q.2.vbase == p.2.vbase && q.2.size == p.2.size) then r else r ++ [p]) []

/-- The entry that holds this page of the root and that no invalidation has selected (R379). -/
def TlbEntry.holds (e : TlbEntry) (root : Nat) (p : Page) : Bool :=
  e.root == root && e.inval.isEmpty && e.vbase == p.vbase && e.size == p.size

/-- The command would take its cluster past 128 pinned entries, new ones that `Die.pin` makes included; a die's 16 clusters so
pin at most 2,048 (R379). -/
def State.overPinned (s : State) (l : List Page) : Bool :=
  let mine := (s.die s.curDie).pinnedBy s.curCl
  decide (mine.length + (l.filter fun p => !mine.any (·.holds s.root p)).length > 128)

/-- One page pinned by a command of the cluster in focus. -/
def Die.pin (d : Die) (root cl ch : Nat) (id : Word32) (p : Page) : Die :=
  if d.tlb.any (·.holds root p) then
    { d with tlb := d.tlb.map fun e => if e.holds root p then { e with pins := e.pins ++ [(cl, ch, id)] } else e }
  else
    { d with tlb := d.tlb ++ [{ root := root, vbase := p.vbase, size := p.size, phys := p.phys, perm := p.perm
                                pins := [(cl, ch, id)] }] }

def State.pinAll (s : State) (ch : Nat) (id : Word32) (l : List Page) : State :=
  s.updDie s.curDie fun d => l.foldl (fun d p => d.pin s.root s.curCl ch id p) d

/-- An entry selected by the invalidation that die x has in progress. -/
def Die.selects (x : Die) (e : TlbEntry) : Bool :=
  match x.invrun.toNat with
  | 0 => e.root == x.invroot && decide (e.vbase ≤ x.invpage.toNat * 65536) && decide (x.invpage.toNat * 65536 < e.vbase + e.size)
  | 1 => e.root == x.invroot
  | _ => true

/-- BUSY clears when every selected entry of every targeted die has been removed (R381). -/
def State.settleInval (s : State) : State :=
  { s with dies := s.dies.map fun x =>
      if x.2.invbusy && !x.2.invwait then
        let left (d : Die) : Bool := d.tlb.any fun e => e.inval.contains x.1
        (x.1, { x.2 with invbusy := if x.2.invwide then s.dies.any (fun y => left y.2) else left x.2 })
      else x }

/-- A command's pins released; an entry with none left is gone (R379). -/
def State.unpin (s : State) (k ch : Nat) (id : Word32) : State :=
  (s.updDie (k / 16) fun d => { d with tlb := (d.tlb.map fun e =>
      { e with pins := e.pins.erase (k % 16, ch, id) }).filter fun e => !e.pins.isEmpty }).settleInval

/-- The invalidation that die d's registers name starts: what it names is captured (R380, R381). -/
def State.invalidate (s : State) (d : Nat) : State :=
  s.updDie d fun x => { x with
    invbusy := true, invwait := true, invrun := x.invkind, invpage := x.invva, invwide := x.invall
    invroot := (x.queue x.invq.toNat).qxroot.toNat }

/-- Entries that the invalidation of die d, whose registers are x's, selects take no new lookup, and those without pins go. -/
def Die.markedBy (y : Die) (d : Nat) (x : Die) : Die :=
  { y with tlb := (y.tlb.map fun e => if x.selects e then { e with inval := e.inval ++ [d] } else e).filter fun e => !e.pins.isEmpty }

/-- The invalidation whose GO die d has met in this clock cycle selects its entries. -/
def State.selectInval (s : State) (d : Nat) : State :=
  let x := s.die d
  if x.invwait then
    let s1 := if x.invwide then { s with dies := s.dies.map fun y => (y.1, y.2.markedBy d x) } else s.updDie d fun y => y.markedBy d x
    s1.updDie d fun y => { y with invwait := false }
  else s

/-- The end of a clock cycle, after its issues: invalidations act from the next one (R381, R397). -/
def State.selectInvals (s : State) : State :=
  if s.dies.any fun e => e.2.invwait then ((s.dies.map (·.1)).foldl State.selectInval s).settleInval else s

end Sys2Proof.Machine
end

