-- ==== Sys2Proof/Machine/Shape.lean ====
section
/-! DEFINITION. Shapes of the copy stream: positions, checks, and the pages that a command touches (10 R271 to R274); least
times and scopes of transfers (R276, 11 R309); conversion of one element (02 R65). -/
namespace Sys2Proof.Machine

/-- A shape register taken apart (R271). -/
structure Shape where
  loc  : Bool
  fmt  : Nat
  mbz  : Bool
  base : Nat
  e0 : Nat
  e1 : Nat
  e2 : Nat
  e3 : Nat
  s1 : Int
  s2 : Int
  s3 : Int
  lrow : Nat
deriving DecidableEq, Repr

/-- The shape in four words. -/
def shapeOf (l : List Word64) : Shape :=
  let w (i : Nat) : Nat := (l.getD i 0).toNat
  { loc := bit (w 0) 63, fmt := field (w 0) 62 59, mbz := field (w 0) 58 52 != 0, base := field (w 0) 51 0
    e0 := field (w 1) 15 0 + 1, e1 := field (w 1) 31 16 + 1, e2 := field (w 1) 47 32 + 1, e3 := field (w 1) 63 48 + 1
    s1 := toSigned 32 (w 2), s2 := toSigned 32 (field (w 2) 63 32), s3 := toSigned 32 (field (w 3) 63 32)
    lrow := field (w 3) 31 0 }

/-- Element size in bits: 8·z (R272). -/
def Shape.bits (sh : Shape) : Nat := fmtWidth sh.fmt
def Shape.count (sh : Shape) : Nat := sh.e0 * sh.e1 * sh.e2 * sh.e3
def Shape.rows (sh : Shape) : Nat := sh.e1 * sh.e2 * sh.e3

/-- Position of the first element of row r, a row running along dimension 0. -/
def Shape.rowPos (sh : Shape) (r : Nat) : Int :=
  sh.s1 * (r % sh.e1 : Nat) + sh.s2 * (r / sh.e1 % sh.e2 : Nat) + sh.s3 * (r / sh.e1 / sh.e2 : Nat)

/-- pos of flat index f (R272). -/
def Shape.pos (sh : Shape) (f : Nat) : Int := (f % sh.e0 : Nat) + sh.rowPos (f / sh.e0)

/-- Bit address of position p: 8 · BASE + 8z · p, with a nibble at bits of 4 (R49, R272). -/
def Shape.bitOf (sh : Shape) (p : Int) : Int := (sh.base * 8 : Nat) + p * (sh.bits : Int)

/-- Byte address of element f. -/
def Shape.byteAt (sh : Shape) (f : Nat) : Int := sh.bitOf (sh.pos f) / 8

/-- Logical index of element f (R272). -/
def Shape.logical (sh : Shape) (xlidx f : Nat) : Nat := (xlidx + f % sh.e0 + sh.lrow * (f / sh.e0)) % 2 ^ 64

/-- Bytes of a run of n elements. -/
def Shape.bytes (sh : Shape) (n : Nat) : Nat := ceilDiv (n * sh.bits) 8

/-! Checks at issue (R273). -/

/-- Least and greatest of s · 0 and s · (e − 1). -/
def spanLo (s : Int) (e : Nat) : Int := if s < 0 then s * (e - 1 : Nat) else 0
def spanHi (s : Int) (e : Nat) : Int := if s < 0 then 0 else s * (e - 1 : Nat)

def Shape.loByte (sh : Shape) : Int := sh.bitOf (spanLo sh.s1 sh.e1 + spanLo sh.s2 sh.e2 + spanLo sh.s3 sh.e3) / 8
def Shape.hiByte (sh : Shape) : Int :=
  (sh.bitOf ((sh.e0 - 1 : Nat) + spanHi sh.s1 sh.e1 + spanHi sh.s2 sh.e2 + spanHi sh.s3 sh.e3) + (sh.bits - 1 : Nat)) / 8

def Shape.illegal (sh : Shape) : Bool :=
  decide (sh.fmt ≥ 0xC) || sh.mbz || (sh.loc && decide (sh.base ≥ 2 ^ 21)) || decide (sh.count > 2 ^ 32)

def Shape.misaligned (sh : Shape) : Bool := decide (8 ≤ sh.bits) && sh.base % (sh.bits / 8) != 0

def Shape.outside (sh : Shape) : Bool := sh.loc && (decide (sh.loByte < 0) || decide (sh.hiByte ≥ 2 ^ 21))

/-- FADDR of SPAD_RANGE: the furthest byte. -/
def Shape.far (sh : Shape) : Nat := sh.hiByte.toNat

/-- The checks of R273 over the shapes of one command with further checks of the command, cause by cause (R291).
DEDUCED (log 41). -/
def shapeChecks (l : List Shape) (codes aligns ranges : List Check := []) : List Check :=
  l.map (fun sh => (sh.illegal, .illegalCode, 0)) ++ codes
    ++ l.map (fun sh => (sh.misaligned, .misaligned, sh.base)) ++ aligns
    ++ l.map (fun sh => (sh.outside, .spadRange, sh.far)) ++ ranges

/-! Pages (R274). -/

/-- The first byte that row r touches in each page it touches. -/
def Shape.rowPages (sh : Shape) (r : Nat) : List Nat :=
  let lo := sh.bitOf (sh.rowPos r) / 8
  let hi := (sh.bitOf (sh.rowPos r) + (sh.e0 * sh.bits - 1 : Nat)) / 8
  (List.range ((hi / 65536 - lo / 65536).toNat + 1)).map fun i =>
    ofInt 64 (if i = 0 then lo else (lo / 65536 + (i : Nat)) * 65536)

/-- One more first byte, unless its page has been touched. -/
def addPage (l : List Nat) (va : Nat) : List Nat := if l.any (fun x => x / 65536 == va / 65536) then l else va :: l

/-- The first byte touched in each page of a shape with LOC = 0, in ascending flat index. -/
def Shape.touched (sh : Shape) : List Nat :=
  if sh.loc then [] else ((List.range sh.rows).foldl (fun l r => (sh.rowPages r).foldl addPage l) []).reverse

/-- First byte that row r touches in the page of size n at base p, and how many it touches there. -/
def Shape.rowIn (sh : Shape) (p n r : Nat) : Int × Nat :=
  let lo := sh.bitOf (sh.rowPos r) / 8
  let hi := (sh.bitOf (sh.rowPos r) + (sh.e0 * sh.bits - 1 : Nat)) / 8 + 1
  let a := if lo < (p : Int) then (p : Int) else lo
  let b := if hi < ((p + n : Nat) : Int) then hi else ((p + n : Nat) : Int)
  (a, (b - a).toNat)

/-- Bytes from a on that a list does not have are added to it, until it has 65. -/
def addBytes (l : List Int) (a : Int) (n : Nat) : List Int :=
  if 64 < l.length then l
  else (List.range (Nat.min n 65)).foldl (fun l i => if l.contains (a + (i : Nat)) then l else (a + (i : Nat)) :: l) l

/-- Different bytes that a shape touches in a page, as far as R378 asks: 65 stands for any more (log 79). -/
def Shape.bytesIn (sh : Shape) (p : Page) : Nat :=
  Nat.min 65 ((List.range sh.rows).foldl (fun l r => let x := sh.rowIn p.vbase p.size r; addBytes l x.1 x.2) []).length

/-! Times and scopes (R276, R309). -/

/-- Least time with its far end at pa, for B bytes; and the scope of that home. The table lists neither the accumulator banks nor the
instruction scratchpad of the issuing cluster; they are taken as its other memories (DESIGN CHOICE, log 107). -/
def State.homeCost (s : State) (pa b : Nat) : Nat × Nat :=
  let own := paDie pa = s.curDie
  let h := 48 * ((s.hops s.curDie (paDie pa)).getD 0)
  let sc := if own then 1 else 2
  match tierOf pa with
  | .host => (1000 + ceilDiv b 64, 3)
  | .window => if paKey pa = s.cur then (6 + ceilDiv b 64, 0) else (20 + ceilDiv b 64 + h, sc)
  | .pool => (20 + ceilDiv b 64 + h, sc)
  | .dram => (90 + ceilDiv b 64 + h, sc)
  | _ => (260 + ceilDiv b 32 + h, sc)

/-- Least time and widest scope of a transfer of B bytes with its far ends at the addresses of a list. -/
def State.leastOver (s : State) (b : Nat) (l : List Nat) : Nat × Nat :=
  l.foldl (fun m pa =>
    let c := s.homeCost pa b
    (Nat.max m.1 c.1, Nat.max m.2 c.2)) (6 + ceilDiv b 64, 0)

/-- The same over the pages it touches. -/
def State.leastTime (s : State) (b : Nat) (l : List (Nat × Page)) : Nat × Nat :=
  s.leastOver b (l.map fun (x : Nat × Page) => x.2.pa x.1)

/-- A page whose home is another die. -/
def State.offDie (s : State) (pa : Nat) : Bool := !isHost pa && paDie pa != s.curDie

/-! Conversion (R65). -/

/-- Signed formats of R48. -/
def fmtSigned (fmt : Nat) : Bool := fmt == 0 || fmt == 1 || fmt == 2 || fmt == 8
def fmtFloat (fmt : Nat) : Bool := fmt == 6 || fmt == 7

/-- One element converted between the formats 0 to 9, with the XSTAT flags it raises; a float clamped to an integer raises NV alone and
not SAT (R65, R270; DESIGN CHOICE, log 105). -/
def convertElem (src dst : Nat) (mode : RMode) (sat : Bool) (u x : Nat) : Nat × BitVec 6 :=
  let ws := fmtWidth src
  let wd := fmtWidth dst
  let t := if dst = 6 then 7 else 23
  let n : Int := if fmtSigned src then toSigned ws x else (x % 2 ^ ws : Nat)
  let a := if src = 6 then widenBF x else x
  let r (f : FRes) : Nat × BitVec 6 := (f.bits, flags6 false f.flags)
  if src = dst then (x, 0)
  else if fmtFloat src then
    if dst = 6 then r (fnarrow 7 mode u sat x)
    else if dst = 7 then (a, 0)
    else r (toFixed (fmtSigned dst) wd 0 mode u a)
  else if fmtFloat dst then r (fromFixed t mode u sat n 0)
  else
    let y := narrowInt (fmtSigned dst) sat wd n
    (y.1, if y.2 then 0x20 else 0)

end Sys2Proof.Machine
end

