-- ==== Sys2Proof/Machine/XIssue.lean ====
section
/-! DEFINITION. The syllables of the X stream (10 R267 to R289, R291): a command checks, translates and enters its channel;
the waits; shape and configuration registers. What a transfer does after its issue is in Transfer.lean. -/
namespace Sys2Proof.Machine

/-! Registers (R267, R277). -/

def xcfgDef (sel : Nat) : Word64 := if sel = 0 then 0x3F800000 else if sel = 1 then 7 else 0

def State.xcf (s : State) (sel : Nat) : Word64 := s.cl.xe.cfg.get (xcfgDef sel) sel
def Transfer.cf (t : Transfer) (sel : Nat) : Word64 := t.cfg.get (xcfgDef sel) sel

def State.setXcf (s : State) (sel : Nat) (v : Word64) : State :=
  { s with cl := { s.cl with xe := { s.cl.xe with cfg := s.cl.xe.cfg.set (xcfgDef sel) sel v } } }

/-- Shape register k in four words. -/
def State.shapeW (s : State) (k : Nat) : List Word64 := (List.range 4).map fun w => s.cl.xe.sh.get 0 (4 * k + w)

/-- Fields of a compressed region descriptor (R279). -/
def crgnTiles (v : Word64) : Nat := field v.toNat 53 42 + 1
def crgnLen (v : Word64) : Nat := field v.toNat 41 21
def crgnBase (v : Word64) : Nat := field v.toNat 20 0

/-- Offset of a region's first record (R279). -/
def crgnFirst (v : Word64) : Nat := ceilDiv (crgnBase v + 4 * crgnTiles v) 16 * 16

/-- XSKEP: the list in force. -/
def skepOf (v : Word64) : Option Nat := if bit v.toNat 31 then some (field v.toNat 20 0) else none

/-! Issue (R268, R269, R274, R276, R379). -/

/-- The clock that transfers are timed on: the clock cycles in which the copy engine has run (R28, R35, R443).
DEDUCED (log 44). -/
def State.xnow (s : State) : Nat := s.cl.xclk

/-- The transfer that the syllable being issued would start, with what it captures. -/
def State.newXfer (s : State) (i : Instr) (ch : BitVec 2) (bud : Word64) : Transfer :=
  { id := (s.cl.chan ch.toNat).nextId, op := i, cfg := s.cl.xe.cfg, key := s.cl.seedk, issue := s.cyc, start := s.xnow
    least := 0, due := if s.cl.locked then some (s.cyc + bud.toNat) else none, baddr := s.ctx.addr, pos := s.ctx.pos }

/-- Transfers issued on the channel and not complete. -/
def Chan.inFlight (c : Chan) : Nat := (c.q.filter fun t => !t.done).length

/-- A translation cause at issue. -/
def raiseX (f : XFail × Nat) (s : State) : Out := raise f.1.cause s f.1.detail (f.1.at_.getD f.2)

/-- The transfer enters its channel with the pages it touches; `dst` are those it writes. -/
def State.enqueue (s : State) (ch : Nat) (t : Transfer) (pages dst : List (Nat × Page)) : State :=
  let tr := pages.foldl (fun (m : SMap Nat) x => m.set 0 (x.1 / 65536) (x.2.pa (x.1 / 65536 * 65536))) []
  let held := (dst.filter fun (x : Nat × Page) => bit x.2.perm 2).map fun x => (x.1 / 65536, x.2.vbase)
  let t := { t with tr := tr, held := held, far := t.far || pages.any fun (x : Nat × Page) => s.offDie (x.2.pa x.1) }
  let c := s.cl.chan ch
  ({ s with cl := s.cl.setChan ch { c with nextId := c.nextId + 1, q := c.q ++ [t] } }).pinAll ch t.id
    ((distinctPages pages).map fun (x : Nat × Page) => x.2)

/-- The first byte of the 129th page that a command touches (R379). -/
def tooMany (pages : List (Nat × Page)) : Option Nat := ((distinctPages pages)[128]?).map (·.1)

/-- The last step of every issue: too many pages, or waiting for the channel or the pins, or the transfer starts. -/
def issueXfer (ch : BitVec 2) (t : Transfer) (src dst : List (Nat × Page)) (dv : BitVec 1) (did : BitVec 3)
    (s : State) : Out :=
  match tooMany (src ++ dst) with
  | some va => raise .xlateMiss s 4 va
  | none =>
    if (s.cl.chan ch.toNat).inFlight ≥ 16 || s.overPinned ((distinctPages (src ++ dst)).map (·.2)) then .next s.waits
    else
      let s1 := s.enqueue ch.toNat t (src ++ dst) dst
      .next (if dv = 1 then s1.setReg (did.setWidth 6) (t.id.setWidth 64) else s1)

/-- The pages a source shape and a destination shape touch, the source's first. -/
def State.sides (s : State) (src dst : List Shape) : Except (XFail × Nat) (List (Nat × Page) × List (Nat × Page)) :=
  match s.checkPages (fun _ => .read) [] (src.flatMap Shape.touched) with
  | .error f => .error f
  | .ok a =>
    match s.checkPages (fun p => .write ((dst.map fun sh => sh.bytesIn p).foldl (· + ·) 0)) [] (dst.flatMap Shape.touched) with
    | .error f => .error f
    | .ok b => .ok (a, b)

/-- A command whose checks passed: translated, timed for B bytes, and issued. -/
def startXfer (i : Instr) (ch : BitVec 2) (bud : Word64) (src dst : List Shape) (b : Nat) (dv : BitVec 1) (did : BitVec 3)
    (fill : Transfer → Transfer) (s : State) : Out :=
  match s.sides src dst with
  | .error f => raiseX f s
  | .ok (ps, pd) =>
    let lt := s.leastTime b (ps ++ pd)
    issueXfer ch (fill { s.newXfer i ch bud with least := lt.1, scope := lt.2 }) ps pd dv did s

/-! Copy, conversion, transpose (R278). -/

/-- COPY, CVT and XPOSE: `legal` are the checks after those of R273. -/
def copyLike (i : Instr) (ch : BitVec 2) (rd rs : BitVec 4) (legal : Shape → Shape → List Check) (bud : Word64)
    (dv : BitVec 1) (did : BitVec 3) (s : State) : Out :=
  let wd := s.shapeW rd.toNat
  let ws := s.shapeW rs.toNat
  let d := shapeOf wd
  let a := shapeOf ws
  checked (shapeChecks [a, d] ++ legal a d) s
    (startXfer i ch bud [a] [d] (Nat.max (a.bytes a.count) (d.bytes d.count)) dv did
      (fun t => { t with src := ws, dst := wd }) s)

/-- COPY (R278). -/
def execCopy (c : BitVec 2) (rd rs : BitVec 4) (v : BitVec 1) (imm : BitVec 3) (u : Imm 11) (s : State) : Out :=
  copyLike (.copy c rd rs v imm u) c rd rs
    (fun a d => [(a.count != d.count || a.bits != d.bits, .illegalCode, 0)]) (immU u) v imm s

/-- XPOSE (R278). -/
def execXpose (c : BitVec 2) (rd rs : BitVec 4) (v : BitVec 1) (imm : BitVec 3) (u : Imm 11) (s : State) : Out :=
  copyLike (.xpose c rd rs v imm u) c rd rs
    (fun a d => [(a.bits != d.bits || d.e0 != a.e1 || d.e1 != a.e0 || d.e2 != a.e2 || d.e3 != a.e3, .illegalCode, 0)])
    (immU u) v imm s

/-- The further checks of a conversion to stream codes (R278). -/
def codeChecks (s : State) (d : Shape) : List Check :=
  let l := skepOf (s.xcf 5)
  [(!scaleOk ((s.xcf 0).setWidth 32), .illegalCode, 0), (decide (1 < d.e1) && decide (d.lrow < d.e0), .illegalCode, 0),
   (s.listMis l, .misaligned, l.getD 0), (s.listRange l, .spadRange, l.getD 0)]

/-- CVT (R278). -/
def execCvt (c : BitVec 2) (rd rs : BitVec 4) (r : BitVec 2) (t : BitVec 1) (v : BitVec 1) (imm : BitVec 3) (u : Imm 8)
    (s : State) : Out :=
  copyLike (.cvt c rd rs r t v imm u) c rd rs
    (fun a d => (a.count != d.count || decide (a.fmt > 9) || !(decide (d.fmt ≤ 9) || d.fmt == 0xB), .illegalCode, 0)
      :: if d.fmt = 0xB then codeChecks s d else []) (immU u) v imm s

/-! Compressed regions (R280). -/

/-- CMPR reads its shape, EXPD writes it. -/
def tileLike (i : Instr) (expand : Bool) (ch : BitVec 2) (k : BitVec 2) (h : BitVec 4) (x : BitVec 6) (bud : Word64)
    (dv : BitVec 1) (did : BitVec 3) (s : State) : Out :=
  let w := s.shapeW h.toNat
  let sh := shapeOf w
  let g := s.xcf (6 + k.toNat)
  let n := sh.count / 1024
  let t0 := (s.reg x).toNat % 2 ^ 12
  checked (shapeChecks [sh] ++
    [(sh.bits != 32 || sh.count % 1024 != 0, .illegalCode, 0), (crgnTiles g == 1 && crgnLen g == 0, .illegalCode, 0),
     (decide (t0 + n > crgnTiles g), .illegalCode, 0),
     (decide (crgnBase g + crgnLen g > 2 ^ 21), .spadRange, crgnBase g + crgnLen g - 1)]) s
    (startXfer i ch bud (if expand then [] else [sh]) (if expand then [sh] else []) (4096 * n) dv did
      (fun t => { t with src := if expand then [] else w, dst := if expand then w else [], xr := .ofNat 64 t0 }) s)

/-- CMPR (R280). -/
def execCmpr (c : BitVec 2) (k : BitVec 2) (h : BitVec 4) (x : BitVec 6) (v : BitVec 1) (imm : BitVec 3) (u : Imm 6)
    (s : State) : Out := tileLike (.cmpr c k h x v imm u) false c k h x (immU u) v imm s

/-- EXPD (R280). -/
def execExpd (c : BitVec 2) (k : BitVec 2) (h : BitVec 4) (x : BitVec 6) (v : BitVec 1) (imm : BitVec 3) (u : Imm 6)
    (s : State) : Out := tileLike (.expd c k h x v imm u) true c k h x (immU u) v imm s

/-- DECODE (R282): timed for the bytes it reads; what it writes is known when its header has been read. -/
def execDecode (c : BitVec 2) (rd rs : BitVec 4) (k : BitVec 2) (v : BitVec 1) (imm : BitVec 3) (u : Imm 9)
    (s : State) : Out :=
  let wd := s.shapeW rd.toNat
  let ws := s.shapeW rs.toNat
  let d := shapeOf wd
  let a := shapeOf ws
  checked (shapeChecks [a, d] [(d.fmt != 9 && d.fmt != 0xA, .illegalCode, 0), (a.fmt != 3, .illegalCode, 0)]) s
    (startXfer (.decode c rd rs k v imm u) c (immU u) [a] [d] (a.bytes a.count) v imm
      (fun t => { t with src := ws, dst := wd }) s)

/-! Loads of engine memories (R283). -/

/-- Unit and limit of a load, and the window offset of its memory. -/
def loadDest : Instr → Nat × Nat × Nat
  | .ldhcw .. => (32, 0x4000, offHcw)
  | .ldpln .. => (1, 0x10000, offShadow)
  | _ => (8, 0x18280, offPair)

def loadLike (i : Instr) (ch : BitVec 2) (rs : BitVec 4) (x : BitVec 6) (bud : Word64) (dv : BitVec 1) (did : BitVec 3)
    (s : State) : Out :=
  let w := s.shapeW rs.toNat
  let sh := shapeOf w
  let off := (s.reg x).toNat
  let (un, lim, _) := loadDest i
  checked (shapeChecks [sh] [(sh.fmt != 3, .illegalCode, 0)] [(off % un != 0 || sh.count % un != 0, .misaligned, off)]
    [(decide (off + sh.count > lim), .spadRange, off + sh.count - 1)]) s
    (startXfer i ch bud [sh] [] sh.count dv did (fun t => { t with src := w, xr := .ofNat 64 off }) s)

/-- LDHCW (R283). -/
def execLdhcw (c : BitVec 2) (rs : BitVec 4) (x : BitVec 6) (v : BitVec 1) (imm : BitVec 3) (u : Imm 7) (s : State) : Out :=
  loadLike (.ldhcw c rs x v imm u) c rs x (immU u) v imm s

/-- LDPLN (R283). -/
def execLdpln (c : BitVec 2) (rs : BitVec 4) (x : BitVec 6) (v : BitVec 1) (imm : BitVec 3) (u : Imm 7) (s : State) : Out :=
  loadLike (.ldpln c rs x v imm u) c rs x (immU u) v imm s

/-- LDPAIR (R283). -/
def execLdpair (c : BitVec 2) (rs : BitVec 4) (x : BitVec 6) (v : BitVec 1) (imm : BitVec 3) (u : Imm 7) (s : State) : Out :=
  loadLike (.ldpair c rs x v imm u) c rs x (immU u) v imm s

/-! Exchange (R284 to R286). -/

/-- Fields of a SEND's register (R285). -/
def sendDie (v : Word64) : Nat := field v.toNat 35 30
def sendCl (v : Word64) : Nat := field v.toNat 29 26
def sendXb (v : Word64) : Nat := field v.toNat 25 21
def sendOff (v : Word64) : Nat := field v.toNat 20 0

/-- The stitch plan of the cluster's die. -/
def State.plan (s : State) : List PlanEnt :=
  match s.cl.task with
  | none => []
  | some r => ((s.jobs.find? fun j => j.lead == r.lead && j.slot == r.slot).map
      fun j => j.plans.get [] s.curDie).getD []

/-- A data entry that names all four (R284). -/
def planFits (cl ch ddie dcl : Nat) (e : PlanEnt) : Bool :=
  !e.slack && e.cl == cl && e.ch == ch && e.ddie == ddie && e.dcl == dcl

/-- Least time and scope of the far end of a SEND of b bytes; to another die in locked mode the stitch plan sets the time (R276). -/
def State.sendCost (s : State) (v : Word64) (b : Nat) : Nat × Nat :=
  if clKey (sendDie v) (sendCl v) = s.cur then (6 + ceilDiv b 64, 0)
  else if sendDie v = s.curDie then (20 + ceilDiv b 64, 1)
  else if s.cl.locked then (0, 2)
  else (6 + ceilDiv b 64 + 48 * (s.hops s.curDie (sendDie v)).getD 0, 2)

/-- SEND (R285): TARGET_DOWN before the translation of its source, TIMING_MISS after it (R291). -/
def execSend (c : BitVec 2) (rs : BitVec 4) (x : BitVec 6) (v : BitVec 1) (imm : BitVec 3) (u : Imm 9) (s : State) : Out :=
  let w := s.shapeW rs.toNat
  let sh := shapeOf w
  let r := s.reg x
  let b := sh.bytes sh.count
  let down := !(s.die (sendDie r)).present || (s.hops s.curDie (sendDie r)).isNone
  checked (shapeChecks [sh] [(field r.toNat 63 36 != 0, .illegalCode, 0)] []
    [(decide (sendOff r + b > 2 ^ 21), .spadRange, sendOff r + b - 1)] ++ [(down, .targetDown, 0)]) s
    (match s.sides [sh] [] with
    | .error f => raiseX f s
    | .ok (ps, _) =>
      if (tooMany ps).isNone && s.cl.locked && !s.plan.any (planFits s.curCl c.toNat (sendDie r) (sendCl r)) then raise .timingMiss s
      else
        let lt := s.leastTime b ps
        let ls := s.sendCost r b
        issueXfer c { s.newXfer (.send c rs x v imm u) c (immU u) with
          src := w, xr := r, least := Nat.max lt.1 ls.1, scope := Nat.max lt.2 ls.2, far := true } ps [] v imm s)

/-- RECV: arms a barrier; N = 0 or an armed barrier is ILLEGAL_CODE (R286). -/
def execRecv (rb : BitVec 5) (x : BitVec 6) (u : Imm 14) (s : State) : Out :=
  let n : Word32 := (s.reg x).setWidth 32
  if n = 0 ∨ (s.cl.xb rb.toNat).state = .armed then raise .illegalCode s
  else .next { s with cl := s.cl.setXb rb.toNat { state := .armed, rem := n, due := some (s.cyc + (immU u).toNat) } }

/-! Remote atomics (R288). -/

/-- RAMO with OP `op` of R155. -/
def ramoLike (i : Instr) (_op : Nat) (ch : BitVec 2) (w : BitVec 1) (ra v r : BitVec 3) (nr : BitVec 1) (bud : Word64)
    (s : State) : Out :=
  let n := if w = 0 then 4 else 8
  let va := (s.reg (ra.setWidth 6)).toNat
  let res := (s.reg (r.setWidth 6)).toNat
  checked [(va % n != 0, .misaligned, va), (nr == 0 && res % 8 != 0, .misaligned, res),
      (nr == 0 && decide (res > 2 ^ 21 - 8), .spadRange, res)] s
    (match s.checkPages (fun _ => .ramo (nr == 0)) [] [va] with
    | .error f => raiseX f s
    | .ok pd =>
      let lt := s.leastTime n pd
      issueXfer ch { s.newXfer i ch bud with
        xr := .ofNat 64 va, xv := s.reg (v.setWidth 6), xw := if nr = 0 then .ofNat 64 res else 0
        src := [s.reg (.ofNat 6 ((v.toNat + 1) % 8))], least := lt.1, scope := lt.2, far := true } [] pd 0 0 s)

/-- RAMO_ADD (R288). -/
def execRamoAdd (c : BitVec 2) (w : BitVec 1) (ra v r : BitVec 3) (n : BitVec 1) (u : Imm 8) (s : State) : Out :=
  ramoLike (.ramoAdd c w ra v r n u) 0 c w ra v r n (immU u) s

/-- RAMO_AND (R288). -/
def execRamoAnd (c : BitVec 2) (w : BitVec 1) (ra v r : BitVec 3) (n : BitVec 1) (u : Imm 8) (s : State) : Out :=
  ramoLike (.ramoAnd c w ra v r n u) 1 c w ra v r n (immU u) s

/-- RAMO_OR (R288). -/
def execRamoOr (c : BitVec 2) (w : BitVec 1) (ra v r : BitVec 3) (n : BitVec 1) (u : Imm 8) (s : State) : Out :=
  ramoLike (.ramoOr c w ra v r n u) 2 c w ra v r n (immU u) s

/-- RAMO_XOR (R288). -/
def execRamoXor (c : BitVec 2) (w : BitVec 1) (ra v r : BitVec 3) (n : BitVec 1) (u : Imm 8) (s : State) : Out :=
  ramoLike (.ramoXor c w ra v r n u) 3 c w ra v r n (immU u) s

/-- RAMO_MIN (R288). -/
def execRamoMin (c : BitVec 2) (w : BitVec 1) (ra v r : BitVec 3) (n : BitVec 1) (u : Imm 8) (s : State) : Out :=
  ramoLike (.ramoMin c w ra v r n u) 4 c w ra v r n (immU u) s

/-- RAMO_MAX (R288). -/
def execRamoMax (c : BitVec 2) (w : BitVec 1) (ra v r : BitVec 3) (n : BitVec 1) (u : Imm 8) (s : State) : Out :=
  ramoLike (.ramoMax c w ra v r n u) 5 c w ra v r n (immU u) s

/-- RAMO_MINU (R288). -/
def execRamoMinu (c : BitVec 2) (w : BitVec 1) (ra v r : BitVec 3) (n : BitVec 1) (u : Imm 8) (s : State) : Out :=
  ramoLike (.ramoMinu c w ra v r n u) 6 c w ra v r n (immU u) s

/-- RAMO_MAXU (R288). -/
def execRamoMaxu (c : BitVec 2) (w : BitVec 1) (ra v r : BitVec 3) (n : BitVec 1) (u : Imm 8) (s : State) : Out :=
  ramoLike (.ramoMaxu c w ra v r n u) 7 c w ra v r n (immU u) s

/-- RAMO_SWAP (R288). -/
def execRamoSwap (c : BitVec 2) (w : BitVec 1) (ra v r : BitVec 3) (n : BitVec 1) (u : Imm 8) (s : State) : Out :=
  ramoLike (.ramoSwap c w ra v r n u) 8 c w ra v r n (immU u) s

/-- RAMO_CAS (R288). -/
def execRamoCas (c : BitVec 2) (w : BitVec 1) (ra v r : BitVec 3) (n : BitVec 1) (u : Imm 8) (s : State) : Out :=
  ramoLike (.ramoCas c w ra v r n u) 9 c w ra v r n (immU u) s

/-! Waits (R289). -/

/-- NEXTID as it stood when the bundle issued. DEDUCED (log 43). -/
def State.nextIdAt (s : State) (ch : Nat) : Word32 :=
  let c := s.cl.chan ch
  c.nextId - .ofNat 32 (c.q.filter fun t => t.issue == s.cyc).length

/-- XWAIT (R289). -/
def execXwait (c : BitVec 2) (x : BitVec 6) (s : State) : Out := waitXfer c.toNat ((s.reg x).setWidth 32) s

/-- XWAITB (R286, R289). -/
def execXwaitb (rb : BitVec 5) (s : State) : Out :=
  let b := s.cl.xb rb.toNat
  let early := s.cl.locked && decide (s.cyc < b.due.getD 0)
  if s.xbZero rb.toNat then .next s
  else if b.state = .error ∧ !early then raise .xbOverrun s
  else .next (s.waitsLate (decide (b.state = .armed) && !early))

/-- XFENCE: the identifier is captured when the bundle first issues (R162, R289). -/
def execXfence (c : BitVec 2) (s : State) : Out :=
  let id : Word32 := .ofNat 32 (s.captured (s.nextIdAt c.toNat - 1).toNat)
  if s.xDone c.toNat id then .next s
  else .next ((s.waits (some id.toNat)).waitsLate (s.xLate c.toNat id))

/-- XNEXT (R289). -/
def execXnext (c : BitVec 2) (rd : BitVec 6) (s : State) : Out :=
  .next (s.setReg rd ((s.nextIdAt c.toNat).setWidth 64))

/-! Shape and configuration registers (R277). -/

/-- SHW (R277). -/
def execShw (k : BitVec 4) (w : BitVec 2) (x : BitVec 6) (s : State) : Out :=
  .next { s with cl := { s.cl with xe := { s.cl.xe with sh := s.cl.xe.sh.set 0 (4 * k.toNat + w.toNat) (s.reg x) } } }

/-- A value that XCFG refuses (R277, R279). DEDUCED (log 42). -/
def xcfgBad (sel v : Nat) : Bool :=
  if sel = 1 then v % 8 == 0 || decide (v ≥ 2 ^ 7)
  else if sel = 5 then field v 30 21 != 0
  else if 6 ≤ sel ∧ sel ≤ 9 then field v 63 54 != 0 || crgnLen (.ofNat 64 v) % 64 != 0 || crgnBase (.ofNat 64 v) % 64 != 0
  else false

/-- XCFG: ILLEGAL_CODE leaves the register unchanged; a region descriptor resets its fill pointer (R277). -/
def execXcfg (rs : BitVec 5) (x : BitVec 6) (s : State) : Out :=
  let sel := rs.toNat
  let wide := sel = 2 ∨ (6 ≤ sel ∧ sel ≤ 9)
  let v : Word64 := if wide then s.reg x else ((s.reg x).setWidth 32).setWidth 64
  if xcfgBad sel v.toNat then raise .illegalCode s
  else
    let s1 := s.setXcf sel v
    .next (if 6 ≤ sel ∧ sel ≤ 9 then
      { s1 with cl := { s1.cl with xe := { s1.cl.xe with
          cfill := s1.cl.xe.cfill.set 0 (sel - 6) (.ofNat 22 (crgnFirst v)) } } }
    else s1)

end Sys2Proof.Machine
end

