-- ==== Sys2Proof/Machine/Transfer.lean ====
section
/-! DEFINITION. What transfers do after their issue (10 R274 to R290; 19 R387, R395; 20 R405, R407): their pieces, in
ascending order of the cursor, and their completion. A transfer with a home on another die asks for its source bytes by
READ_REQ and writes by WRITE; SEND and RAMO work by messages whatever the die. -/
namespace Sys2Proof.Machine

def Transfer.sSrc (t : Transfer) : Shape := shapeOf t.src
def Transfer.sDst (t : Transfer) : Shape := shapeOf t.dst

/-- The state with a transfer of the cluster in focus replaced. -/
def State.putXfer (s : State) (ch : Nat) (t : Transfer) : State := s.updXfer s.cur ch t.id fun _ => t

/-! Bytes at the transfer's two ends. -/

/-- Physical address of byte b of a shape: an offset of the data scratchpad, or a virtual address translated at issue. -/
def State.home (s : State) (t : Transfer) (sh : Shape) (b : Nat) : Nat :=
  if sh.loc then s.spad b else t.tr.get 0 (b / 65536) + b % 65536

/-- A byte that the copy engine has at hand: of its own die or the host, or answered by another die. -/
def State.hand (s : State) (t : Transfer) (a : Nat) : Option Byte := if s.offDie a then t.buf.get none a else some (s.rd8 a)

/-- n bytes at hand as a number. -/
def State.handLE (s : State) (t : Transfer) (a : Nat) : Nat → Nat
  | 0 => 0
  | n + 1 => ((s.hand t a).getD 0).toNat + 256 * State.handLE s t (a + 1) n

/-- Bit position of element f. -/
def Shape.bitAt (sh : Shape) (f : Nat) : Nat := (sh.bitOf (sh.pos f)).toNat
/-- Bytes of one element: at least one. -/
def Shape.width (sh : Shape) : Nat := ceilDiv sh.bits 8

/-- Physical address of the byte that holds element f, or its first. -/
def State.elemAddr (s : State) (t : Transfer) (sh : Shape) (f : Nat) : Nat := s.home t sh (sh.bitAt f / 8)

/-- The bits of element f. -/
def State.elemOf (s : State) (t : Transfer) (sh : Shape) (f : Nat) : Nat :=
  let a := s.elemAddr t sh f
  if sh.bits = 4 then s.handLE t a 1 / 16 ^ (sh.bitAt f / 4 % 2) % 16 else s.handLE t a sh.width

/-- Elements of the piece that begins at element f: one row, one page, at most 64 bytes (R274). DEDUCED (log 79). -/
def Shape.runLen (sh : Shape) (f : Nat) : Nat :=
  let p := sh.bitAt f
  let lim := Nat.min (p / 8 + 64) ((p / 8 / 65536 + 1) * 65536) * 8
  Nat.min (sh.e0 - f % sh.e0) ((lim - p) / sh.bits)

/-- The first of n bytes from a that is not at hand. -/
def State.lackAt (s : State) (t : Transfer) (a : Nat) : Nat → Option Nat
  | 0 => none
  | n + 1 => if (s.hand t a).isSome then State.lackAt s t (a + 1) n else some a

/-- Bytes of another die to ask for: address and count. -/
structure Want where
  at_ : Nat
  n   : Nat
deriving DecidableEq, Repr

/-- The run of source elements from the first element of a list whose bytes are not at hand. -/
def State.lack (s : State) (t : Transfer) (sh : Shape) (l : List Nat) : Option Want :=
  l.findSome? fun f => (s.lackAt t (s.elemAddr t sh f) sh.width).map fun a =>
    { at_ := a, n := (sh.bitAt f + sh.runLen f * sh.bits - 1) / 8 - sh.bitAt f / 8 + 1 - (a - s.elemAddr t sh f) }

/-- The first granule with an uncorrectable error that the elements of a list lie in. -/
def State.elemBad (s : State) (t : Transfer) (sh : Shape) (l : List Nat) : Option Nat :=
  l.findSome? fun f => let a := s.elemAddr t sh f; if s.offDie a then none else s.badRead a sh.width

/-- The page with HELD set that byte b of the destination lies on (R395). -/
def Transfer.heldPage (t : Transfer) (sh : Shape) (b : Nat) : Option Nat :=
  if sh.loc then none else (t.held.find? fun h => h.1 == b / 65536).map (·.2)

/-! Commands that work by messages. -/

/-- OP, W and NR of a RAMO. -/
def ramoFields : Instr → Option (Nat × Bool × Bool)
  | .ramoAdd _ w _ _ _ n _ => some (0, w == 1, n == 1)
  | .ramoAnd _ w _ _ _ n _ => some (1, w == 1, n == 1)
  | .ramoOr _ w _ _ _ n _ => some (2, w == 1, n == 1)
  | .ramoXor _ w _ _ _ n _ => some (3, w == 1, n == 1)
  | .ramoMin _ w _ _ _ n _ => some (4, w == 1, n == 1)
  | .ramoMax _ w _ _ _ n _ => some (5, w == 1, n == 1)
  | .ramoMinu _ w _ _ _ n _ => some (6, w == 1, n == 1)
  | .ramoMaxu _ w _ _ _ n _ => some (7, w == 1, n == 1)
  | .ramoSwap _ w _ _ _ n _ => some (8, w == 1, n == 1)
  | .ramoCas _ w _ _ _ n _ => some (9, w == 1, n == 1)
  | _ => none

/-- A transfer that works by messages whatever its homes. -/
def Transfer.byMessage (t : Transfer) : Bool :=
  match t.op with
  | .send .. => true
  | i => (ramoFields i).isSome

/-! Requests to other dies. -/

/-- n bytes at a asked for (R405). -/
def State.ask (s : State) (ch : Nat) (t : Transfer) (a n piece : Nat) : State × Transfer :=
  let r := s.request s.curDie s.curCl ch t.id piece
    { typ := mReadReq, ddie := .ofNat 6 (paDie a), arg := .ofNat 64 (a % 2 ^ 52 + (n - 1) * 2 ^ 52) }
  (r.1, { t with out := t.out ++ [r.2] })

/-- The request that has asked for byte a. -/
def State.askedFor (s : State) (t : Transfer) (a : Nat) : Option Req :=
  (s.die s.curDie).reqs.find? fun r => t.out.contains r.seq.toNat && r.msg.typ == mReadReq &&
    decide (r.msg.arg.toNat % 2 ^ 52 ≤ a) && decide (a ≤ r.msg.arg.toNat % 2 ^ 52 + r.msg.arg.toNat / 2 ^ 52 % 64)

/-- The next run of source elements asked for: a run of another die by one READ_REQ, any other passed over. -/
def State.askNext (s : State) (ch : Nat) (t : Transfer) : State × Transfer :=
  let sh := t.sSrc
  let n := sh.runLen t.asked
  let a := s.elemAddr t sh t.asked
  let len := (sh.bitAt t.asked + n * sh.bits - 1) / 8 - sh.bitAt t.asked / 8 + 1
  if s.offDie a then
    let r := s.ask ch t a len t.asked
    (r.1, { r.2 with asked := t.asked + n })
  else (s, { t with asked := t.asked + n })

/-- Source elements still to be asked for. -/
def Transfer.asks (t : Transfer) : Bool :=
  t.far && !t.byMessage && !t.src.isEmpty && decide (t.asked < t.sSrc.count)

/-! Writing (R275, R395). -/

/-- Ranges that later transfers of the channel have written: they win (R275). -/
def State.wonBy (s : State) (ch : Nat) (t : Transfer) : List (Nat × Nat) :=
  (((s.cl.chan ch).q.dropWhile (·.id != t.id)).drop 1).flatMap (·.wrote)

/-- An earlier transfer of the channel is still at work: a piece of it has not moved, or has not been answered. -/
def State.earlier (s : State) (ch : Nat) (t : Transfer) : Bool :=
  ((s.cl.chan ch).q.takeWhile (·.id != t.id)).any fun x => !x.done && (!x.fin || !x.out.isEmpty)

/-- The runs of l from a that lie outside the ranges of `won`. -/
def keepRuns (won : List (Nat × Nat)) : Nat → List Byte → List (Nat × List Byte)
  | _, [] => []
  | a, b :: l =>
    if won.any fun w => decide (w.1 ≤ a) && decide (a < w.1 + w.2) then keepRuns won (a + 1) l
    else match keepRuns won (a + 1) l with
    | (a', l') :: r => if a' = a + 1 then (a, b :: l') :: r else (a, [b]) :: (a', l') :: r
    | [] => [(a, [b])]

/-- The cursor at element f of the transfer: the tile of an EXPD, else the element (R290). -/
def Transfer.cursorAt (t : Transfer) (f : Nat) : Nat :=
  match t.op with
  | .expd .. => f / 1024
  | _ => f

/-- One run written: at its home, or by a WRITE to another die, which the cursor awaits. -/
def State.writeRun (ch piece : Nat) (x : State × Transfer) (w : Nat × List Byte) : State × Transfer :=
  let (s, t) := x
  if s.offDie w.1 then
    let r := s.request s.curDie s.curCl ch t.id piece
      { typ := mWrite, ddie := .ofNat 6 (paDie w.1), arg := .ofNat 64 (w.1 % 2 ^ 52), data := w.2 }
    (r.1, { t with out := t.out ++ [r.2], wr := t.wr ++ [(r.2, t.cursorAt piece)] })
  else (s.store w.1 w.2, t)

/-- The bytes l put in the buffer of bytes at hand. -/
def bufPut (m : SMap (Option Byte)) : Nat → List Byte → SMap (Option Byte)
  | _, [] => m
  | a, b :: l => bufPut (m.set none a (some b)) (a + 1) l

/-- The bytes l of a piece leave for physical address a: written, or sent to another die, which leaves out where they land what a later
transfer has written. -/
def State.emit (s : State) (ch : Nat) (t : Transfer) (a : Nat) (l : List Byte) (piece : Nat) : State × Transfer :=
  if s.offDie a then
    let r := State.writeRun ch piece (s, t) (a, l)
    (r.1, { r.2 with buf := bufPut r.2.buf a l })
  else
    let r := (keepRuns (s.wonBy ch t) a l).foldl (State.writeRun ch piece) (s, t)
    (r.1, if s.earlier ch t then { r.2 with wrote := r.2.wrote ++ [(a, l.length)] } else r.2)

/-- A run of destination elements: where it begins in bits and its bytes. -/
structure Run where
  byte : Nat
  len  : Nat
  /-- the first byte's low nibble, and the last byte's high nibble, belong to neighbours -/
  lo   : Bool
  hi   : Bool
deriving DecidableEq, Repr

def Shape.run (sh : Shape) (f n : Nat) : Run :=
  let p := sh.bitAt f
  let e := p + n * sh.bits
  { byte := p / 8, len := ceilDiv e 8 - p / 8, lo := p % 8 != 0, hi := e % 8 != 0 }

/-- Neighbouring nibbles of a run that another die holds and that are not at hand; a held write asks for them when it is released. -/
def State.runLack (s : State) (t : Transfer) (sh : Shape) (r : Run) : Option Want :=
  let a := s.home t sh r.byte
  if (t.heldPage sh r.byte).isSome then none
  else if r.lo && (s.hand t a).isNone then some { at_ := a, n := 1 }
  else if r.hi && (s.hand t (a + r.len - 1)).isNone then some { at_ := a + r.len - 1, n := 1 } else none

/-- A granule that the run would write in part holds an error: one whose bytes it does not cover, or of whose first or last byte it
writes a nibble (R387). -/
def State.runBad (s : State) (t : Transfer) (sh : Shape) (r : Run) : Option Nat :=
  let a := s.home t sh r.byte
  if s.offDie a || (t.heldPage sh r.byte).isSome then none
  else (if r.lo then s.badRead a 1 else none).or ((s.badWrite a r.len).or (if r.hi then s.badRead (a + r.len - 1) 1 else none))

/-- The write of a run that holds the elements vs, whose home is a. -/
def Run.write (r : Run) (sh : Shape) (a : Nat) (vs : List Nat) : HeldWrite :=
  let v := vs.foldr (fun x y => x % 2 ^ sh.bits + 2 ^ sh.bits * y) 0
  { addr := a, bytes := bytesOf (v * 2 ^ (if r.lo then 4 else 0)) r.len, lo := r.lo, hi := r.hi }

/-- Bytes that a write shares with neighbours. -/
def HeldWrite.edges (w : HeldWrite) : List Nat :=
  (if w.lo then [w.addr] else []) ++ if w.hi then [w.addr + w.bytes.length - 1] else []

/-- The bytes of a write, the neighbours' nibbles as `old` has them. -/
def HeldWrite.merged (w : HeldWrite) (old : Nat → Nat) : List Byte :=
  w.bytes.zipIdx.map fun (x : Byte × Nat) =>
    let b := x.1.toNat
    let o := old (w.addr + x.2)
    let b1 := if w.lo ∧ x.2 = 0 then b / 16 * 16 + o % 16 else b
    .ofNat 8 (if w.hi ∧ x.2 + 1 = w.bytes.length then b1 % 16 + o / 16 * 16 else b1)

/-- n elements written from destination element f, or gathered for the commit buffer (R395). -/
def State.writeElems (s : State) (ch : Nat) (t : Transfer) (f : Nat) (vs : List Nat) : State × Transfer :=
  if vs.isEmpty then (s, t) else
  let sh := t.sDst
  let r := sh.run f vs.length
  let w := r.write sh (s.home t sh r.byte) vs
  match t.heldPage sh r.byte with
  | some p => (s, { t with heldW := t.heldW ++ [{ page := p, el := f, va := r.byte, w := w }] })
  | none => s.emit ch t w.addr (w.merged fun a => s.handLE t a 1) f

/-! The pieces of each command. A piece answers the state with the transfer, and a cause that stops it. -/

abbrev Piece := State × Transfer × Option Trap

/-- The source element of destination element f (R278). -/
def Transfer.srcOf (t : Transfer) (f : Nat) : Nat :=
  match t.op with
  | .xpose .. =>
    let d := t.sDst
    f / d.e0 % d.e1 + t.sSrc.e0 * (f % d.e0 + t.sSrc.e1 * (f / d.e0 / d.e1))
  | _ => f

/-- Elements of the next piece of COPY, CVT or XPOSE: one run at either end; XPOSE, whose source elements lie apart, moves one
(R274). -/
def Transfer.pieceLen (t : Transfer) : Nat :=
  match t.op with
  | .xpose .. => 1
  | _ => Nat.min (t.sDst.runLen t.cursor) (t.sSrc.runLen (t.srcOf t.cursor))

/-- An element as its destination receives it: bits, XSTAT flags, and the value of an outlier (R278). -/
def Transfer.convert (t : Transfer) (x f : Nat) : Nat × BitVec 6 × Option Nat :=
  match t.op with
  | .cvt _ _ _ rnd sat _ _ _ =>
    let mode := RMode.ofBits rnd.toNat
    let e := t.sDst.logical (t.cf 2).toNat f
    let u := genWord t.key e ((t.cf 3).setWidth 32) ((t.cf 4).setWidth 32)
    if t.sDst.fmt = 0xB then
      let xb := bit (t.cf 1).toNat 6
      let r := toCode (slenP ((t.cf 1).setWidth 32)) xb ((t.cf 0).setWidth 32) mode u (elemVal t.sSrc.fmt x)
      (r.1.toNat, 0, if r.2 then some (outlierVal t.sSrc.fmt x) else none)
    else
      let r := convertElem t.sSrc.fmt t.sDst.fmt mode (sat == 1) u x
      (r.1, r.2, none)
  | _ => (x, 0, none)

/-- Up to n elements from f converted, outliers appended; full: a list that can take no more stops before an element. -/
def convElems : Nat → Nat → State → Transfer → List Nat → State × Transfer × List Nat × Bool
  | 0, _, s, t, acc => (s, t, acc, false)
  | n + 1, f, s, t, acc =>
    let (v, fl, o) := t.convert (s.elemOf t t.sSrc (t.srcOf f)) f
    let s := { s with cl := s.cl.orX fl }
    match o with
    | none => convElems n (f + 1) s t (acc ++ [v])
    | some x =>
      if f < t.app then convElems n (f + 1) s t (acc ++ [v])
      else match s.skepAppend (skepOf (t.cf 5)) (t.sDst.logical (t.cf 2).toNat f) x with
      | some s1 => convElems n (f + 1) s1 { t with app := f + 1 } (acc ++ [v])
      | none => (s, t, acc, true)

/-- Some element of the piece is an outlier that is still to be appended. -/
def State.appends (s : State) (t : Transfer) (f n : Nat) : Bool :=
  (List.range n).any fun i =>
    decide (t.app ≤ f + i) && (t.convert (s.elemOf t t.sSrc (t.srcOf (f + i))) (f + i)).2.2.isSome

/-- A piece of COPY, CVT or XPOSE: n elements from the cursor (R278, R387). -/
def pieceElems (ch : Nat) (t : Transfer) (s : State) : Piece :=
  let f := t.cursor
  let n := t.pieceLen
  let src := (List.range n).map fun i => t.srcOf (f + i)
  match s.elemBad t t.sSrc src with
  | some g => (s, t, some (t.memTrap ch g))
  | none =>
    match s.runBad t t.sDst (t.sDst.run f n) with
    | some g => (s, t, some (t.memTrap ch g))
    | none =>
      match if s.appends t f n then s.skepBad (skepOf (t.cf 5)) else none with
      | some g => (s, t, some (t.memTrap ch g))
      | none =>
        let (s1, t1, vs, full) := convElems n f s t []
        let (s2, t2) := s1.writeElems ch t1 f vs
        let c := f + vs.length
        (s2, { t2 with cursor := c, fin := decide (t2.sDst.count ≤ c) }, if full then some (t.trap ch .skepFull) else none)

/-- A word of the compressed region's tile: its record (R279). -/
def tileRecord (ws : List Nat) : List Byte :=
  let map := ws.foldr (fun w m => b2n (w != 0) + 2 * m) 0
  let body := bytesOf map 128 ++ (ws.filter (· != 0)).flatMap fun w => bytesOf w 4
  body ++ List.replicate (ceilDiv body.length 16 * 16 - body.length) 0

/-- The region of a CMPR or EXPD. -/
def Transfer.region (t : Transfer) : Nat :=
  match t.op with
  | .cmpr _ k _ _ _ _ _ => k.toNat
  | .expd _ k _ _ _ _ _ => k.toNat
  | _ => 0
def Transfer.crgn (t : Transfer) : Word64 := t.cf (6 + t.region)
/-- Scratchpad offset of the offset-table word of the next tile. -/
def Transfer.tableAt (t : Transfer) : Nat := crgnBase t.crgn + 4 * (t.xr.toNat + t.cursor)

/-- CFILLk set: 2^21, after a region that ends with the scratchpad is filled, stays apart from 0 (DESIGN CHOICE, log 101). -/
def State.setCfill (s : State) (k v : Nat) : State :=
  { s with cl := { s.cl with xe := { s.cl.xe with cfill := s.cl.xe.cfill.set 0 k (.ofNat 22 v) } } }

/-- A tile's bytes as its 1,024 words. -/
def wordsIn : Nat → List Byte → List Nat
  | 0, _ => []
  | n + 1, l => ofBytes (l.take 4) :: wordsIn n (l.drop 4)

/-- A transfer that turns to its next tile. -/
def Transfer.nextTile (t : Transfer) (count : Nat) : Transfer :=
  { t with tile := [], tput := 0, tat := 0, tfull := false, cursor := t.cursor + 1
           fin := decide (count ≤ 1024 * (t.cursor + 1)) }

/-- Source elements of the next piece of CMPR, while its tile is being gathered. -/
def Transfer.tileRun (t : Transfer) : List Nat :=
  let f := 1024 * t.cursor + t.tile.length / 4
  (List.range (Nat.min (t.sSrc.runLen f) (1024 - t.tile.length / 4))).map (f + ·)

/-- A piece of CMPR that gathers its tile's words. -/
def gatherTile (ch : Nat) (t : Transfer) (s : State) : Piece :=
  match s.elemBad t t.sSrc t.tileRun with
  | some g => (s, t, some (t.memTrap ch g))
  | none => (s, { t with tile := t.tile ++ (t.tileRun.map (s.elemOf t t.sSrc)).flatMap fun w => bytesOf w 4 }, none)

/-- CMPR with its tile at hand: the record takes its space (R280). -/
def beginRecord (ch : Nat) (t : Transfer) (s : State) : Piece :=
  let fill := (s.cl.xe.cfill.get 0 t.region).toNat
  let rec_ := tileRecord (wordsIn 1024 t.tile)
  if fill + rec_.length > crgnBase t.crgn + crgnLen t.crgn then
    (s, t, some (t.trap ch .spadRange 0 (fill + rec_.length - 1)))
  else (s.setCfill t.region (fill + rec_.length), { t with tile := rec_, tput := 0, tat := fill, tfull := true }, none)

/-- A piece of CMPR that writes 64 bytes of the record, or in the end the word of the offset table. -/
def putRecord (ch : Nat) (t : Transfer) (s : State) : Piece :=
  let l := (t.tile.drop t.tput).take 64
  let a := s.spad (t.tat + t.tput)
  if l.isEmpty then
    match s.badWrite (s.spad t.tableAt) 4 with
    | some g => (s, t, some (t.memTrap ch g))
    | none =>
      let x := s.emit ch t (s.spad t.tableAt) (bytesOf (t.tat - crgnBase t.crgn) 4) t.cursor
      (x.1, x.2.nextTile t.sSrc.count, none)
  else
    match s.badWrite a l.length with
    | some g => (s, t, some (t.memTrap ch g))
    | none =>
      let x := s.emit ch t a l t.cursor
      (x.1, { x.2 with tput := t.tput + l.length }, none)

/-- A piece of CMPR (R274, R280): a run of the tile, the record's space, then 64 bytes of the record at a time. -/
def pieceCmpr (ch : Nat) (t : Transfer) (s : State) : Piece :=
  if t.tfull then putRecord ch t s
  else if t.tile.length < 4096 then gatherTile ch t s
  else beginRecord ch t s

/-- The words of a tile from its bitmap and its nonzero words' bytes. -/
def tileWords (map : Nat) : Nat → Nat → List Byte → List Nat
  | 0, _, _ => []
  | n + 1, w, l =>
    if bit map w then ofBytes (l.take 4) :: tileWords map n (w + 1) (l.drop 4)
    else 0 :: tileWords map n (w + 1) l

/-- EXPD turns to its next tile: the word of the offset table says where its record begins. -/
def beginTile (ch : Nat) (t : Transfer) (s : State) : Piece :=
  match s.badRead (s.spad t.tableAt) 4 with
  | some g => (s, t, some (t.memTrap ch g))
  | none =>
    let o := s.rdLE (s.spad t.tableAt) 4
    let lim := crgnBase t.crgn + crgnLen t.crgn
    let r := crgnBase t.crgn + o
    if o = 0 then (s, { t with tile := List.replicate 4096 0, tput := 0, tfull := true }, none)
    else if r + 128 > lim then (s, t, some (t.trap ch .spadRange 0 (r + 127)))
    else (s, { t with tile := [], tat := r }, none)

/-- Bytes of the record that EXPD gathers: the bitmap, and once it is at hand all of it. -/
def Transfer.recordLen (t : Transfer) : Nat :=
  if t.tile.length < 128 then 128 else ceilDiv (128 + 4 * popcount (ofBytes (t.tile.take 128)) 1024) 16 * 16

/-- A piece of EXPD that gathers 64 bytes of the record; with all of them at hand it has the tile's words. -/
def gatherRecord (ch : Nat) (t : Transfer) (s : State) : Piece :=
  let n := Nat.min 64 (t.recordLen - t.tile.length)
  let a := s.spad (t.tat + t.tile.length)
  if t.tat + t.recordLen > crgnBase t.crgn + crgnLen t.crgn then
    (s, t, some (t.trap ch .spadRange 0 (t.tat + t.recordLen - 1)))
  else if n = 0 then
    let ws := tileWords (ofBytes (t.tile.take 128)) 1024 0 (t.tile.drop 128)
    (s, { t with tile := ws.flatMap fun w => bytesOf w 4, tput := 0, tfull := true }, none)
  else match s.badRead a n with
  | some g => (s, t, some (t.memTrap ch g))
  | none => (s, { t with tile := t.tile ++ s.rdBytes a n }, none)

/-- A piece of EXPD that writes a run of the tile. -/
def putTile (ch : Nat) (t : Transfer) (s : State) : Piece :=
  let f := 1024 * t.cursor + t.tput / 4
  let n := Nat.min (t.sDst.runLen f) (1024 - t.tput / 4)
  match s.runBad t t.sDst (t.sDst.run f n) with
  | some g => (s, t, some (t.memTrap ch g))
  | none =>
    let x := s.writeElems ch t f (wordsIn n (t.tile.drop t.tput))
    (x.1, if t.tput + 4 * n < 4096 then { x.2 with tput := t.tput + 4 * n } else x.2.nextTile t.sDst.count, none)

/-- A piece of EXPD (R274, R280): the table's word, 64 bytes of the record at a time, then a run of the tile at a time. -/
def pieceExpd (ch : Nat) (t : Transfer) (s : State) : Piece :=
  if t.tfull then putTile ch t s
  else if t.tat = 0 then beginTile ch t s
  else gatherRecord ch t s

/-- Bytes that a load writes indivisibly: an HCW entry, a position, aligned 8 bytes of pair memory (R169, R252, R283). -/
def Transfer.loadUnit (t : Transfer) : Nat :=
  match t.op with
  | .ldhcw .. => 32
  | .ldpair .. => 8
  | _ => 1

/-- Source bytes of the next piece of a load. -/
def Transfer.loadRun (t : Transfer) : List Nat :=
  let f := t.cursor + t.tile.length
  (List.range (t.sSrc.runLen f)).map (f + ·)

/-- A piece of LDHCW, LDPLN or LDPAIR: a run of the source is read, and the whole units at hand are written (R283). -/
def pieceLoad (ch : Nat) (t : Transfer) (s : State) : Piece :=
  let l := t.tile ++ t.loadRun.map fun i => .ofNat 8 (s.elemOf t t.sSrc i)
  let n := l.length / t.loadUnit * t.loadUnit
  let a := winBase s.cur + (loadDest t.op).2.2 + t.xr.toNat + t.cursor
  match s.elemBad t t.sSrc t.loadRun with
  | some g => (s, t, some (t.memTrap ch g))
  | none =>
    match s.badWrite a n with
    | some g => (s, t, some (t.memTrap ch g))
    | none =>
      let x := s.emit ch t a (l.take n) t.cursor
      (x.1, { x.2 with cursor := t.cursor + n, tile := l.drop n, fin := decide (t.sSrc.count ≤ t.cursor + n) }, none)

/-! Entropy-coded blocks (R281, R282). -/

/-- Bytes i to i + n − 1 of the block at hand, its header first, as a number. -/
def Transfer.blockLE (t : Transfer) (i n : Nat) : Nat := ofBytes ((t.tile.drop i).take n)

/-- Code lengths of the sixteen symbols. -/
def lensOf (v : Nat) : List Nat := (List.range 16).map fun k => v / 16 ^ k % 16

/-- The codewords: length, code and symbol, as RFC 1951, section 3.2.2 assigns them. -/
def canonCodes (lens : List Nat) : List (Nat × Nat × Nat) :=
  ((List.range 12).foldl (fun (x : Nat × List (Nat × Nat × Nat)) i =>
    let l := i + 1
    let syms := (List.range 16).filter fun k => lens.getD k 0 == l
    ((x.1 + syms.length) * 2, x.2 ++ (List.range syms.length).map fun j => (l, x.1 + j, syms.getD j 0))) (0, [])).2

/-- 2^12 · Σ 2^(−len) over the present symbols. -/
def kraft (lens : List Nat) : Nat := lens.foldl (fun n l => if l = 0 then n else n + 2 ^ (12 - l)) 0

/-- The header is refused (R282), also where COUNT or PLEN is out of the range that R281 gives (DESIGN CHOICE, log 102). -/
def Transfer.badBlock (t : Transfer) (cb : Nat) : Bool :=
  let n := t.sSrc.count
  let lens := lensOf (t.blockLE 12 8)
  let cnt := t.blockLE 8 4
  let plen := t.blockLE 20 4
  decide (n < 32) || t.blockLE 0 4 != 0x43454231 || t.blockLE 4 1 != 1 || t.blockLE 5 1 != cb
    || t.blockLE 6 2 != 0 || decide (cnt < 1) || decide (cnt > 2 ^ 24) || lens.any (fun l => decide (l > 12))
    || lens.all (· == 0) || decide (kraft lens > 2 ^ 12) || decide (plen < 1) || decide (plen > 2 ^ 24)
    || decide (32 + plen > n) || decide (cnt > t.sDst.count)

/-- CRC-32C over one byte (R281). -/
def crcStep (c : Nat) : Nat → Nat
  | 0 => c
  | n + 1 => crcStep (if c % 2 = 1 then Nat.xor (c / 2) 0x82F63B78 else c / 2) n
def crcByte (c b : Nat) : Nat := crcStep (Nat.xor c b) 8

/-- Bit i of a payload, the most significant bit of byte 0 first. -/
def payBit (l : List Byte) (i : Nat) : Nat := (l.getD (i / 8) 0).toNat / 2 ^ (7 - i % 8) % 2

/-- One symbol from bit i of a payload, with `acc` of `len` bits read: the symbol and the next bit, or the detail of
DECODE_CHECKSUM. DEDUCED (log 51). -/
def symbolAt (pay : List Byte) (codes : List (Nat × Nat × Nat)) : Nat → Nat → Nat → Nat → Except Nat (Nat × Nat)
  | 0, _, _, _ => .error 2
  | n + 1, i, acc, len =>
    if 8 * pay.length ≤ i then .error 3
    else
      let acc := 2 * acc + payBit pay i
      match codes.find? fun c => c.1 == len + 1 && c.2.1 == acc with
      | some c => .ok (c.2.2, i + 1)
      | none => symbolAt pay codes n (i + 1) acc (len + 1)

/-- Up to n symbols from bit i: the symbols, the next bit, and the detail that ended them. -/
def symbols (pay : List Byte) (codes : List (Nat × Nat × Nat)) (longest : Nat) : Nat → Nat → List Nat × Nat × Option Nat
  | 0, i => ([], i, none)
  | n + 1, i =>
    match symbolAt pay codes longest i 0 0 with
    | .error d => ([], i, some d)
    | .ok (x, j) =>
      let r := symbols pay codes longest n j
      (x :: r.1, r.2.1, r.2.2)

/-- The CRC register and the pending low nibble (+ 1; 0: none) after more symbols. -/
def crcSymbols : List Nat → Nat × Nat → Nat × Nat
  | [], x => x
  | v :: l, (c, p) => if p = 0 then crcSymbols l (c, v + 1) else crcSymbols l (crcByte c (p - 1 + 16 * v), 0)

/-- The CRC of all symbols: a last odd one is packed with a zero high nibble. -/
def crcFinal (x : Nat × Nat) : Nat := Nat.xor (if x.2 = 0 then x.1 else crcByte x.1 (x.2 - 1)) 0xFFFFFFFF

/-- Source elements of the next run of a block, while it is being gathered; none once it is all at hand. -/
def Transfer.blockRun (t : Transfer) : List Nat :=
  let f := t.tile.length
  if t.work.isEmpty && decide (f < t.sSrc.count) then (List.range (t.sSrc.runLen f)).map (f + ·) else []

/-- Physical addresses of the pages that the transfer touches. -/
def Transfer.homes (t : Transfer) : List Nat :=
  (t.sSrc.touched ++ t.sDst.touched).map fun va => t.tr.get 0 (va / 65536) + va % 65536

/-- Least time of a DECODE whose block holds cnt symbols: of the larger of the bytes it reads and writes, and the decoder's own once the
last source byte has arrived (R276, R282). -/
def State.decodeTime (s : State) (t : Transfer) (cnt : Nat) : Nat :=
  Nat.max (s.leastOver (Nat.max (t.sSrc.bytes t.sSrc.count) (t.sDst.bytes cnt)) t.homes).1 (s.xnow - t.start) + 4 + ceilDiv cnt 8

/-- A piece of DECODE: a run of the source; the header's checks once the last source byte has arrived, from which its time counts;
then symbols from the cursor, whose bytes are used up, then the CRC (R274, R282). -/
def pieceDecode (ch cb : Nat) (t : Transfer) (s : State) : Piece :=
  let cnt := t.blockLE 8 4
  let codes := canonCodes (lensOf (t.blockLE 12 8))
  match t.work with
  | [i, crc, nib] =>
    let f := t.cursor
    let n := Nat.min (t.sDst.runLen f) (cnt - f)
    match s.runBad t t.sDst (t.sDst.run f n) with
    | some g => (s, t, some (t.memTrap ch g))
    | none =>
      let (vs, j, e) := symbols (t.tile.drop 32) codes (codes.foldl (fun m c => Nat.max m c.1) 0) n i
      let (s1, t1) := s.writeElems ch t f vs
      let x := crcSymbols vs (crc, nib)
      let c := f + vs.length
      let bad := match e with
        | some d => some (Cause.decodeChecksum.code, d)
        | none => if c = cnt ∧ crcFinal x ≠ t.blockLE 24 4 then some (Cause.decodeChecksum.code, 1) else none
      (s1, { t1 with cursor := c, work := [j % 8, x.1, x.2], tile := t.tile.take 32 ++ t.tile.drop (32 + j / 8), failed := bad, fin := bad.isSome || decide (cnt ≤ c) }, none)
  | _ =>
    match s.elemBad t t.sSrc t.blockRun with
    | some g => (s, t, some (t.memTrap ch g))
    | none =>
      if !t.blockRun.isEmpty then (s, { t with tile := t.tile ++ t.blockRun.map fun f => .ofNat 8 (s.elemOf t t.sSrc f) }, none)
      else if t.badBlock cb then (s, t, some (t.trap ch .illegalCode))
      else (s, { t with work := [0, 0xFFFFFFFF, 0], tile := t.tile.take (32 + t.blockLE 20 4), least := s.decodeTime t cnt }, none)

/-! Exchange and remote atomics (R284, R285, R288). -/

/-- Byte i of a SEND's packed elements; an odd count of 4-bit elements ends with a zero high nibble. -/
def State.sendByte (s : State) (t : Transfer) (i : Nat) : Byte :=
  let sh := t.sSrc
  if sh.bits = 4 then
    .ofNat 8 (s.elemOf t sh (2 * i) + if 2 * i + 1 < sh.count then 16 * s.elemOf t sh (2 * i + 1) else 0)
  else .ofNat 8 (s.elemOf t sh (i / sh.width) / 256 ^ (i % sh.width))

/-- Bytes of a SEND. -/
def Transfer.sendLen (t : Transfer) : Nat := t.sSrc.bytes t.sSrc.count

/-- Source elements of bytes i to i + n − 1. -/
def Transfer.sendElems (t : Transfer) (i n : Nat) : List Nat :=
  let sh := t.sSrc
  if sh.bits = 4 then ((List.range (2 * n)).map (2 * i + ·)).filter fun f => decide (f < sh.count)
  else (List.range n).map fun j => (i + j) / sh.width

/-- Length of the job's period, 2^c, and the cluster's cycle within it (R36, R359). -/
def State.jobOf (s : State) (c : Cluster) : Option Job :=
  c.task.bind fun r => s.jobs.find? fun j => j.lead == r.lead && j.slot == r.slot
def State.periodLen (s : State) (c : Cluster) : Nat := 2 ^ ((s.jobOf c).map (·.cexp)).getD 12
def Cluster.jobCycle (c : Cluster) : Nat := c.scyc + c.taskcyc.toNat

/-- Flit slots that start in [a, a + n) of a period of length p, the slot of TICK and DONE apart (R412). -/
def slotsIn (p a n : Nat) : Nat :=
  ((List.range n).filter fun i =>
    let t := a + i
    let k := [0, 2, 4, 6, 8, 11, 13, 15, 17].idxOf (t % 20)
    decide (k < 9) && decide (t - t % 20 + [2, 4, 6, 8, 11, 13, 15, 17, 20].getD k 20 ≤ p) && t != 0).length

/-- Bytes that a plan entry carries in one period (R413). -/
def entryBytes (p : Nat) (e : PlanEnt) : Nat := Nat.min e.bytes (128 * slotsIn p e.start e.len)

/-- The period of the job that the cluster in focus is in. -/
def State.periodNow (s : State) : Nat := s.cl.jobCycle / s.periodLen s.cl

/-- Bytes that each entry of the plan has carried for the channel in the present period (R284). -/
def State.entryUsed (s : State) (ch : Nat) : SMap Nat :=
  let c := s.cl.chan ch
  if c.slotPer = s.periodNow then c.slotUsed else []

/-- Bytes of other data of the channel in an entry's slots in the present period (R413). -/
def State.entryOther (s : State) (ch : Nat) : SMap Nat :=
  let c := s.cl.chan ch
  if c.sentPer = s.periodNow then c.sentUsed else []

/-- Bytes that an entry of the plan can still carry in the present period. -/
def State.entryLeft (s : State) (ch : Nat) (e : PlanEnt × Nat) : Nat :=
  entryBytes (s.periodLen s.cl) e.1 - (s.entryUsed ch).get 0 e.2 - (s.entryOther ch).get 0 e.2

/-- The plan entry in force for the transfer in the present cycle, with its place in the plan: the first in START order that is
not yet filled (R284). -/
def State.entryNow (s : State) (ch : Nat) (t : Transfer) : Option (PlanEnt × Nat) :=
  if !s.cl.locked then none else
  let p := s.periodLen s.cl
  let j := s.cl.jobCycle
  s.plan.zipIdx.find? fun (e : PlanEnt × Nat) =>
    planFits s.curCl ch (sendDie t.xr) (sendCl t.xr) e.1 && decide (e.1.start ≤ j % p) && decide (j % p < e.1.start + e.1.len)
      && decide (0 < s.entryLeft ch e)

/-- Bytes of a SEND from byte i whose source elements lie in one run (R274): a byte whose nibbles lie in two is a piece of its own. -/
def Transfer.sendRun (t : Transfer) (i : Nat) : Nat :=
  let sh := t.sSrc
  if sh.bits = 4 then
    let n := sh.runLen (2 * i)
    if 2 * i + n = sh.count then ceilDiv n 2 else Nat.max 1 (n / 2)
  else
    let f := i / sh.width
    (f + sh.runLen f) * sh.width - i

/-- Bytes that a SEND may move now: a run, in locked mode of what its plan entry still carries (R284). -/
def State.sendRoom (s : State) (ch : Nat) (t : Transfer) : Nat :=
  let n := Nat.min (Nat.min 64 (t.sendRun t.asked)) (t.sendLen - t.asked)
  if !s.cl.locked then n
  else match s.entryNow ch t with
  | none => 0
  | some e => Nat.min n (s.entryLeft ch e)

/-- The cursor of a SEND: its first byte not accepted. -/
def State.sendCursor (s : State) (t : Transfer) : Nat :=
  (s.die s.curDie).reqs.foldl (fun m r =>
    if t.out.contains r.seq.toNat && r.msg.typ == mSend then Nat.min m r.piece else m) t.asked

/-- A piece of SEND leaves for the receiving cluster (R285, R405). -/
def pieceSend (ch : Nat) (t : Transfer) (s : State) : Piece :=
  let n := s.sendRoom ch t
  match s.elemBad t t.sSrc (t.sendElems t.asked n) with
  | some g => (s, t, some (t.memTrap ch g))
  | none =>
    let r := s.request s.curDie s.curCl ch t.id t.asked
      { typ := mSend, ddie := .ofNat 6 (sendDie t.xr), dcl := .ofNat 4 (sendCl t.xr)
        arg := .ofNat 64 (sendOff t.xr + t.asked + sendXb t.xr * 2 ^ 21)
        data := (List.range n).map fun i => s.sendByte t (t.asked + i) }
    let s1 := match s.entryNow ch t with
      | none => r.1
      | some (_, m) =>
        let u := s.entryUsed ch
        { r.1 with cl := r.1.cl.setChan ch { r.1.cl.chan ch with
            slotPer := s.periodNow, slotUsed := u.set 0 m (u.get 0 m + n) } }
    let t1 := { t with out := t.out ++ [r.2], asked := t.asked + n, fin := decide (t.sendLen ≤ t.asked + n) }
    (s1, { t1 with cursor := s1.sendCursor t1 }, none)

/-- Physical target of a RAMO. -/
def Transfer.target (t : Transfer) : Nat := t.tr.get 0 (t.xr.toNat / 65536) + t.xr.toNat % 65536

/-- The new value of a CAS: the captured i((XV + 1) mod 8). -/
def Transfer.casNew (t : Transfer) : Word64 := t.src.headD 0

/-- The ATOMIC request (R405). -/
def atomicMsg (pa op : Nat) (wide nr : Bool) (x y : Word64) : Msg :=
  { typ := mAtomic, ddie := .ofNat 6 (paDie pa)
    arg := .ofNat 64 (pa % 2 ^ 52 + op * 2 ^ 52 + b2n wide * 2 ^ 56 + b2n nr * 2 ^ 57)
    data := bytesOf x.toNat 8 ++ if op = 9 then bytesOf y.toNat 8 else [] }

/-- A RAMO leaves for the owning die (R288). -/
def pieceRamo (ch op : Nat) (wide nr : Bool) (t : Transfer) (s : State) : Piece :=
  let r := s.request s.curDie s.curCl ch t.id 0 (atomicMsg t.target op wide nr t.xv t.casNew)
  (r.1, { t with out := t.out ++ [r.2], asked := 1, fin := true }, none)

/-! Held effects (R395). -/

/-- Entries of the commit buffer that a job uses on a die, and its share. -/
def State.heldFull (s : State) : Bool :=
  match s.cl.task with
  | none => false
  | some r =>
    let b := (s.die s.curDie).commit
    if s.cl.locked then decide (b.length ≥ 4096)
    else decide ((b.filter fun e => e.lead == r.lead && e.slot == r.slot).length ≥ 64) || decide (b.length ≥ 4096)

/-- An effect enters the commit buffer; none where it finds no room. -/
def State.enterHeld (s : State) (ch : Nat) (e : HeldEff) : Option State :=
  if s.heldFull then none
  else
    let r := s.cl.task.getD { lead := 0, slot := 0, idx := 0 }
    let e := { e with lead := r.lead, slot := r.slot, idx := r.idx, cl := s.curCl, ch := ch }
    some (s.updDie s.curDie fun d => { d with commit := d.commit ++ [e] })

/-- An empty entry to fill in. -/
def noEff : HeldEff := { lead := 0, slot := 0, cl := 0, ch := 0, atom := none }

/-- A RAMO to a page with HELD set enters the commit buffer, or raises XLATE_PERM detail 6, FADDR its target. DEDUCED (log 33). -/
def holdRamo (ch op : Nat) (wide : Bool) (t : Transfer) (s : State) : Piece :=
  match s.enterHeld ch { noEff with atom := some (op, b2n wide, t.xv, t.casNew), addr := t.target } with
  | some s1 => (s1, { t with fin := true, cursor := 1 }, none)
  | none => (s, t, some (t.trap ch .xlatePerm 6 t.xr.toNat))

/-- What a copy has gathered for one page with HELD set, the first of them, enters the commit buffer. Where it finds no room the copy
stops with XLATE_PERM detail 6; until it does, the cursor names the effect's first element, whose address FADDR is. DEDUCED (log 33). -/
def pieceSeal (ch : Nat) (t : Transfer) (s : State) : Piece :=
  match t.heldW with
  | [] => (s, t, none)
  | w :: _ =>
    match s.enterHeld ch { noEff with writes := (t.heldW.filter (·.page == w.page)).map (·.w) } with
    | some s1 => (s1, { t with heldW := t.heldW.filter (·.page != w.page), back := none }, none)
    | none => (s, { t with back := some (t.cursorAt w.el) }, some (t.trap ch .xlatePerm 6 w.va))

/-! One piece, and when it is due. -/

/-- Every piece of a held copy has been gathered: entries are still to be made, one for each page. -/
def Transfer.sealing (t : Transfer) : Bool := t.fin && !t.heldW.isEmpty

/-- Every piece has moved, and every held effect stands in the commit buffer. -/
def Transfer.moved (t : Transfer) : Bool := t.fin && t.heldW.isEmpty

/-- Bytes on another die that the next piece needs and that are not at hand. -/
def State.pieceLack (s : State) (ch : Nat) (t : Transfer) : Option Want :=
  if !t.far || t.sealing then none
  else match t.op with
  | .copy .. | .cvt .. | .xpose .. =>
    let n := t.pieceLen
    (s.lack t t.sSrc ((List.range n).map fun i => t.srcOf (t.cursor + i))).or
      (s.runLack t t.sDst (t.sDst.run t.cursor n))
  | .cmpr .. => if t.tfull then none else s.lack t t.sSrc t.tileRun
  | .decode .. =>
    (s.lack t t.sSrc t.blockRun).or
      (if t.work.isEmpty then none
       else s.runLack t t.sDst (t.sDst.run t.cursor (Nat.min (t.sDst.runLen t.cursor) (t.blockLE 8 4 - t.cursor))))
  | .ldhcw .. | .ldpln .. | .ldpair .. =>
    s.lack t t.sSrc t.loadRun
  | .send .. => s.lack t t.sSrc (t.sendElems t.asked (s.sendRoom ch t))
  | _ => none

/-- An earlier transfer of the channel that has all but entered the commit buffer keeps its place before this one. -/
def State.heldBefore (s : State) (ch : Nat) (t : Transfer) : Bool :=
  !t.held.isEmpty && ((s.cl.chan ch).q.takeWhile (·.id != t.id)).any fun x => !x.held.isEmpty && !x.moved

/-- The die that the next message of transfer t goes to: its own where it sends none. -/
def State.nextDie (s : State) (ch : Nat) (t : Transfer) : Nat :=
  let at_ (a : Nat) : Nat := if s.offDie a then paDie a else s.curDie
  if t.asks then at_ (s.elemAddr t t.sSrc t.asked)
  else match s.pieceLack ch t with
  | some w => at_ w.at_
  | none =>
    match t.op with
    | .send .. => sendDie t.xr
    | .copy .. | .cvt .. | .xpose .. | .decode .. => if t.held.isEmpty then at_ (s.elemAddr t t.sDst t.cursor) else s.curDie
    | .expd .. => if t.tfull then at_ (s.elemAddr t t.sDst (1024 * t.cursor + t.tput / 4)) else s.curDie
    | i => if (ramoFields i).isSome && t.held.isEmpty then at_ t.target else s.curDie

/-- The next piece's message has no route (R409). -/
def State.noRoute (s : State) (ch : Nat) (t : Transfer) : Bool := (s.hops s.curDie (s.nextDie ch t)).isNone

/-- The next piece of t may move now; one without a route waits while all traffic is held (R409). -/
def State.pieceDue (s : State) (ch : Nat) (t : Transfer) : Bool :=
  if t.done || t.moved || (s.hold.isSome && s.noRoute ch t) then false
  else if t.sealing then !s.heldBefore ch t
  else if t.asks then true
  else match s.pieceLack ch t with
  | some w => match s.askedFor t w.at_ with
    | some r => r.stopped
    | none => true
  | none =>
    if t.byMessage then
      match t.op with
      | .send .. => decide (0 < s.sendRoom ch t) && s.reqFree s.curDie (sendDie t.xr)
      | _ => !s.heldBefore ch t && (!t.held.isEmpty || s.reqFree s.curDie (paDie t.target))
    else (t.far || decide (t.start + t.least ≤ s.xnow)) && !s.heldBefore ch t

/-- A window of a logical cluster that is switched out is not there to be read or written (R294). -/
def State.awayPage (s : State) (p : Nat) : Bool :=
  tierOf p == .window && paKey p != s.cur && (s.cluster (paKey p)).frz.out
def State.blocked (s : State) (t : Transfer) : Bool := t.tr.any fun e => s.awayPage e.2

/-- The piece that a transfer's command moves next. -/
def movePiece (ch : Nat) (t : Transfer) (s : State) : Piece :=
  match t.op with
  | .cmpr .. => pieceCmpr ch t s
  | .expd .. => pieceExpd ch t s
  | .decode _ _ _ cb _ _ _ => pieceDecode ch cb.toNat t s
  | .ldhcw .. | .ldpln .. | .ldpair .. => pieceLoad ch t s
  | .send .. => pieceSend ch t s
  | i => match ramoFields i with
    | some (op, wide, nr) =>
      if t.held.isEmpty then pieceRamo ch op wide nr t s else holdRamo ch op wide t s
    | none => pieceElems ch t s

/-- A piece due of transfer t: LINK_DOWN where its message has no route (R409); bytes asked for, a stopped read met, a held copy entered, or a piece moved. -/
def runPiece (ch : Nat) (t : Transfer) (s : State) : Piece :=
  if t.sealing then pieceSeal ch t s
  else if s.noRoute ch t then (s, t, some (t.trap ch .linkDown))
  else if t.asks then
    let r := s.askNext ch t
    (r.1, r.2, none)
  else match s.pieceLack ch t with
  | some w => match s.askedFor t w.at_ with
    | some r => (s, t, some (t.memTrap ch ((s.badRead (r.msg.arg.toNat % 2 ^ 52) (r.msg.arg.toNat / 2 ^ 52 % 64 + 1)).getD (w.at_ / 8))))
    | none =>
      let r := s.ask ch t w.at_ w.n t.cursor
      (r.1, r.2, none)
  | none => movePiece ch t s

/-- TRANSFER_PIECE (R274): the next piece of a transfer, if it is due. -/
def execTransferPiece (ch : BitVec 2) (id : Word32) (s : State) : Out :=
  match s.xferOf s.cur ch.toNat id with
  | none => .next s
  | some t =>
    if !s.pieceDue ch.toNat t || s.blocked t then .next s
    else match runPiece ch.toNat t s with
    | (s1, t1, none) => .next (s1.putXfer ch.toNat t1)
    | (s1, t1, some x) => .next ((s1.putXfer ch.toNat t1).takeFault x)

/-! Completion (R268, R276, R290). -/

/-- All of a transfer's work is over, and its least time. -/
def State.worked (s : State) (t : Transfer) : Bool :=
  !t.done && t.moved && t.out.isEmpty && decide (t.start + t.least ≤ s.xnow)

/-- A transfer whose completion is due: in locked mode from its budget cycle on (R34). DESIGN CHOICE (log 8). -/
def State.completeDue (s : State) (t : Transfer) : Bool :=
  s.worked t && (!s.cl.locked || decide (t.due.getD 0 ≤ s.cyc))

/-- Done transfers at the head of a channel leave it and WMARK follows (R268). -/
def popDone : Word32 → List Transfer → Word32 × List Transfer
  | w, [] => (w, [])
  | w, t :: l => if t.done then popDone t.id l else (w, t :: l)

def Chan.settle (c : Chan) : Chan :=
  let r := popDone c.wmark c.q
  { c with wmark := r.1, q := r.2 }

/-- A transfer is complete: it is marked done, the watermark follows, its pins go (R268, R379). -/
def State.completeXfer (s : State) (k ch : Nat) (id : Word32) : State :=
  ((s.updXfer k ch id fun t => { t with done := true }).updCluster k fun c => c.setChan ch (c.chan ch).settle).unpin k ch id

/-- The completion of transfer t, or DECODE_CHECKSUM in its place (R282). -/
def State.completes (s : State) (ch : Nat) (t : Transfer) : State :=
  match t.failed with
  | some (_, d) => s.takeFault (t.trap ch .decodeChecksum d)
  | none => s.completeXfer s.cur ch t.id

/-- TRANSFER_COMPLETE (R268). -/
def execTransferComplete (ch : BitVec 2) (id : Word32) (s : State) : Out :=
  match s.xferOf s.cur ch.toNat id with
  | none => .next s
  | some t => .next (if s.completeDue t then s.completes ch.toNat t else s)

/-- BUDGET_CYCLE (R34): the budget cycle of a transfer whose work is over makes its completion observable; late work leaves
its waiters to overrun (R35). -/
def execBudgetCycle (ch : BitVec 2) (id : Word32) (s : State) : Out :=
  match s.xferOf s.cur ch.toNat id with
  | none => .next s
  | some t => .next (if s.cl.locked && s.completeDue t then s.completes ch.toNat t else s)

/-- Transfers of all channels with their channels, in order. -/
def Cluster.xfers (c : Cluster) : List (Nat × Transfer) :=
  (List.range 4).flatMap fun n => (c.chan n).q.map fun t => (n, t)

/-- The event of the copy engine that is due in the present cycle. -/
def State.copyDue (s : State) : Option Instr :=
  s.cl.xfers.findSome? fun x =>
    let ch := BitVec.ofNat 2 x.1
    if s.pieceDue x.1 x.2 && !s.blocked x.2 then some (.transferPiece ch x.2.id)
    else if s.completeDue x.2 then
      some (if s.cl.locked && x.2.due == some s.cyc then .budgetCycle ch x.2.id else .transferComplete ch x.2.id)
    else none

/-! Receive barriers, gates and fences. -/

/-- BARRIER_DUE_CYCLE (R286): from its due cycle on a barrier is seen as it is. -/
def execBarrierDueCycle (xb : BitVec 5) (s : State) : Out :=
  let b := s.cl.xb xb.toNat
  match b.due with
  | some d => .next (if s.cl.locked && decide (d ≤ s.cyc) then
      { s with cl := s.cl.setXb xb.toNat { b with due := none } } else s)
  | none => .next s

/-- A barrier whose due cycle has come. -/
def State.barrierDue (s : State) : Option Instr :=
  if s.cl.locked then
    (s.cl.xe.xb.find? fun x => match x.2.due with
      | some d => decide (d ≤ s.cyc)
      | none => false).map fun x => .barrierDueCycle (.ofNat 5 x.1)
  else none

/-- FENCE_S_PCIE_READ_COMPLETE (R309): the read that the host port issued has been answered. -/
def execFenceSPcieReadComplete (s : State) : Out :=
  .next (if s.cl.pcie = 1 then { s with cl := { s.cl with pcie := 2 } } else s)

end Sys2Proof.Machine
end

