-- ==== Sys2Proof/Machine/Image.lean ====
section
/-! DEFINITION. Context images (18 R373, R374; 12 R330): what a save writes, what a restore checks and loads. The bytes of the
memories and counters go where R373 puts them. The layout of the scalar, vector and matrix sections is the spec's silence:
their contents stand in State.images under the number that the image holds at +0x1000 (log 11). -/
namespace Sys2Proof.Machine

/-! Places. -/

/-- Physical cluster of a logical one. -/
def Die.physOf (d : Die) (n : Nat) : Nat := entPhys (d.clmap.get 0 n)

/-- Address of the slot of a doubled physical cluster: its place among those of the die (R367; DESIGN CHOICE, log 94). -/
def State.sliceSlot (s : State) (d p : Nat) : Nat :=
  let i := ((List.range p).filter fun q => (hostedOn (s.die d).clmap q).length == 2).length
  d * 2 ^ 45 + 0x15F0000000 + 0x600000 * i

/-! Moving memory. -/

/-- The entries of n bytes at a, numbered from b. -/
def shifted (m : SMap Byte) (a n b : Nat) : SMap Byte :=
  (m.filter fun e => decide (a ≤ e.1) && decide (e.1 < a + n)).map fun e => (e.1 - a + b, e.2)

/-- n bytes copied from a to b, with any uncorrectable errors among them. -/
def State.moveMem (s : State) (a b n : Nat) : State :=
  { s with
    mem := (s.mem.filter fun e => decide (e.1 < b)) ++ shifted s.mem a n b ++ (s.mem.filter fun e => decide (b + n ≤ e.1))
    bad := (s.bad.filter fun g => !(decide (b / 8 ≤ g) && decide (g * 8 < b + n)))
      ++ (s.bad.filter fun g => decide (a / 8 ≤ g) && decide (g * 8 < a + n)).map fun g => g - a / 8 + b / 8 }

/-- Sections of an image that are copies of window ranges: window offset, image offset, bytes (R373). -/
def fullSections : List (Nat × Nat × Nat) :=
  [(0x060000, 0x020000, 0x4000), (0x070000, 0x024000, 0x1C000), (0x000000, 0x040000, 0x40000),
   (0x040000, 0x080000, 0x20000), (0x300000, 0x120000, 0x100000), (0x100000, 0x220000, 0x200000)]

/-- Those that a portable image leaves unwritten: HCW table, planes, accumulator banks. -/
def deadSections : List (Nat × Nat × Nat) :=
  [(0x060000, 0x020000, 0x4000), (0x040000, 0x080000, 0x20000), (0x300000, 0x120000, 0x100000)]

def sectionsOf (portable : Bool) : List (Nat × Nat × Nat) :=
  if portable then fullSections.filter fun x => !deadSections.contains x else fullSections

/-- The counters of 65,536 cells written from a. -/
def State.putWords (s : State) (a : Nat) (m : SMap Word32) : State :=
  (m.filter fun e => decide (e.1 < 65536)).foldl (fun s e => s.wrBytes (a + 4 * e.1) (bytesOf e.2.toNat 4)) s

/-- The errors of counter granules go with them into the image at a, whose counters are sound otherwise (R448, log 108). -/
def State.putErrors (s : State) (a : Nat) (l : List Nat) : State := { s with bad := s.bad ++ l.map (a / 8 + 0x14000 + ·) }

/-- The words of n bytes at a. -/
def State.getWords (s : State) (a n : Nat) : SMap Word32 :=
  (shifted s.mem a n 0).foldl (fun (m : SMap Word32) e =>
    m.set 0 (e.1 / 4) (m.get 0 (e.1 / 4) ||| .ofNat 32 (e.2.toNat * 256 ^ (e.1 % 4)))) []

/-- Geometry words of the DU-D64 (R373). -/
def geometryFull : Nat := 0x0155200810081040
def geometryPortable : Nat := 0x01D5200810081040

/-- Conditions of R330 for a portable image of a cluster. -/
def Cluster.portable (c : Cluster) : Bool :=
  c.ve.pend.isEmpty && c.ve.lent == 0 && c.me.pass.isNone && c.me.drs.isEmpty && c.me.aclrs.isEmpty
    && c.me.rstats.isEmpty && c.me.nld.isNone && c.me.cblds.isEmpty && c.pe.job.isNone && c.ve.rsq.isEmpty

/-- Sections whose layout the spec leaves open, apart from the model's number: image offset and bytes. -/
def openSections (portable : Bool) : List (Nat × Nat) :=
  (0x1008, 0xEFF8) :: if portable then [] else [(0x010000, 0x10000), (0x420000, 0x10000)]

/-- n free bytes written at a. -/
def State.writeFree (s : State) (a n : Nat) : State :=
  { s.wrBytes a ((List.range n).map fun i => (Config.freeValue (s.fresh + i)).setWidth 8) with fresh := s.fresh + n }

/-- A context image of cluster k written at a (R373). DESIGN CHOICE (log 11). -/
def State.saveImage (s : State) (k a kind : Nat) (portable : Bool) : State :=
  let c := s.cluster k
  let slot := (c.task.map (·.slot)).getD 0
  let hdr := bytesOf 0x43585431 8 ++ bytesOf (if portable then geometryPortable else geometryFull) 8
    ++ bytesOf (k / 16 + k % 16 * 256) 4 ++ bytesOf slot 4 ++ bytesOf kind 8
  let s1 := (s.storeZero a 0x1000).wrBytes a hdr
  let s2 := (openSections portable).foldl (fun s x => (s.clearBad (a + x.1) x.2).writeFree (a + x.1) x.2)
    ((s1.storeZero (a + 0x1000) 8).wrBytes (a + 0x1000) (bytesOf s.images.length 8))
  let s3 := (sectionsOf portable).foldl (fun s x => s.moveMem (winBase k + x.1) (a + x.2.1) x.2.2) s2
  let s4 := if portable then s3 else
    (((s3.storeZero (a + 0xA0000) 0x80000).putWords (a + 0xA0000) ((c.me.pass.map (·.cnt)).getD [])).putWords
      (a + 0xE0000) c.me.dcnt).putErrors a (((c.me.pass.map (·.bad)).getD []) ++ c.me.dbad.map (0x8000 + ·))
  { s4 with images := s4.images ++ [c] }

/-- Parts of an image that a save writes and a restore reads: image offset and bytes. -/
def imageParts (portable : Bool) : List (Nat × Nat) :=
  (0, 0x10000) :: (sectionsOf portable).map (fun x => x.2)
    ++ if portable then [] else [(0x010000, 0x10000), (0x0A0000, 0x80000), (0x420000, 0x10000)]

/-- How the check of an image comes out (R374). -/
inductive ImageCheck
  | ok (portable : Bool)
  /-- its kind is not the one that the path restores -/
  | kind
  /-- CONTEXT_GEOMETRY -/
  | geometry
  /-- a granule that holds an uncorrectable error -/
  | bad (g : Nat)
deriving DecidableEq, Repr

/-- The checks of an image at a that a path for `kind` reads. -/
def State.checkImage (s : State) (a kind : Nat) : ImageCheck :=
  match s.badRead a 0x20 with
  | some g => .bad g
  | none =>
    if s.rdLE (a + 24) 4 ≠ kind then .kind
    else
      let w := s.rdLE (a + 8) 8
      let port := bit w 55
      if s.rdLE a 4 ≠ 0x43585431 ∨ field w 63 56 ≠ 1 then .geometry
      else if !port && w != geometryFull then .geometry
      else if port && field w 54 50 != 21 then .geometry
      else match (imageParts port).findSome? fun x => s.badRead (a + x.1) x.2 with
      | some g => .bad g
      | none => .ok port

/-- Die and logical cluster that an image names, and its job slot. -/
def State.imageKey (s : State) (a : Nat) : Nat :=
  let w := s.rdLE (a + 16) 4
  clKey (w % 64) (field w 11 8)
def State.imageSlot (s : State) (a : Nat) : Nat := s.rdLE (a + 20) 4

/-- The cluster state that an image's number names. -/
def State.imageCluster (s : State) (a : Nat) : Cluster := s.images.getD (s.rdLE (a + 0x1000) 8) {}

/-- The image at a is of this part's geometry (R373). -/
def State.sameGeometry (s : State) (a : Nat) : Bool := s.rdLE (a + 8) 8 == geometryPortable

/-- Launch values for the sections that a portable image leaves unwritten (R374); the M and PE configuration and the current operations
lie in its scalar section, and take launch values too where the image is of another geometry (R330). DEDUCED (log 29). -/
def Cluster.launchDead (c : Cluster) (same : Bool) : Cluster :=
  { c with
    ve := {}, v := { c.v with l0 := {}, l1 := {} }
    me := { c.me with cb := [], west := none, skw := none, skn := none, dcnt := [], dbad := [], dslen := none
                      cfg := if same then c.me.cfg else [], cur := if same then c.me.cur else [] }
    pe := { c.pe with cfg := if same then c.pe.cfg else [] } }

/-- Counters that come from an image hold no error: its check has met none. -/
def Cluster.soundCounters (c : Cluster) : Cluster :=
  { c with me := { c.me with pass := c.me.pass.map fun p => { p with bad := [] }, dbad := [] } }

/-- The launch values of the memories that a portable image leaves unwritten: the HCW image in the HCW table, 0 elsewhere (R169, R330,
R374). -/
def State.launchMemories (s : State) (k : Nat) (hcw : SMap Byte) : State :=
  (deadSections.foldl (fun s x => s.storeZero (winBase k + x.1) x.2.2) s).store (winBase k + offHcw)
    ((List.range 0x4000).map (hcw.get 0))

/-- Memories of cluster k, whose task began with the HCW image `hcw`, taken from the image at a; the reserved part of pair memory
stays 0 (R252). -/
def State.loadMemories (s : State) (k a : Nat) (hcw : SMap Byte) (portable : Bool) : State :=
  let s1 := (sectionsOf portable).foldl (fun s x => s.moveMem (a + x.2.1) (winBase k + x.1) x.2.2) s
  let s2 := if portable then s1.launchMemories k hcw else s1
  s2.storeZero (winBase k + offPair + 0x18280) 0x3D80

/-- Loads that a task waiting for cluster k had made there are to be made again. -/
def State.unload (s : State) (k : Nat) : State :=
  let f (t : TaskRec) : TaskRec := if t.stage = .loaded ∧ clKey t.die t.lcl = k then { t with stage := .waiting } else t
  { s with jobs := s.jobs.map fun j => { j with tasks := j.tasks.map f } }

/-- The checked image at a loaded into cluster k: what the image does not hold, the pending list, marks and freezes of the
place, stays (R370, R373). -/
def State.loadImage (s : State) (k a : Nat) (portable : Bool) : State :=
  let old := s.cluster k
  let c := s.imageCluster a
  let c := if portable then c.launchDead (s.sameGeometry a) else { c.soundCounters with me := { c.soundCounters.me with
    pass := c.soundCounters.me.pass.map fun p => { p with cnt := s.getWords (a + 0xA0000) 0x40000 }
    dcnt := s.getWords (a + 0xE0000) 0x40000 } }
  ((s.loadMemories k a c.hcw0 portable).unload k).setCluster k { c with
    tagA := none, tagB := none, quantum := old.quantum, expired := old.expired, resAt := old.resAt, pendl := old.pendl, resetBy := old.resetBy, saved := old.saved
    frz := { c.frz with save := false, out := old.frz.out, snap := old.frz.snap }, late := false, splitLeft := 0 }

end Sys2Proof.Machine
end

