-- ==== Sys2Proof/Machine/Queue.lean ====
section
/-! DEFINITION. Work queues, completions and the end of a job (18 R355 to R360, R363, R386). -/
namespace Sys2Proof.Machine

/-! Queues (R355, R356). -/

def State.updQueue (s : State) (d q : Nat) (f : Queue → Queue) : State :=
  s.updDie d fun x => x.setQueue q (f (x.queue q))

def Queue.size (x : Queue) : Nat := 2 ^ x.log2n.toNat
/-- Entries held. -/
def Queue.held (x : Queue) : Nat := (x.qtail - x.qhead).toNat
/-- A completion slot is free for the next entry. -/
def Queue.room (x : Queue) : Bool := decide ((x.qhead - x.qchead).toNat < x.size)
/-- It takes part in arbitration and holds an entry. -/
def Queue.ready (x : Queue) : Bool := x.en && decide (0 < x.held)
/-- It holds entries or uncompleted launches. -/
def Queue.busy (x : Queue) : Bool := decide (0 < x.held) || !x.owed.isEmpty
def Queue.weight (x : Queue) : Nat := x.wgt.toNat + 1

/-- The LOG2N that is taken (R355). -/
def log2nTaken (v : Nat) : BitVec 4 := if v < 4 then 4 else if 12 < v then 12 else .ofNat 4 v

/-- DOORBELL: QTAIL written; a write that overfills the ring sets TERR (R355). Queue registers take effect from state 5 on (R435). -/
def execDoorbell (die : BitVec 6) (q : BitVec 8) (v : BitVec 16) (s : State) : Out :=
  .next (if s.boot.bstate ≠ 5 then s else s.updQueue die.toNat q.toNat fun x =>
    if (v - x.qhead).toNat > x.size then { x with terr := true } else { x with qtail := v })

/-- Weights of the enabled queues of a level (R356). -/
def Die.levelSum (d : Die) (p : Nat) : Nat :=
  ((d.queues.filter fun x => x.2.en && x.2.pri.toNat == p).map fun x => x.2.weight).foldl (· + ·) 0

/-- The queue after a write of its control word, LOG2N apart. -/
def Queue.control (x : Queue) (v : Nat) : Queue :=
  { x with en := bit v 31, ien := bit v 30, wgt := .ofNat 4 (field v 9 6), pri := .ofNat 2 (field v 5 4) }

/-- A write of a queue's control word: one that would take a level's weights past 256 is ignored as a whole and sets WERR (R356);
LOG2N stays while the queue is in use, and a change refused so is recorded (R355). DEDUCED (log 54). -/
def State.queueControl (s : State) (die q v who port : Nat) : State :=
  let d := s.die die
  let x := d.queue q
  let y := x.control v
  let n := log2nTaken (v % 16)
  if s.boot.bstate ≠ 5 then s
  else if (d.setQueue q y).levelSum y.pri.toNat > 256 then s.updQueue die q fun x => { x with werr := true }
  else
    let s1 := s.updQueue die q fun _ => if x.busy then y else { y with log2n := n }
    if x.busy && n != x.log2n then s1.ignored 1 die 0 (regSeen who die (0x10000 + 0x40 * q + 8)) v 4 who port else s1

/-- QUEUE_CONTROL_WRITE, by the host through the port at D0. -/
def execQueueControlWrite (die : BitVec 6) (q : BitVec 8) (v : Word32) (s : State) : Out :=
  .next (s.queueControl die.toNat q.toNat v.toNat 1 0)

/-- Address of entry i of a queue. -/
def Queue.entryAt (x : Queue) (i : Nat) : Nat := x.qbase.toNat + 64 * (i % x.size)

/-! Jobs and their clusters. -/

def State.job? (s : State) (lead slot : Nat) : Option Job := s.jobs.find? fun j => j.lead == lead && j.slot == slot
def State.updJob (s : State) (lead slot : Nat) (f : Job → Job) : State :=
  { s with jobs := s.jobs.map fun j => if j.lead = lead ∧ j.slot = slot then f j else j }

def TaskRec.key (t : TaskRec) : Nat := clKey t.die t.lcl
def Job.ref (j : Job) (i : Nat) : TaskRef := { lead := j.lead, slot := j.slot, idx := i }
def Job.owns (j : Job) (r : TaskRef) : Bool := r.lead == j.lead && r.slot == j.slot
def Job.updTask (j : Job) (i : Nat) (f : TaskRec → TaskRec) : Job := { j with tasks := j.tasks.modify i f }

/-- Clusters that hold a task of the job. -/
def State.jobKeys (s : State) (j : Job) : List Nat :=
  ((j.tasks.map (·.key)).eraseDups).filter fun k => ((s.cluster k).task.map j.owns).getD false

/-- Every cluster changed. -/
def State.mapClusters (s : State) (f : Cluster → Cluster) : State :=
  { s with cl := f s.cl, park := s.park.map fun e => (e.1, f e.2) }

/-! Completions (R360). -/

def completionBytes (tag status cause nfault nret nreplay tend ovr : Nat) : List Byte :=
  bytesOf tag 4 ++ bytesOf status 1 ++ bytesOf cause 1 ++ bytesOf nfault 2 ++ bytesOf nret 4 ++ bytesOf nreplay 4
    ++ bytesOf tend 8 ++ bytesOf ovr 8

/-- The job of a written completion leaves its slot; its dies are free (R362, R363). -/
def State.dropJob (s : State) (d q : Nat) (idx : BitVec 16) : State :=
  match s.jobs.find? fun j => j.lead == d && j.queue == q && j.index == idx && j.closed with
  | none => s
  | some j =>
    ({ s with
      jobs := s.jobs.filter fun x => !(x.lead == j.lead && x.slot == j.slot)
      dies := s.dies.map fun e => (e.1, if e.2.owner = some (j.lead, j.slot) then { e.2 with owner := none } else e.2)
    } : State).mapClusters fun c =>
      { c with resetBy := c.resetBy.filter (· != (j.lead, j.slot)), saved := c.saved.filter fun r => !j.owns r }

/-- Known completions at the head of a queue's debts are written in admission order, n at most (R360). -/
def State.flushN (s : State) (d q : Nat) : Nat → State
  | 0 => s
  | n + 1 =>
    let x := (s.die d).queue q
    match x.owed with
    | (idx, some l) :: r =>
      let s1 := s.store (x.qcbase.toNat + 32 * (x.qctail.toNat % x.size)) l
      let s2 := s1.updQueue d q fun y => { y with owed := r, qctail := y.qctail + 1 }
      let s3 := if x.ien then s2.interrupt x.qivec.toNat else s2
      State.flushN (s3.dropJob d q (.ofNat 16 idx)) d q n
    | _ => s

def State.flush (s : State) (d q : Nat) : State := s.flushN d q ((s.die d).queue q).owed.length

/-- The completion of entry idx of a queue is known. -/
def State.owe (s : State) (d q idx : Nat) (l : List Byte) : State :=
  (s.updQueue d q fun x => { x with owed := x.owed.map fun e => if e.1 = idx then (idx, some l) else e }).flush d q

/-- The event of a STATUS 2 completion (R360, R423). -/
def State.postJobFault (s : State) (d q idx slot cause addr : Nat) (l : List Byte) : State :=
  s.postEvent (if cause = 5 then 0x15 else 0x19) 1 d q
    (l ++ bytesOf idx 2 ++ bytesOf slot 6 ++ bytesOf (if cause = 12 then addr else 0) 8)

/-! A task leaving its cluster. -/

/-- The counters of cluster k's task stand in its record (R323, R360). -/
def State.noteCounters (s : State) (k : Nat) : State :=
  let c := s.cluster k
  match c.task with
  | none => s
  | some r => s.updJob r.lead r.slot fun j => j.updTask r.idx fun t =>
      { t with ovr := c.ovrcyc.toNat, frz := c.frzcyc.toNat, slice := c.slicecnt.toNat, cyc := c.taskcyc.toNat }

/-- The task of cluster k leaves: its place in the job is marked, its overrun counted (R27, R360, R386). A save request ends with OUT 2
where the task retires (R369), with OUT 3 where it is aborted (DESIGN CHOICE, log 54). -/
def State.leave (s : State) (k : Nat) (st : TStage) : State :=
  let c := s.cluster k
  let s0 := s.noteCounters k
  let s1 := match c.task with
    | none => s0
    | some r => s0.updJob r.lead r.slot fun j =>
      { j.updTask r.idx fun t =>
          { t with stage := st, retPer := j.period, retClk := s.clk, retStep := j.step } with
        aborted := j.aborted || decide (st = TStage.aborted) }
  let s2 := s1.updCluster k fun c => { c with task := none, locked := false }
  s2.updDie (k / 16) fun d =>
    let p := d.preempt (k % 16)
    if p.req then d.setPreempt (k % 16) { p with req := false, busy := false, out := if st = TStage.retired then 2 else 3 } else d

/-- Every pin that the commands of cluster k hold (R379, R397). -/
def State.unpinAll (s : State) (k : Nat) : State :=
  (s.updDie (k / 16) fun d => { d with tlb := (d.tlb.map fun e =>
      { e with pins := e.pins.filter fun p => p.1 != k % 16 }).filter fun e => !e.pins.isEmpty })

/-- Operations in flight dropped (R386, R393). -/
def Cluster.dropWork (c : Cluster) : Cluster :=
  { c with
    ve := { c.ve with pend := [] }
    me := { c.me with pass := none, drs := [], aclrs := [], rstats := [], nld := none, cblds := []
                      cfgP := [], pcfgP := [], bindP := [] }
    pe := { c.pe with job := none }
    xe := { c.xe with ch := c.xe.ch.map fun e => (e.1, { e.2 with q := [] }) }
    semP := [], engP := [], kP := [], seedP := [], swapP := false, pcie := 0, late := false, splitLeft := 0 }

/-- A request of a transfer of the cluster's task. -/
def Req.own (r : Req) : Bool := r.held.isNone && r.orphan.isNone && r.away.isNone

/-- Requests that cluster k's die holds for it are no longer held: an answer that comes later is discarded. -/
def State.dropReqs (s : State) (k : Nat) : State :=
  s.updDie (k / 16) fun d => { d with reqs := d.reqs.filter fun r => !(r.cl == k % 16 && r.own) }

/-- An atomic already sent that its home is still to execute (R30). -/
def Req.sentAtomic (r : Req) : Bool := r.msg.typ == 0x04 && !r.stopped

/-- The requests of an aborted task: atomics already sent are executed, and its job's completion waits for them (R30, R311);
the others are dropped. -/
def State.orphanReqs (s : State) (k : Nat) (lead slot : Nat) : State :=
  s.updDie (k / 16) fun d => { d with reqs := d.reqs.filterMap fun r =>
    if r.cl == k % 16 && r.own then (if r.sentAtomic then some { r with orphan := some (lead, slot) } else none) else some r }

/-- Atomics of aborted tasks of the job are under way. -/
def State.orphans (s : State) (lead slot : Nat) : Bool := s.dies.any fun e => e.2.reqs.any fun r => r.orphan == some (lead, slot)

/-- A task of the job has started on cluster k. -/
def Job.startedOn (j : Job) (k : Nat) : Bool :=
  j.tasks.any fun t => t.key == k && decide (t.stage ≠ .waiting ∧ t.stage ≠ .loaded)

/-- Jobs that have started on cluster k: to each of them the cluster is reset once a task on it is aborted (R287, R386). -/
def State.startedOn (s : State) (k : Nat) : List (Nat × Nat) := (s.jobs.filter (·.startedOn k)).map fun j => (j.lead, j.slot)

/-- Requests that wait with a pre-empted task are given up with it. -/
def State.dropAway (s : State) (p : TaskRef → Bool) : State :=
  { s with dies := s.dies.map fun e => (e.1, { e.2 with reqs := e.2.reqs.filter fun r => !r.away.any p }) }

/-- A task ended by ABORT, or by the end of its job (R386). Its engines run no more; what they were at stands in the cluster's
registers (R32) until another task starts there. -/
def State.abortTask (s : State) (k : Nat) : State :=
  match (s.cluster k).task with
  | none => s
  | some r =>
    let s1 := ((s.unpinAll k).orphanReqs k r.lead r.slot).updDie (k / 16) fun d =>
      { d with commit := d.commit.filter fun e => !(e.lead == r.lead && e.slot == r.slot && e.idx == r.idx) }
    let s2 := s1.updCluster k fun c => { c with
      ve := { c.ve with pend := [] }, semP := [], engP := [], kP := [], seedP := [], swapP := false
      pcie := 0, late := false, splitLeft := 0, resetBy := (c.resetBy ++ s.startedOn k).eraseDups, flt := { c.flt with valid := false }, heldF := [], fltNow := none
      frz := { out := c.frz.out, snap := c.frz.snap } }
    s2.leave k .aborted

/-- Every task of a job ended: those that run are aborted, the others never start (R386, R394, R396). -/
def State.abortAll (s : State) (lead slot : Nat) : State :=
  match s.job? lead slot with
  | none => s
  | some j =>
    let s1 := (s.jobKeys j).foldl (fun s k => s.abortTask k) s
    let s2 := (s1.dropAway j.owns).mapClusters fun c => { c with pendl := c.pendl.filter fun r => !j.owns r, saved := c.saved.filter fun r => !j.owns r }
    let s3 := s2.updJob lead slot fun x => { x with aborted := true, tasks := x.tasks.map fun t =>
      if t.stage = .retired then t else { t with stage := .aborted, rest := false } }
    s3.settleInval

/-- Every held effect of a job discarded (R396). -/
def State.dropHeld (s : State) (lead slot : Nat) : State :=
  { s with dies := s.dies.map fun e => (e.1, { e.2 with
      commit := e.2.commit.filter fun h => !(h.lead == lead && h.slot == slot)
      reqs := e.2.reqs.filterMap fun r =>
        if r.held == some (lead, slot) then
          (if r.sentAtomic then some { r with held := none, orphan := some (lead, slot) } else none)
        else some r }) }

/-- The completion of a job whose tasks have all retired or been aborted, or which has failed (R360, R386):
atomics of its tasks that are still under way are awaited (R311). TEND is the time at which it becomes known (DESIGN CHOICE, log
112). -/
def State.finishJob (s : State) (lead slot : Nat) : State :=
  match s.job? lead slot with
  | none => s
  | some j =>
    if j.closed then s
    else if s.orphans lead slot then s.updJob lead slot fun x => { x with ending := true }
    else
      let status := if j.fail.isSome then 2 else if j.aborted then 1 else 0
      let nret := (j.tasks.filter fun t => decide (t.stage = .retired)).length
      let l := completionBytes j.tag.toNat status (j.fail.getD 0) j.nfault nret j.nreplay s.mtime.toNat
        ((j.tasks.map (·.ovr)).foldl (· + ·) 0)
      let s0 := s.updJob lead slot fun x => { x with closed := true, saveReq := false }
      let s1 := if j.saveReq then s0.updDie lead fun d => { d with jreq := false, jout := 2 } else s0
      let s2 := match j.fail with
        | none => s1
        | some c => s1.postJobFault lead j.queue j.index.toNat slot c j.failAddr l
      s2.owe lead j.queue j.index.toNat l

/-- The last atomic that a job's end awaited has been answered. -/
def State.endJob (s : State) (lead slot : Nat) : State :=
  match s.job? lead slot with
  | some j => if j.ending && !j.closed then s.finishJob lead slot else s
  | none => s

/-- The job's tasks are over. -/
def Job.over (j : Job) : Bool := j.ending || j.closed

/-- The job ends with STATUS 2 and a cause (R364, R394, R396). -/
def State.failJob (s : State) (lead slot cause addr : Nat) : State :=
  let s1 := (s.abortAll lead slot).dropHeld lead slot
  (s1.updJob lead slot fun j => { j with fail := some cause, failAddr := addr }).finishJob lead slot

/-- Every task of the job has retired or been aborted. -/
def Job.done (j : Job) : Bool := j.tasks.all fun t => decide (t.stage = .retired ∨ t.stage = .aborted)

end Sys2Proof.Machine
end

