-- ==== Sys2Proof/Machine/Wire.lean ====
section
/-! DEFINITION. Messages and flit payloads as bytes (20 R402, R404 to R406). -/
namespace Sys2Proof.Machine

/-! Messages (R404). -/

/-- Bytes of a message in a flit. -/
def msgSize (m : Msg) : Nat := 16 + ceilDiv m.data.length 8 * 8

/-- Bytes 4 to 7: zero, SDIE, SEQ. -/
def msgTid (m : Msg) : Nat := m.sdie.toNat * 2 ^ 20 + m.seq.toNat

/-- A message's header and data, padded to a multiple of 8 bytes (R402, R404). -/
def msgBytes (m : Msg) : List Byte :=
  [m.typ, .ofNat 8 (m.scl.toNat * 16 + m.dcl.toNat), .ofNat 8 (m.ch.toNat * 64 + m.ddie.toNat), .ofNat 8 m.data.length]
    ++ bytesOf (msgTid m) 4 ++ bytesOf m.arg.toNat 8 ++ m.data ++ List.replicate (msgSize m - 16 - m.data.length) 0

/-- The width of the ARG bits that a type names (R405). -/
def argBits (typ : Nat) : Nat :=
  match typ with
  | 1 => 52 | 2 => 58 | 4 => 58 | 6 => 26 | 8 => 8 | 9 => 60 | 10 => 60
  | _ => 0

/-- The message that stands at the head of l with what follows it; none where it is malformed (R406). -/
def msgAt (l : List Byte) : Option (Msg × List Byte) :=
  let b (i : Nat) : Nat := (l.getD i 0).toNat
  let len := b 3
  let room := ceilDiv len 8 * 8
  let tid := ofBytes ((l.drop 4).take 4)
  let arg := ofBytes ((l.drop 8).take 8)
  if b 0 < 1 ∨ 10 < b 0 ∨ 64 < len ∨ l.length < 16 + room ∨ 2 ^ 26 ≤ tid ∨ 2 ^ argBits (b 0) ≤ arg
      ∨ ((l.drop (16 + len)).take (room - len)).any (· != 0) then none
  else some
    ({ typ := .ofNat 8 (b 0), scl := .ofNat 4 (b 1 / 16), dcl := .ofNat 4 (b 1), ch := .ofNat 2 (b 2 / 64), ddie := .ofNat 6 (b 2)
       sdie := .ofNat 6 (tid / 2 ^ 20), seq := .ofNat 20 tid, arg := .ofNat 64 arg, data := (l.drop 16).take len },
     l.drop (16 + room))

/-- n messages in a row; the bytes that they leave are zero. -/
def msgsAt : Nat → List Byte → Option (List Msg)
  | 0, l => if l.any (· != 0) then none else some []
  | n + 1, l => match msgAt l with
    | none => none
    | some (m, r) => (msgsAt n r).map (m :: ·)

/-! Flit payloads (R402). -/

/-- A payload of 240 bytes. -/
def flitOf (fseq ackseq : BitVec 16) (ackv : Bool) (ms : List Msg) : Flit :=
  let l := ms.flatMap msgBytes
  { payload := bytesOf fseq.toNat 2 ++ bytesOf ackseq.toNat 2 ++ [.ofNat 8 (b2n ackv), .ofNat 8 ms.length, 0, 0] ++ l
      ++ List.replicate (232 - l.length) 0 }

end Sys2Proof.Machine

namespace Sys2Proof

def Flit.byte (f : Flit) (i : Nat) : Nat := (f.payload.getD i 0).toNat
def Flit.fseq (f : Flit) : BitVec 16 := .ofNat 16 (f.byte 0 + 256 * f.byte 1)
def Flit.ackseq (f : Flit) : BitVec 16 := .ofNat 16 (f.byte 2 + 256 * f.byte 3)
def Flit.ackv (f : Flit) : Bool := (f.byte 4).testBit 0

/-- The messages of a payload; none where it is malformed (R406). -/
def Flit.msgs? (f : Flit) : Option (List Msg) :=
  if f.payload.length ≠ 240 ∨ 2 ≤ f.byte 4 ∨ 14 < f.byte 5 ∨ f.byte 6 ≠ 0 ∨ f.byte 7 ≠ 0 then none
  else Machine.msgsAt (f.byte 5) (f.payload.drop 8)

def Flit.msgs (f : Flit) : List Msg := f.msgs?.getD []

/-- A request, to which an answer comes. -/
def Msg.asks (m : Msg) : Bool := m.typ == Machine.mWrite || m.typ == Machine.mReadReq || m.typ == Machine.mAtomic || m.typ == Machine.mSend
def Msg.ticks (m : Msg) : Bool := m.typ == Machine.mTick || m.typ == Machine.mDone

end Sys2Proof

namespace Sys2Proof.Machine

def badFlit (f : Flit) : Bool := f.msgs?.isNone

/-- Messages that the next flit takes: in order, while they fit. -/
def flitTake : Nat → Nat → List Msg → List Msg
  | 0, _, _ => []
  | _, _, [] => []
  | n + 1, room, m :: l => if msgSize m ≤ room then m :: flitTake n (room - msgSize m) l else []

/-- A message that carries data beside its header, of which a slot carries two (R413). -/
def carriesData (m : Msg) : Bool := m.typ == mWrite || m.typ == mReadData || m.typ == mSend

/-- Two messages of one channel of one cluster, whose order is kept. -/
def sameChan (a b : Msg) : Bool :=
  a.sdie == b.sdie && a.scl == b.scl && a.ddie == b.ddie && a.dcl == b.dcl && a.ch == b.ch

/-- What a slot takes of the messages that may use it beside those picked before them, and what is left, `left` among it: n messages
in all, `data` that carry data and `small` bytes of others (R413). One that is left holds back those that follow it. -/
def flitPick (follows : Msg → Msg → Bool) (may : List Msg → Msg → Bool) :
    (n data small : Nat) → (picked left : List Msg) → List Msg → List Msg × List Msg
  | _, _, _, _, left, [] => ([], left)
  | n, data, small, picked, left, m :: l =>
    let fits := if carriesData m then decide (0 < data) else decide (msgSize m ≤ small)
    if 0 < n ∧ fits ∧ !left.any (follows m) ∧ may picked m then
      let r := if carriesData m then flitPick follows may (n - 1) (data - 1) small (m :: picked) left l
        else flitPick follows may (n - 1) data (small - msgSize m) (m :: picked) left l
      (m :: r.1, r.2)
    else flitPick follows may n data small picked (left ++ [m]) l

end Sys2Proof.Machine
end

