-- ==== Sys2Proof/Machine/Lanes.lean ====
section
/-! DEFINITION. The slots of a Girth link and what may use them (01 R19, R33, R36; 10 R284; 20 R412 to R416). -/
namespace Sys2Proof.Machine

/-! Slots (R412, R414). -/

/-- Cycles of the slot that starts at cycle t of a period; 0 where none starts there. -/
def slotLen (t : Nat) : Nat :=
  if [0, 2, 4, 6, 11, 13, 15].contains (t % 20) then 2 else if [8, 17].contains (t % 20) then 3 else 0

/-- Cycles that a flit takes from there: one slot, or two in a row on a stretched fabric. -/
def slotSpan (two : Bool) (t : Nat) : Nat :=
  let n := slotLen t
  if two && n != 0 then n + slotLen (t + n) else n

/-- The other end of link j of die d. -/
def otherEnd (d j : Nat) : Nat × Nat := (linkPeer d j, peerLink j)

/-! Whose a message is. -/

/-- The request that a message is or answers, as its source keeps it. -/
def State.msgReq (s : State) (m : Msg) : Option Req :=
  (s.die (if m.asks then m.sdie else m.ddie).toNat).reqs.find? (·.seq == m.seq)

/-- The job of a message. -/
def State.msgJob (s : State) (m : Msg) : Option Job :=
  if m.ticks then s.job? (m.arg.toNat / 2 ^ 54 % 64) (m.arg.toNat / 2 ^ 48 % 64)
  else (s.msgReq m).bind fun r =>
    match (r.orphan.or r.held).or (r.away.map fun t => (t.lead, t.slot)) with
    | some (lead, slot) => s.job? lead slot
    | none => s.jobOf (s.cluster (clKey r.msg.sdie.toNat r.cl))

/-- Die d made the message: it does not forward it. -/
def State.madeBy (s : State) (d : Nat) (m : Msg) : Bool :=
  if m.asks || m.ticks then m.sdie.toNat == d else (s.msgReq m).all fun r => r.msg.ddie.toNat == d

/-- Message m stays behind the earlier one x on an output of die d: of one channel, or both forwarded, which leave in the order in
which they came (R401), TICK and DONE, which have a slot of their own, apart (log 60). -/
def State.follows (s : State) (d : Nat) (m x : Msg) : Bool :=
  sameChan m x || (m.ticks == x.ticks && !s.madeBy d m && !s.madeBy d x)

/-! Stitch plans on links (R413). -/

/-- Links of the route from die a to die b: die and link of each hop. -/
def State.route (s : State) (b : Nat) : Nat → Nat → List (Nat × Nat)
  | 0, _ => []
  | n + 1, a => if a = b then [] else match s.nextHop a b with
    | none => []
    | some j => (a, j) :: State.route s b n (linkPeer a j)

/-- First cycle of a period in which an entry of die a's plan holds link j of die d, for its requests or their answers. -/
def State.entryFrom (s : State) (a : Nat) (e : PlanEnt) (d j : Nat) : Option Nat :=
  ((s.route e.ddie 64 a).findIdx? fun x => x == (d, j) || x == otherEnd d j).map fun i => e.start + 24 * i

/-- The entry that holds the slot that starts at cycle p, with its source die: the lower die's, then the one of the lower START. -/
def State.holder (s : State) (x : Job) (d j p : Nat) : Option (Nat × PlanEnt) :=
  x.plans.findSome? fun (y : Nat × List PlanEnt) =>
    (y.2.find? fun e => (s.entryFrom y.1 e d j).any fun t => decide (t ≤ p) && decide (p < t + e.len)).map fun e => (y.1, e)

/-- A data entry of die a's plan that names the request q; a SEND's names its cluster too. -/
def entryNames (e : PlanEnt) (q : Msg) : Bool :=
  !e.slack && e.cl == q.scl.toNat && e.ch == q.ch.toNat && e.ddie == q.ddie.toNat && (q.typ != mSend || e.dcl == q.dcl.toNat)

/-- Data that an entry of die a's plan carries for SENDs goes by pieces that fit it (R284); other data, a WRITE's and a READ_DATA's,
is counted as it leaves the die that makes it. -/
def countedData (q m : Msg) : Bool := carriesData m && q.typ != mSend

/-- Place of an entry in its die's plan. -/
def Job.entryIdx (x : Job) (a : Nat) (e : PlanEnt) : Nat := (x.plans.get [] a).idxOf e

/-- Bytes that an entry of die a's plan can still carry in the job's present period (R413). -/
def State.slotLeft (s : State) (x : Job) (a : Nat) (e : PlanEnt) : Nat :=
  let c := (s.cluster (clKey a e.cl)).chan e.ch
  let i := x.entryIdx a e
  entryBytes (2 ^ x.cexp) e - (if c.slotPer = x.period then c.slotUsed.get 0 i else 0)
    - (if c.sentPer = x.period then c.sentUsed.get 0 i else 0)

/-- Bytes of those messages of a list that count against an entry where die d makes them. -/
def State.countedBytes (s : State) (d : Nat) (l : List Msg) : Nat :=
  ((l.filter fun m => s.madeBy d m && (s.msgReq m).any fun r => countedData r.msg m).map fun m => m.data.length).foldl (· + ·) 0

/-- The slots on this link of the entries that name a message are over in this period, or full, or there are none: it takes a slot
that no data entry holds (R413; DESIGN CHOICE, log 60). -/
def State.displaced (s : State) (x : Job) (q : Msg) (d j p : Nat) : Bool :=
  (x.plans.get [] q.sdie.toNat).all fun e =>
    !entryNames e q || (q.typ != mSend && s.slotLeft x q.sdie.toNat e == 0)
      || (s.entryFrom q.sdie.toNat e d j).all fun t => decide (t + e.len ≤ p)

/-- Beside those picked, a message of the job x may use the slot at cycle p of the period, which h holds: slot 0 of frame 0 is for
TICK and DONE. -/
def State.mayUse (s : State) (x : Job) (h : Option (Nat × PlanEnt)) (d j p : Nat) (picked : List Msg) (m : Msg) : Bool :=
  let open_ := h.all fun y => y.2.slack
  if !(s.msgJob m).any fun y => y.lead == x.lead && y.slot == x.slot then false
  else if m.ticks then p == 0 || open_
  else if p = 0 then false
  else match s.msgReq m with
  | none => open_
  | some r => (match h with
      | some (a, e) => a == r.msg.sdie.toNat && entryNames e r.msg
        && (!(s.madeBy d m && countedData r.msg m) || decide (s.countedBytes d (m :: picked) ≤ s.slotLeft x a e))
      | none => false) || (open_ && s.displaced x r.msg d j p)

/-! What an output sends in a clock cycle. -/

/-- A chance to send: clock cycles that the flit takes and its hop time, whether a flit sent before may go again in it, the
messages that a new flit takes, those left, and the entry that holds its slot, with its die and the job. -/
structure Chance where
  span  : Nat
  hop   : Nat
  again : Bool
  msgs  : List Msg
  rest  : List Msg
  entry : Option (Job × Nat × PlanEnt) := none

/-- The job's periods have begun: its traffic follows its slots. -/
def Job.slotted (x : Job) : Bool := x.locked && x.t0.isSome && !x.closed

/-- A slot of the link that an entry of the job's plans holds, or that TICK and DONE have, begins within n clock cycles from now, or
has begun and is not over. -/
def State.holds (s : State) (x : Job) (d j n : Nat) : Bool :=
  (List.range (n + 5)).any fun i =>
    let q := s.clk - x.began + i
    let p := q - 5
    let m := slotSpan (s.stretch || ((s.die d).link j).width == 32) p
    decide (5 ≤ q) && m != 0 && decide (5 < i + m) && decide (p + m ≤ 2 ^ x.cexp)
      && (p == 0 || (s.holder x d j p).isSome)

/-- The chance of a locked job: a slot of its period, or, once the period is over, any slot, for the link to drain (R412 to R414). A
job of a lower lead die goes first where their slots overlap (R415). -/
def State.lockedChance (s : State) (d j : Nat) (x : Job) : Option Chance :=
  let l := (s.die d).link j
  let p := s.clk - x.began
  let n := slotSpan (s.stretch || l.width == 32) p
  let hop := if s.stretch then 26 else 24
  if n = 0 ∨ (s.jobs.any fun y => y.slotted && decide (y.lead < x.lead) && s.holds y d j n) then none
  else if p < 2 ^ x.cexp then
    if 2 ^ x.cexp < p + n then none
    else
      let h := s.holder x d j p
      let r := flitPick (s.follows d) (s.mayUse x h d j p) 14 2 72 [] [] l.out
      some { span := n, hop := hop, again := p != 0 && h.all fun y => y.2.slack, msgs := r.1, rest := r.2
             entry := h.map fun y => (x, y) }
  else
    let mine (_ : List Msg) (m : Msg) : Bool := (s.msgJob m).any fun y => y.lead == x.lead && y.slot == x.slot
    let r := flitPick (s.follows d) mine 14 2 72 [] [] l.out
    some { span := n, hop := hop, again := true, msgs := r.1, rest := r.2 }

/-- The priority level of a message's job, 0 the highest (R33, R355). -/
def State.msgPri (s : State) (m : Msg) : Nat :=
  if m.ticks then 0 else ((s.msgJob m).map fun x => ((s.die x.lead).queue x.queue).pri.toNat).getD 0

/-- Messages in order of a level, those of one level as they stand. -/
def insertPri (key : Msg → Nat) (m : Msg) : List Msg → List Msg
  | [] => [m]
  | x :: l => if key m ≤ key x then m :: x :: l else x :: insertPri key m l

/-- The own messages of an output in the order of their jobs' priority, at the places of the own ones: those that it forwards keep
theirs (R33, R401). -/
def State.fillOwn (s : State) (d : Nat) : List Msg → List Msg → List Msg
  | [], _ => []
  | m :: l, own =>
    if s.madeBy d m then (match own with
      | o :: r => o :: State.fillOwn s d l r
      | [] => State.fillOwn s d l [])
    else m :: State.fillOwn s d l own

def State.arbitrated (s : State) (d : Nat) (l : List Msg) : List Msg :=
  s.fillOwn d l ((l.filter (s.madeBy d)).foldr (insertPri s.msgPri) [])

/-- Messages of an output of die d that follow no slots: one that it forwards stays behind an earlier forwarded one that does
(R401). -/
def State.unslotted (s : State) (d : Nat) : (stuck : Bool) → List Msg → List Msg
  | _, [] => []
  | stuck, m :: l =>
    let fwd := !m.ticks && !s.madeBy d m
    if (s.msgJob m).any Job.slotted then State.unslotted s d (stuck || fwd) l
    else if stuck && fwd then State.unslotted s d stuck l
    else m :: State.unslotted s d stuck l

/-- The chance of traffic that follows no slots: the link's flits at their rate, half of them on a narrow link (R414), where no entry
of a locked job holds a slot; flits sent before go again in it where there is no locked job, whose slots they take (R413).
DESIGN CHOICE (log 60). -/
def State.sharedChance (s : State) (d j : Nat) : Option Chance :=
  let l := (s.die d).link j
  let n := slotLen s.clk
  let odd := (s.clk / 20 * 9 + [0, 2, 4, 6, 8, 11, 13, 15, 17].idxOf (s.clk % 20)) % 2 == 1
  if n = 0 ∨ (l.width = 32 ∧ odd) ∨ (s.jobs.any fun y => y.slotted && s.holds y d j n) then none
  else
    let ms := flitTake 14 232 (s.arbitrated d (s.unslotted d false l.out))
    some { span := n, hop := 24, again := !s.jobs.any Job.slotted, msgs := ms, rest := ms.foldl (fun r m => r.erase m) l.out }

/-- Locked jobs in the order of their lead dies. -/
def State.slottedJobs (s : State) : List Job :=
  (s.jobs.filter Job.slotted).foldr (fun x l => (l.filter fun y => decide (y.lead < x.lead)) ++ x :: l.filter fun y => !decide (y.lead < x.lead)) []

/-- Chances of an output in this clock cycle, in order. -/
def State.chances (s : State) (d j : Nat) : List Chance :=
  s.slottedJobs.filterMap (s.lockedChance d j) ++ (s.sharedChance d j).toList

/-! Drained links (R36, R415). -/

/-- Messages of the job, TICK and DONE apart, that an output has not yet seen accepted at the other end. -/
def State.undrained (s : State) (x : Job) (d j : Nat) : Bool :=
  let l := (s.die d).link j
  let (pd, pj) := otherEnd d j
  let mine (m : Msg) : Bool := !m.ticks && (s.msgJob m).any fun y => y.lead == x.lead && y.slot == x.slot
  l.out.any mine || (l.replay.filter fun f => decide ((f.fseq - ((s.die pd).link pj).expRx).toNat < 2 ^ 15)).any fun f => f.msgs.any mine

/-- Every link of die d has drained the job's traffic. -/
def State.dieDrained (s : State) (x : Job) (d : Nat) : Bool := (s.die d).links.all fun e => !s.undrained x d e.1

end Sys2Proof.Machine
end

