-- ==== Sys2Proof/Machine/Launch.lean ====
section
/-! DEFINITION. Launches: the checks of an entry, arbitration and admission, the loads of die images, the first tick, the start
and the retirement of tasks (01 R21, R24, R27, R38; 18 R357 to R365; 19 R389). -/
namespace Sys2Proof.Machine

/-! What a launch reads (R357 to R359, R284, R389, R458). -/

/-- n bytes at a are zero. -/
def State.zeroAt (s : State) (a n : Nat) : Bool := !s.mem.any fun e => decide (a ≤ e.1) && decide (e.1 < a + n)

/-- Dies of a set, in ascending number. -/
def diesOf (set : Nat) : List Nat := (List.range 64).filter fun d => bit set d

/-- Addresses within a launch block. -/
def dirAt (b i : Nat) : Nat := b + 0x40 + 32 * i
def recAt (b nd i : Nat) : Nat := b + 0x40 + 32 * nd + 640 * i

/-- Task count that a die's directory entry gives. -/
def State.dirCount (s : State) (b i : Nat) : Nat := s.rdLE (dirAt b i + 24) 2

/-- A record's must-be-zero fields (R359). -/
def State.recZero (s : State) (r : Nat) : Bool :=
  (s.rd8 (r + 1)).toNat < 16 && (s.rd8 (r + 2)).toNat < 16 && s.zeroAt (r + 3) 5 && s.zeroAt (r + 0x16) 2
    && s.rdLE (r + 0x18) 4 < 2 ^ 17 && s.zeroAt (r + 0x24) 4
    && ((List.range 5).all fun i => decide (s.rdLE (r + 0x30 + 16 * i) 8 < 2 ^ 52)) && s.zeroAt (r + 0x240) 0x40

/-- A task record (R359). -/
def State.readRec (s : State) (die r : Nat) : TaskRec :=
  { die := die, ord := s.rdLE r 2 % 2 ^ 12, lcl := (s.rd8 (r + 2)).toNat % 16, scyc := s.rdLE (r + 8) 8
    pcs := [s.rdLE (r + 0x10) 2, s.rdLE (r + 0x12) 2, s.rdLE (r + 0x14) 2, s.rdLE (r + 0x18) 4 % 2 ^ 17]
    dly := (List.range 4).map fun i => s.rdLE (r + 0x1C + 2 * i) 2
    sp := .ofNat 64 (s.rdLE (r + 0x28) 8)
    segs := (List.range 5).map fun i =>
      { addr := s.rdLE (r + 0x30 + 16 * i) 8 % 2 ^ 52, len := s.rdLE (r + 0x38 + 16 * i) 4, off := s.rdLE (r + 0x3C + 16 * i) 4 }
    seedk := .ofNat 256 (s.rdLE (r + 0x80) 32), diga := .ofNat 512 (s.rdLE (r + 0xC0) 64)
    digb := .ofNat 512 (s.rdLE (r + 0x100) 64)
    k := (List.range 32).map fun i => .ofNat 64 (s.rdLE (r + 0x140 + 8 * i) 8) }

/-- The records of the die at place i of the directory, after `first` earlier ones. -/
def State.readRecs (s : State) (b nd die first n : Nat) : List TaskRec :=
  (List.range n).map fun j => s.readRec die (recAt b nd (first + j))

/-- Records that stand before those of the die at place i. -/
def State.recsBefore (s : State) (b : Nat) : Nat → Nat
  | 0 => 0
  | i + 1 => State.recsBefore s b i + s.dirCount b i

/-- The task records of a block, with their dies. -/
def State.allRecs (s : State) (b : Nat) (dies : List Nat) : List TaskRec :=
  dies.zipIdx.flatMap fun (e : Nat × Nat) => s.readRecs b dies.length e.1 (s.recsBefore b e.2) (s.dirCount b e.2)

/-- A stitch plan's entries (R284). -/
def State.readPlan (s : State) (p : Nat) : List PlanEnt :=
  (List.range (s.rdLE p 4)).map fun i =>
    let e := p + 16 + 16 * i
    let src := (s.rd8 (e + 4)).toNat
    { start := s.rdLE e 2, len := s.rdLE (e + 2) 2, cl := src % 16, ch := src / 16 % 4, ddie := (s.rd8 (e + 5)).toNat % 64
      dcl := (s.rd8 (e + 6)).toNat % 16, slack := (s.rd8 (e + 7)).toNat == 1, bytes := s.rdLE (e + 8) 4 }

def risingStarts : List PlanEnt → Bool
  | a :: b :: l => decide (a.start ≤ b.start) && risingStarts (b :: l)
  | _ => true

/-- A plan is well formed (R284). -/
def State.planOk (s : State) (p : Nat) : Bool :=
  let c := (s.rd8 (p + 4)).toNat
  s.zeroAt (p + 5) 11 && risingStarts (s.readPlan p)
    && (List.range (s.rdLE p 4)).all fun i =>
      let e := p + 16 + 16 * i
      (s.rd8 (e + 4)).toNat < 64 && (s.rd8 (e + 5)).toNat < 64 && (s.rd8 (e + 6)).toNat < 16 && (s.rd8 (e + 7)).toNat < 2
        && s.zeroAt (e + 12) 4 && decide (1 ≤ s.rdLE (e + 2) 2) && decide (s.rdLE e 2 + s.rdLE (e + 2) 2 ≤ 2 ^ c)

/-- A step table's words; it is in the layout of R389. -/
def State.stepWords (s : State) (p : Nat) : List Nat := (List.range (s.rdLE p 4)).map fun i => s.rdLE (p + 8 + 4 * i) 4
def State.stepsOk (s : State) (p : Nat) : Bool :=
  let n := s.rdLE p 4
  decide (1 ≤ n) && decide (n ≤ 65535) && s.zeroAt (p + 4) 4
    && (s.stepWords p).all fun w => decide (w < 2 ^ 18) && decide (w % 2 ^ 16 ≠ 0)
def stepOf (w : Nat) : StepEnt := { port := bit w 17, nr := bit w 16, per := w % 2 ^ 16 }

/-- A loop table's words: its header and entries (R458). -/
def State.loopLen (s : State) (p : Nat) : Nat := 8 + 8 * s.rdLE p 2 + 8 * s.rdLE (p + 2) 2
def State.loopWords (s : State) (p : Nat) : List Nat := (List.range (s.loopLen p / 8)).map fun i => s.rdLE (p + 8 * i) 8
def State.loopsOk (s : State) (p : Nat) : Bool :=
  let nl := s.rdLE p 2
  let l := s.loopWords p
  let maps := l.drop (1 + nl)
  decide (1 ≤ nl) && decide (nl ≤ 16) && s.zeroAt (p + 4) 4
    && ((l.drop 1).take nl).all (fun w => decide (w % 2 ^ 32 ≠ 0) && decide (field w 33 32 < 3) && decide (w < 2 ^ 34))
    && maps.all (fun w => decide (w < 2 ^ 36) && decide (field w 35 20 ≠ 0) && decide (field w 35 20 < 2 ^ nl))
    && decide ((maps.map (· % 2 ^ 20)).Nodup)

/-! The checks of R361. -/

/-- The launch block that an entry names, and its dies. -/
def State.entryBlock (s : State) (e : Nat) : Nat := s.rdLE (e + 8) 8 % 2 ^ 52
def State.blockDies (s : State) (b : Nat) : List Nat := diesOf (s.rdLE (b + 8) 8)
def State.blockLocked (s : State) (b : Nat) : Bool := bit (s.rd8 (b + 0x10)).toNat 0

/-- Table addresses that die directory entry i gives. -/
def State.planAt (s : State) (b i : Nat) : Nat := s.rdLE (dirAt b i) 8 % 2 ^ 52
def State.stepAt (s : State) (b i : Nat) : Nat := s.rdLE (dirAt b i + 8) 8 % 2 ^ 52
def State.loopAt (s : State) (b i : Nat) : Nat := s.rdLE (dirAt b i + 16) 8 % 2 ^ 52

/-- A read of n bytes at a meets an uncorrectable error. -/
def State.errs (s : State) (a n : Nat) : Bool := (s.badRead a n).isSome

/-- Check 2 apart from the directory and the records. -/
def State.headerOk (s : State) (e b : Nat) : Bool :=
  let nd := (s.blockDies b).length
  let nt := s.rdLE (b + 0x14) 4
  s.rdLE b 4 == 0x4C424C31 && s.rdLE (b + 4) 4 == 1 && decide ((s.rd8 (b + 0x10)).toNat < 2)
    && s.zeroAt (b + 0x12) 2 && s.zeroAt (b + 0x18) 0x28
    && s.rdLE (e + 16) 4 == 64 + 32 * nd + 640 * nt

/-- Check 6 on the tables, once they could be read. DEDUCED (log 53). -/
def State.tablesOk (s : State) (b : Nat) (dies : List Nat) : Bool :=
  let is := List.range dies.length
  let recs := s.allRecs b dies
  (is.map (s.dirCount b)).foldl (· + ·) 0 == s.rdLE (b + 0x14) 4
    && decide (1 ≤ s.rdLE (b + 0x14) 4 ∧ s.rdLE (b + 0x14) 4 ≤ 262144)
    && is.all (fun i => decide (1 ≤ s.dirCount b i) && decide (s.dirCount b i ≤ 4096))
    && dies.all (fun d => decide (((recs.filter fun t => t.die == d).map (·.ord)).Nodup))
    && is.all (fun i => (!s.blockLocked b || (s.rd8 (s.planAt b i + 4)).toNat == (s.rd8 (b + 0x11)).toNat)
      && s.planOk (s.planAt b i) && s.stepsOk (s.stepAt b i) && s.stepWords (s.stepAt b i) == s.stepWords (s.stepAt b 0))

/-- The CAUSE with which the entry at e of lead die d is refused; 0: it passes (R361). -/
def State.refusal (s : State) (d e : Nat) : Nat :=
  let b := s.entryBlock e
  let dies := s.blockDies b
  let nd := dies.length
  let is := List.range nd
  if s.errs e 64 then 13
  else if (s.rd8 e).toNat ≠ 1 then 1
  else if !(s.zeroAt (e + 1) 3 && s.zeroAt (e + 20) 44 && decide (s.rdLE (e + 8) 8 < 2 ^ 52) && b % 64 == 0) then 2
  else if s.errs b 0x40 then 13
  else if !s.headerOk e b then 2
  else if s.errs b (s.rdLE (e + 16) 4) then 13
  else if !(is.all (fun i => s.zeroAt (dirAt b i + 26) 6)
      && (List.range (s.rdLE (b + 0x14) 4)).all fun i => s.recZero (recAt b nd i)) then 2
  else if (s.rd8 (b + 0x11)).toNat < 10 ∨ 16 < (s.rd8 (b + 0x11)).toNat then 3
  else if dies.headD 64 ≠ d then 4
  else if !dies.all (fun x => (s.die x).present) then 5
  else if is.any (fun i => s.errs (s.planAt b i) (16 + 16 * s.rdLE (s.planAt b i) 4)
      || s.errs (s.stepAt b i) (8 + 4 * s.rdLE (s.stepAt b i) 4)) then 13
  else if !s.tablesOk b dies then 6
  else if is.any (fun i => s.errs (s.loopAt b i) (s.loopLen (s.loopAt b i))) then 13
  else if !is.all (fun i => s.loopsOk (s.loopAt b i) && s.loopWords (s.loopAt b i) == s.loopWords (s.loopAt b 0)) then 7
  else 0

/-! Arbitration (R362). -/

/-- Queues of a level that take part and hold an entry. -/
def Die.readyAt (d : Die) (p : Nat) : List Nat := (d.queues.filter fun x => x.2.ready && x.2.pri.toNat == p).map (·.1)

/-- The first of l in the order q + 1, …, 255, 0, …, q. -/
def nextAfter (q : Nat) (l : List Nat) : Nat :=
  (l.foldl (fun (m : Nat × Nat) x => let r := (x + 255 - q) % 256; if r < m.2 then (x, r) else m) (q, 256)).1

/-- The level served and its selection: the one that stands, or a new one. -/
def Die.pick (d : Die) : Option (Nat × Nat × Arb) :=
  ((List.range 4).find? fun p => !(d.readyAt p).isEmpty).map fun p =>
    let l := d.readyAt p
    let a := d.arb.get {} p
    match a.sel.filter l.contains with
    | some q => (p, q, { a with sel := some q })
    | none =>
      if l.contains a.q && decide (a.u < (d.queue a.q).weight) then (p, a.q, { a with u := a.u + 1, sel := some a.q })
      else let q := nextAfter a.q l; (p, q, { q := q, u := 1, sel := some q })

/-- What becomes of the selected head. -/
inductive Head
  | wait
  | nop
  | refuse (cause : Nat)
  /-- its locked claim is posted -/
  | claim (dies : List Nat)
  | admits (dies : List Nat)
deriving DecidableEq, Repr

/-- A claim that names die x, other than the claim of (d, q). DEDUCED (log 52). -/
def State.claimedBy (s : State) (x d q : Nat) : Bool :=
  s.claims.any fun c => c.dies.contains x && !(c.lead == d && c.queue == q)

/-- A die with no resident task, pending task or owner. -/
def State.dieFree (s : State) (x : Nat) : Bool :=
  (s.die x).owner.isNone && (List.range 16).all fun n => let c := s.cluster (clKey x n); c.task.isNone && c.pendl.isEmpty

/-- The head of queue q of die d (R355, R361, R362). Of a NOP no other field's value is looked at than OP's and JOBTAG's
(DESIGN CHOICE, log 111). -/
def State.headOf (s : State) (d q : Nat) : Head :=
  let x := (s.die d).queue q
  let e := x.entryAt x.qhead.toNat
  if !x.room || decide ((s.jobs.filter fun j => j.lead == d).length ≥ 64) || s.claimedBy d d q then .wait
  else if (s.rd8 e).toNat = 0 ∧ !s.errs e 64 then .nop
  else
    let c := s.refusal d e
    if c ≠ 0 then .refuse c
    else
      let dies := s.blockDies (s.entryBlock e)
      if s.blockLocked (s.entryBlock e) then
        match s.claims with
        | c :: l =>
          if c.lead = d ∧ c.queue = q then (if dies.all s.dieFree then .admits dies else .wait)
          else if l.any fun c => c.lead == d && c.queue == q then .wait else .claim dies
        | [] => .claim dies
      else if dies.all fun y => (s.die y).owner.isNone && !s.claimedBy y d q then .admits dies else .wait

/-! Admission. -/

/-- The entry at the head of the queue is read: QHEAD advances, a completion is owed for it, and a claim of it is over. -/
def State.readHead (s : State) (d q p : Nat) : State :=
  let idx := ((s.die d).queue q).qhead.toNat
  let s1 := (s.updQueue d q fun x => { x with qhead := x.qhead + 1, owed := x.owed ++ [(idx, none)] }).updDie d fun x =>
    { x with arb := x.arb.set {} p { x.arb.get {} p with sel := none } }
  { s1 with claims := s1.claims.filter fun c => !(c.lead == d && c.queue == q) }

/-- The selection recorded. -/
def State.recordPick (s : State) (d : Nat) (p : Nat) (a : Arb) : State := s.updDie d fun x => { x with arb := x.arb.set {} p a }

/-- The lowest free job slot of a lead die. -/
def State.freeSlot (s : State) (d : Nat) : Nat :=
  ((List.range 64).find? fun n => (s.job? d n).isNone).getD 0

/-- The job that the entry at e launches. -/
def State.buildJob (s : State) (d q e : Nat) : Job :=
  let b := s.entryBlock e
  let dies := s.blockDies b
  let recs := s.allRecs b dies
  let first (i : Nat) (t : TaskRec) : Bool :=
    let c := s.cluster t.key
    c.task.isNone && c.pendl.isEmpty && !(recs.take i).any fun u => u.key == t.key
  { lead := d, slot := s.freeSlot d, tag := .ofNat 32 (s.rdLE (e + 4) 4), queue := q
    index := ((s.die d).queue q).qhead, locked := s.blockLocked b, cexp := (s.rd8 (b + 0x11)).toNat, dies := dies
    root := ((s.die d).queue q).qxroot.toNat
    tasks := recs.zipIdx.map fun (x : TaskRec × Nat) => { x.1 with first := first x.2 x.1 }
    plans := dies.zipIdx.map fun (x : Nat × Nat) => (x.1, s.readPlan (s.planAt b x.2))
    steps := (s.stepWords (s.stepAt b 0)).map stepOf }

/-- A job admitted: it takes its slot, its dies where it is locked, and its tasks join the pending lists (R362, R365). -/
def State.admits (s : State) (d q p : Nat) : State :=
  let x := (s.die d).queue q
  let j := s.buildJob d q (x.entryAt x.qhead.toNat)
  let s1 := s.readHead d q p
  let s2 : State := { s1 with
    jobs := s1.jobs ++ [j]
    dies := if j.locked then s1.dies.map fun e => (e.1, if j.dies.contains e.1 then { e.2 with owner := some (d, j.slot) } else e.2)
            else s1.dies }
  j.tasks.zipIdx.foldl (fun s (t : TaskRec × Nat) =>
    s.updCluster t.1.key fun c => { c with pendl := c.pendl ++ [j.ref t.2] }) s2

/-- The ranges that the checks of R361 read, in their order: the entry, the block, the tables. -/
def State.launchReads (s : State) (e : Nat) : List (Nat × Nat) :=
  let b := s.entryBlock e
  let is := List.range (s.blockDies b).length
  [(e, 64), (b, 0x40), (b, s.rdLE (e + 16) 4)]
    ++ is.flatMap (fun i => [(s.planAt b i, 16 + 16 * s.rdLE (s.planAt b i) 4), (s.stepAt b i, 8 + 4 * s.rdLE (s.stepAt b i) 4)])
    ++ is.map fun i => (s.loopAt b i, s.loopLen (s.loopAt b i))

/-- The uncorrectable error that refused an entry is counted on the die that holds it (R388). -/
def State.countRefused (s : State) (e cause : Nat) : State :=
  if cause ≠ 13 then s
  else match (s.launchReads e).findSome? fun r => s.badRead r.1 r.2 with
  | some g => if isHost (g * 8) then s else s.noteUE (g * 8) 0 none
  | none => s

/-- An entry refused before anything is claimed (R361). -/
def State.refuse (s : State) (d q p cause : Nat) : State :=
  let x := (s.die d).queue q
  let idx := x.qhead.toNat
  let e := x.entryAt idx
  let tag := if s.errs (e + 4) 4 then 0 else s.rdLE (e + 4) 4
  let l := completionBytes tag 2 cause 0 0 0 s.mtime.toNat 0
  let s1 := (s.countRefused e cause).readHead d q p
  let s2 := if cause = 1 then s1.updQueue d q fun y => { y with eerr := true } else s1
  (s2.postJobFault d q idx 0xFF cause 0 l).owe d q idx l

/-- The firmware runs and the die takes part (R435). -/
def State.runs (s : State) (d : Nat) : Bool := s.boot.bstate == 5 && (s.die d).present

/-- LAUNCH: the selected head of the die's queues is checked, and admitted once it meets its condition (R361, R362). -/
def execLaunch (die : BitVec 6) (q : BitVec 8) (s : State) : Out :=
  let d := die.toNat
  match (s.die d).pick with
  | none => .next s
  | some (p, q', a) =>
    if q' ≠ q.toNat ∨ !s.runs d then .next s
    else
      let s1 := s.recordPick d p a
      match s1.headOf d q' with
      | .wait | .nop => .next s1
      | .refuse c => .next (s1.refuse d q' p c)
      | .claim dies => .next { s1 with claims := s1.claims ++ [{ lead := d, queue := q', dies := dies }] }
      | .admits _ => .next (s1.admits d q' p)

/-- ENTRY_NOP: completes with status 0 as soon as it is admitted (R357). -/
def execEntryNop (die : BitVec 6) (q : BitVec 8) (s : State) : Out :=
  let d := die.toNat
  match (s.die d).pick with
  | none => .next s
  | some (p, q', a) =>
    if q' ≠ q.toNat ∨ !s.runs d then .next s
    else
      let s1 := s.recordPick d p a
      match s1.headOf d q' with
      | .nop =>
        let x := (s1.die d).queue q'
        let idx := x.qhead.toNat
        .next ((s1.readHead d q' p).owe d q' idx
          (completionBytes (s1.rdLE (x.entryAt idx + 4) 4) 0 0 0 0 0 s1.mtime.toNat 0))
      | _ => .next s1

/-- The admission event due on die d. -/
def State.admitDue (s : State) (d : Nat) : Option Instr :=
  if !s.runs d then none
  else match (s.die d).pick with
  | none => none
  | some (p, q, a) =>
    let h := s.headOf d q
    if h = .nop then some (.entryNop (.ofNat 6 d) (.ofNat 8 q))
    else if h ≠ .wait ∨ (s.die d).arb.get {} p ≠ a then some (.launch (.ofNat 6 d) (.ofNat 8 q))
    else none

/-! Loads (R38, R364). -/

/-- One half of the instruction scratchpad at window offset `o`: its segment loaded unless the tag allows a skip. The state, the
tag, and whether the load is good: a failed one leaves what it wrote and clears the tag (R38, R364). -/
def State.loadHalf (s : State) (k o : Nat) (g : Seg) (tag : Option (BitVec 512)) (dig : BitVec 512) :
    State × Option (BitVec 512) × Bool :=
  if g.len = 0 then (s, tag, true)
  else if tag = some dig then (s, tag, true)
  else if g.off + g.len > 0x20000 ∨ s.errs g.addr g.len then (s, none, false)
  else
    let l := s.rdBytes g.addr g.len
    let s1 := (s.storeZero (winBase k + o) 0x20000).store (winBase k + o + g.off) l
    if sha3 (s1.rdBytes (winBase k + o) 0x20000) = dig then (s1, some dig, true) else (s1, none, false)

/-- A memory of n bytes at window offset o holds its segment and 0 elsewhere; false: a failed load, and no later one follows. -/
def loadMem (k o n : Nat) (g : Seg) (x : State × Bool) : State × Bool :=
  let s := x.1
  let z := s.storeZero (winBase k + o) n
  if !x.2 then x
  else if g.len = 0 then (z, true)
  else if g.off + g.len > n ∨ s.errs g.addr g.len then (z, false)
  else (z.store (winBase k + o + g.off) (s.rdBytes g.addr g.len), true)

/-- All loads of a task, in their order up to one that fails, and whether all are good; the tags follow the halves, and the
reserved part of pair memory stays 0 (R252). DESIGN CHOICE (log 58). -/
def State.loadTask (s : State) (t : TaskRec) : State × Bool :=
  let k := t.key
  let g (i : Nat) : Seg := t.segs.getD i { addr := 0, len := 0, off := 0 }
  let a := s.loadHalf k 0 (g 0) (s.cluster k).tagA t.diga
  let b := if a.2.2 then a.1.loadHalf k 0x20000 (g 1) (s.cluster k).tagB t.digb else (a.1, (s.cluster k).tagB, false)
  let m := loadMem k offPair 0x1C000 (g 4) (loadMem k offHcw 0x4000 (g 3) (loadMem k offSpad 0x200000 (g 2) (b.1, b.2.2)))
  ((m.1.storeZero (winBase k + offPair + 0x18280) 0x3D80).updCluster k fun c => { c with tagA := a.2.1, tagB := b.2.1 }, m.2)

/-- The error that a load of a segment into n bytes meets. -/
def State.segBad (s : State) (n : Nat) (g : Seg) : Option Nat :=
  if g.len = 0 ∨ n < g.off + g.len then none else s.badRead g.addr g.len

/-- The granule at which an uncorrectable error ends the loads of a task (R387). -/
def State.loadMet (s : State) (t : TaskRec) : Option Nat :=
  let k := t.key
  let g (i : Nat) : Seg := t.segs.getD i { addr := 0, len := 0, off := 0 }
  let a := s.loadHalf k 0 (g 0) (s.cluster k).tagA t.diga
  let b := a.1.loadHalf k 0x20000 (g 1) (s.cluster k).tagB t.digb
  if !a.2.2 then s.segBad 0x20000 (g 0)
  else if !b.2.2 then a.1.segBad 0x20000 (g 1)
  else
    let c := loadMem k offSpad 0x200000 (g 2) (b.1, true)
    let d := loadMem k offHcw 0x4000 (g 3) c
    if !c.2 then b.1.segBad 0x200000 (g 2)
    else if !d.2 then c.1.segBad 0x4000 (g 3)
    else d.1.segBad 0x1C000 (g 4)

/-- Such an error counted (R388, R448). -/
def State.noteLoad (s : State) (g : Option Nat) (d : Nat) : State :=
  match g with
  | some g => s.noteUE (g * 8) d none
  | none => s

/-- The place of a task among its job's records. -/
def Job.taskAt (j : Job) (die ord : Nat) : Option (Nat × TaskRec) :=
  (j.tasks.zipIdx.find? fun (x : TaskRec × Nat) => x.1.die == die && x.1.ord == ord).map fun x => (x.2, x.1)

/-- Cluster k holds no task and is resident, with no restore asked for. -/
def State.freeNow (s : State) (k : Nat) : Bool :=
  let c := s.cluster k
  c.task.isNone && !c.frz.out && !(((s.die (k / 16)).preempt (k % 16)).rst)

/-- A task that a rollback restores waits for cluster k (R393). -/
def State.restAt (s : State) (k : Nat) : Bool := s.jobs.any fun j => j.tasks.any fun t => t.rest && t.key == k

/-- Task i of job j heads the pending list of its cluster, which is free. -/
def State.heads (s : State) (j : Job) (i : Nat) (t : TaskRec) : Bool :=
  s.freeNow t.key && (s.cluster t.key).pendl.head? == some (j.ref i) && !s.restAt t.key

/-- Its loads may begin (R364). -/
def State.loadDue (s : State) (j : Job) (i : Nat) (t : TaskRec) : Bool :=
  decide (t.stage = .waiting) && !j.over && !j.saved && s.heads j i t

/-- DIE_IMAGE_LOAD (R364). -/
def execDieImageLoad (lead slot die : BitVec 6) (ord : BitVec 12) (s : State) : Out :=
  match s.job? lead.toNat slot.toNat with
  | none => .next s
  | some j =>
    match j.taskAt die.toNat ord.toNat with
    | none => .next s
    | some (i, t) =>
      if !s.loadDue j i t then .next s
      else match s.loadTask t with
      | (s1, false) => .next ((s1.noteLoad (s.loadMet t) t.die).failJob j.lead j.slot 8 0)
      | (s1, true) => .next (s1.updJob j.lead j.slot fun x =>
          { x.updTask i fun t => { t with stage := .loaded } with loadedAt := s.clk })

/-! The first tick and the start (R365, R415, R417). -/

/-- TICK or DONE of a job (R405). -/
def tickMsg (typ : BitVec 8) (j : Job) (period dst : Nat) : Msg :=
  { typ := typ, ddie := .ofNat 6 dst, arg := .ofNat 64 (period % 2 ^ 48 + j.slot % 64 * 2 ^ 48 + j.lead % 64 * 2 ^ 54) }

/-- D0 issues the tick of a period: every die of the job acts on it 256 clock cycles later. -/
def State.issueTick (s : State) (j : Job) (period : Nat) : State :=
  let s1 := s.updJob j.lead j.slot fun x => { x with tick := some (period, s.clk + 256), got := [], dones := [], dsent := [] }
  j.dies.foldl (fun s d => s.sendFrom 0 (tickMsg mTick j period d)) s1

/-- T0 may be issued (R365, R417). -/
def State.firstDue (s : State) (j : Job) : Bool :=
  j.t0.isNone && j.tick.isNone && !j.over && (j.tasks.all fun t => !t.first || decide (t.stage ≠ .waiting))
    && (!j.locked || (decide (s.primary.tkalign.toNat ≤ s.mtime.toNat) && decide (j.loadedAt < s.clk)))

/-- FIRST_TICK (R365). DEDUCED (log 77). -/
def execFirstTick (lead slot : BitVec 6) (s : State) : Out :=
  match s.job? lead.toNat slot.toNat with
  | none => .next s
  | some j => .next (if s.firstDue j then s.issueTick j 0 else s)

/-- Entry k of the step table; the last repeats (R389). -/
def Job.stepEnt (j : Job) (k : Nat) : StepEnt := j.steps.getD k (j.steps.getLastD { port := false, nr := true, per := 1 })

/-- The job cycle at which a task of the job is held: in locked mode the end of the period, in shared mode that of the
step (R36, R389). -/
def Job.limit (j : Job) : Nat :=
  2 ^ j.cexp * (if j.locked then j.period + 1 else j.stepP + (j.stepEnt j.step).per)

/-- The task in a cluster stands at the end of its job's period or step. -/
def State.atEnd (s : State) (c : Cluster) : Bool :=
  match s.jobOf c with
  | none => false
  | some j => decide (j.limit ≤ c.jobCycle)

/-- Address of a checkpoint (R390). -/
def State.ckptAt (s : State) (k gen : Nat) : Nat :=
  k / 16 * 2 ^ 45 + (s.die (k / 16)).ckbase.toNat + 0x600000 * (16 * gen + k % 16)

/-- Task i of job j restored into its free cluster from its checkpoint: its attempt's clock cycles count as frozen (R323, R393). -/
def State.restoreCkpt (s : State) (j : Job) (i : Nat) (t : TaskRec) : State :=
  let k := t.key
  let z := (s.cluster k).frz
  let port := match s.checkImage (s.ckptAt k j.gen) 4 with
    | .ok p => p
    | _ => false
  ((s.loadImage k (s.ckptAt k j.gen) port).updCluster k fun c => { c with
    frzcyc := .ofNat 64 (t.frz0 - c.taskcyc.toNat), ovrcyc := .ofNat 64 t.ovr0, slicecnt := .ofNat 64 t.slice0
    frz := { held := true, snap := z.snap, out := z.out } }).updJob j.lead j.slot fun x => x.updTask i fun _ =>
      { t with stage := .running, rest := false }

/-- The restore that a rollback put off may be done: the cluster is free. -/
def State.restDue (s : State) (j : Job) (t : TaskRec) : Bool :=
  t.rest && decide (t.stage = .running) && !j.over && !j.rollback && s.freeNow t.key

/-- The task may start (R365). -/
def State.startDue (s : State) (j : Job) (i : Nat) (t : TaskRec) : Bool :=
  decide (t.stage = .loaded) && !j.over && !j.saved && !j.rollback && decide (j.phase ≠ 1) && s.heads j i t
    && (match t.startAt with
      | some c => decide (c ≤ s.clk)
      | none => false)
    && !s.claims.any fun c => c.dies.contains t.die

/-- A stream at launch (R24, R359). A start address of C, M or X that lands on BS = 0 is ILLEGAL_TARGET (R107), whose record
names that address as the source (DESIGN CHOICE, log 81). -/
def launchStream (t : TaskRec) (n : Nat) : StreamSt :=
  let pc : BitVec 17 := .ofNat 17 (t.pcs.getD n 0)
  { pc := pc, delay := .ofNat 16 (t.dly.getD n 0), ended := false, src := if n < 3 then some pc else none }

/-- The cluster at the start of task i of job j (R132, R359, R365): launch values, the record's registers; a locked task that
starts late has been frozen by overrun until now. -/
def State.launched (s : State) (j : Job) (i : Nat) (t : TaskRec) : Cluster :=
  let c := s.cluster t.key
  let late := if j.locked then s.clk - t.startAt.getD s.clk else 0
  { task := some (j.ref i), locked := j.locked, ord := t.ord, scyc := t.scyc
    c := launchStream t 0, m := launchStream t 1, x := launchStream t 2, v := launchStream t 3
    s := SMap.set 0 [] 62 t.sp
    k := (List.range 32).foldl (fun m n => m.set 0 n (t.k.getD n 0)) []
    hcw0 := shifted s.mem (winBase t.key + offHcw) 0x4000 0
    seedk := t.seedk, frzcyc := .ofNat 64 (t.frz0 + late), ovrcyc := .ofNat 64 (t.ovr0 + late), slicecnt := .ofNat 64 t.slice0
    quantum := c.quantum, expired := c.expired, resAt := c.resAt, tagA := c.tagA, tagB := c.tagB, pendl := c.pendl.tail, resetBy := c.resetBy, saved := c.saved
    frz := { snap := c.frz.snap, held := decide (j.limit ≤ t.scyc) } }

/-- The cluster has its turn in the present clock cycle. -/
def State.addTurn (s : State) (k : Nat) : State := if s.turns.contains k then s else { s with turns := s.turns ++ [k] }

/-- TASK_START (R365): the task's first cycle is the clock cycle of its start; a task that a rollback restores goes on where its step
began, unless its checkpoint can no longer be read, which ends the job (R374, R393, R394; DEDUCED, log 75). DEDUCED (log 76). -/
def execTaskStart (lead slot die : BitVec 6) (ord : BitVec 12) (s : State) : Out :=
  match s.job? lead.toNat slot.toNat with
  | none => .next s
  | some j =>
    match j.taskAt die.toNat ord.toNat with
    | none => .next s
    | some (i, t) =>
      if s.restDue j t then
        match s.checkImage (s.ckptAt t.key j.gen) 4 with
        | .ok _ =>
        let s1 := s.restoreCkpt j i { t with frz0 := t.frz0 + (s.clk - t.retClk) }
        .next (s1.updCluster t.key fun c => { c with frz := { c.frz with held := s1.atEnd c } })
        | x => .next (((match x with | .bad _ => s.countUE t.die | _ => s)).failJob j.lead j.slot 11 0)
      else if !s.startDue j i t then .next s
      else .next (((s.setCluster t.key (s.launched j i t)).updJob j.lead j.slot fun x =>
        x.updTask i fun t => { t with stage := .running }).addTurn t.key)

/-- The event that is due for a job's tasks. -/
def State.taskDue (s : State) (j : Job) : Option Instr :=
  j.tasks.zipIdx.findSome? fun (x : TaskRec × Nat) =>
    let l := BitVec.ofNat 6 j.lead
    let n := BitVec.ofNat 6 j.slot
    if s.loadDue j x.2 x.1 then some (.dieImageLoad l n (.ofNat 6 x.1.die) (.ofNat 12 x.1.ord))
    else if s.restDue j x.1 || s.startDue j x.2 x.1 then some (.taskStart l n (.ofNat 6 x.1.die) (.ofNat 12 x.1.ord))
    else none

/-! Retirement (R27). -/

/-- Every engine of the cluster is idle and every transfer complete. -/
def Cluster.idle (c : Cluster) : Bool :=
  c.ve.pend.isEmpty && c.me.pass.isNone && c.me.drs.isEmpty && c.me.aclrs.isEmpty && c.me.rstats.isEmpty
    && c.me.nld.isNone && c.me.cblds.isEmpty && c.pe.job.isNone && c.xe.ch.all fun e => e.2.q.isEmpty

/-- The task in focus meets R27. -/
def State.retireDue (s : State) : Bool :=
  s.cl.task.isSome && s.cl.c.ended && s.cl.m.ended && s.cl.x.ended && s.cl.v.ended && s.cl.idle

/-- TASK_RETIRE (R27). -/
def execTaskRetire (s : State) : Out := .next (if s.retireDue then s.leave s.cur .retired else s)

end Sys2Proof.Machine
end

