-- ==== Sys2Proof/Machine/Steps.lean ====
section
/-! DEFINITION. Periods, steps, held effects and rollbacks of a job, and what firmware does to a frozen task (01 R20, R36; 12
R323; 19 R381, R384 to R397; 20 R415, R416). -/
namespace Sys2Proof.Machine

/-! Ticks (R36, R415). -/

/-- The held-tick or step-end freeze of the job's tasks follows where each stands. -/
def State.settleHeld (s : State) (j : Job) : State :=
  (s.jobKeys j).foldl (fun s k => s.updCluster k fun c => { c with frz := { c.frz with held := s.atEnd c } }) s

/-- Overrun clock cycles of a job's tasks so far: a task's own count while it has its cluster, else what its record keeps. -/
def State.jobOvr (s : State) (j : Job) : Nat :=
  (j.tasks.zipIdx.map fun (x : TaskRec × Nat) =>
    let c := s.cluster x.1.key
    if c.task = some (j.ref x.2) then c.ovrcyc.toNat else x.1.ovr).foldl (· + ·) 0

/-- Start cycles of the tasks that job time now reaches (R365). -/
def Job.reach (j : Job) (period clk : Nat) : Job :=
  { j with tasks := j.tasks.map fun t =>
      if j.locked then
        (if t.scyc / 2 ^ j.cexp = period then { t with startAt := some (clk + t.scyc % 2 ^ j.cexp) } else t)
      else { t with startAt := some (clk + t.scyc) } }

/-- The dies of the job act on the tick that stands (R415). -/
def State.tickActs (s : State) (j : Job) : Bool :=
  match j.tick with
  | some (_, c) => decide (c ≤ s.clk) && j.dies.all fun d => j.got.contains d || (d != 0 && (s.hops 0 d).isNone)
  | none => false

/-- Some link has fallen to 32 lanes (R414). -/
def State.narrow (s : State) : Bool := s.narrowed

/-- TICK_ACT: job time begins, or the next period does; held tasks go on. A period in which a task overran is recorded
(R423, DESIGN CHOICE, log 30). -/
def execTickAct (lead slot : BitVec 6) (s : State) : Out :=
  match s.job? lead.toNat slot.toNat with
  | none => .next s
  | some j =>
    match j.tick with
    | none => .next s
    | some (p, _) =>
      if !s.tickActs j then .next s
      else
        let s1 := if j.t0.isSome && decide (j.ovr0 < s.jobOvr j) then
          s.postEvent 0x43 1 j.lead j.slot (bytesOf j.period 8) else s
        let j1 := { (j.reach p s.clk) with t0 := some (j.t0.getD s.clk), period := p, began := s.clk, tick := none
                                           ovr0 := s.jobOvr j }
        let s2 := s1.updJob j.lead j.slot fun _ => j1
        .next (({ s2 with stretch := s2.stretch || (j.locked && s2.narrow) } : State).settleHeld j1)

/-- Task i of the job runs in the period in progress, and waits for nothing but its start cycle or its loads: its cluster is free, or
switched out with no task (R36, R365). One that waits behind another task does not hold the tick (R389). -/
def State.toStart (s : State) (j : Job) (i : Nat) (t : TaskRec) : Bool :=
  let c := s.cluster t.key
  (decide (t.stage = .waiting) || decide (t.stage = .loaded)) && decide (t.scyc / 2 ^ j.cexp ≤ j.period)
    && c.task.isNone && c.pendl.head? == some (j.ref i)

/-- A task of the job on die d is still to start in the period in progress. -/
def State.dieStarts (s : State) (j : Job) (d : Nat) : Bool :=
  j.tasks.zipIdx.any fun (x : TaskRec × Nat) => x.1.die == d && s.toStart j x.2 x.1

/-- Every cluster of die d that runs a task of the job in the period has completed it, and the die's links have drained; a die that
runs none is done at once (R415). DEDUCED (log 55). -/
def State.dieDone (s : State) (j : Job) (d : Nat) : Bool :=
  let l := (s.jobKeys j).filter fun k => k / 16 == d
  if s.dieStarts j d then false
  else l.isEmpty || ((l.all fun k => s.atEnd (s.cluster k) && !(s.cluster k).flt.valid) && s.dieDrained j d)

/-- A locked job with a period in progress. -/
def Job.ticking (j : Job) : Bool := j.locked && j.t0.isSome && j.tick.isNone && !j.over && !j.saved && !j.rollback

/-- DONE sent by each die that has completed its job's period (R415). -/
def State.sendDones (s : State) : State :=
  s.jobs.foldl (fun s j =>
    if !j.ticking then s
    else
      let l := j.dies.filter fun d => !j.dsent.contains d && s.dieDone j d
      (l.foldl (fun s d => s.sendFrom d { tickMsg mDone j j.period 0 with sdie := .ofNat 6 d }) s).updJob j.lead j.slot fun x =>
        { x with dsent := x.dsent ++ l }) s

/-- DONE for the period has arrived from every die of the set whose links are up (R415), and every link has drained (R36). -/
def State.allDone (s : State) (j : Job) : Bool :=
  j.ticking && (j.dies.all fun d => j.dones.contains d || (d != 0 && (s.hops d 0).isNone)) && s.dies.all fun e => s.dieDrained j e.1

/-- The period in progress is the last of the step. -/
def Job.lastPeriod (j : Job) : Bool := decide (j.period + 1 = j.stepP + (j.stepEnt j.step).per)

/-- The job's next tick could be issued, a frequency switch apart: within a step, or when the next step has begun (R396) and no save
is asked for; after a resume not before the next clock cycle (R371). -/
def State.tickReady (s : State) (j : Job) : Bool :=
  s.allDone j && decide (j.backAt < s.clk) && ((j.phase == 2 && !j.saveReq) || (j.phase == 0 && !j.lastPeriod))

/-- A switch of the core clock has come to its turn (R446). -/
def State.toSwitch (s : State) : Bool := s.freq.ramp && !s.freq.switched && decide (s.freq.settled ≤ s.clk)

/-- A locked job that runs on the module. -/
def Job.resident (j : Job) : Bool := j.locked && j.t0.isSome && !j.over && !j.saved

/-- TICK_ISSUE may come now: a switch that waits holds the ticks until every resident locked job has reached its own (R446). -/
def State.issueDue (s : State) (j : Job) : Bool :=
  s.tickReady j && (!s.toSwitch || s.jobs.all fun x => !x.resident || s.tickReady x || x.tick.map (·.2) == some (s.clk + 256))

/-- TICK_ISSUE (R415). -/
def execTickIssue (lead slot : BitVec 6) (s : State) : Out :=
  match s.job? lead.toNat slot.toNat with
  | none => .next s
  | some j =>
    .next (if s.issueDue j then (s.updJob j.lead j.slot fun x => { x with phase := 0 }).issueTick j (j.period + 1) else s)

/-! Steps (R389, R390). -/

/-- Every task of the job that runs stands frozen at its end, none of them by a fault, with its transfers' work over. -/
def State.tasksAtEnd (s : State) (j : Job) : Bool :=
  j.tasks.zipIdx.all fun (x : TaskRec × Nat) =>
    decide (x.1.stage ≠ .running) ||
      (let c := s.cluster x.1.key
       c.task == some (j.ref x.2) && s.atEnd c && !c.flt.valid &&
        c.xfers.all fun t => t.2.done || (t.2.moved && t.2.out.isEmpty))

/-- The step in progress ends, when the clusters have had their turns of the clock cycle (R389). DEDUCED (log 55). -/
def State.stepDue (s : State) (j : Job) : Bool :=
  s.turns.isEmpty && decide (j.phase = 0) && j.t0.isSome && !j.over && !j.rollback && s.tasksAtEnd j
    && (j.done || (if j.locked then s.allDone j && j.lastPeriod else j.tasks.any fun t => decide (t.stage = .running)))

/-- STEP_END (R389): the held effects of the step are to be released. -/
def execStepEnd (lead slot : BitVec 6) (s : State) : Out :=
  match s.job? lead.toNat slot.toNat with
  | none => .next s
  | some j => .next (if s.stepDue j then s.updJob j.lead j.slot fun x => { x with phase := 1 } else s)

/-- The checkpoints of a step's start (R390). -/
def State.checkpoint (s : State) (j : Job) : State :=
  let e := j.stepEnt j.step
  let on := !e.nr && j.dies.all fun d => (s.die d).ckbase != 0
  let g := if on then 1 - j.gen else j.gen
  let s1 := if on then (s.jobKeys j).foldl (fun s k =>
    s.saveImage k (s.ckptAt k g) 4 (e.port && (s.cluster k).portable)) s else s
  s1.updJob j.lead j.slot fun x => { x with
    ckpt := on, gen := g, rolls := 0, stepClk := s.clk
    tasks := x.tasks.map fun t => { t with ck := on && decide (t.stage = .running) } }

/-- The step after the one that has ended begins; a job whose tasks are over is complete (R360, R389, R396). -/
def State.nextStep (s : State) (j : Job) : State :=
  if j.done then s.finishJob j.lead j.slot
  else
    let j1 := { j with step := j.step + 1, stepP := j.stepP + (j.stepEnt j.step).per, phase := if j.locked then 2 else 0 }
    let s1 := (s.updJob j.lead j.slot fun _ => j1).checkpoint j1
    if j.locked then s1 else s1.settleHeld j1

/-! Held effects (R395, R396). -/

/-- Entries of a job in a die's buffer. -/
def Die.heldOf (d : Die) (j : Job) : List HeldEff := d.commit.filter fun h => h.lead == j.lead && h.slot == j.slot

/-- A write of a held copy whose home is die d's own, or the host. -/
def HeldWrite.own (w : HeldWrite) (d : Nat) : Bool := isHost w.addr || paDie w.addr == d

/-- A message of a held effect. -/
def State.heldRequest (s : State) (d : Nat) (e : HeldEff) (m : Msg) : State :=
  (s.request d e.cl e.ch 0 0 m (some (e.lead, e.slot))).1

/-- One write of a held copy, performed at its home or sent there, with the nibbles that it leaves to its neighbours as they are there:
the state, and the bytes of other dies at hand (R387). -/
def releaseWrite (d : Nat) (e : HeldEff) (x : State × SMap (Option Byte)) (w : HeldWrite) : State × SMap (Option Byte) :=
  let (s, buf) := x
  if w.own d then (s.store w.addr (w.merged fun a => (s.rd8 a).toNat), buf)
  else
    let l := w.merged fun a => ((buf.get none a).getD 0).toNat
    (s.heldRequest d e { typ := mWrite, ddie := .ofNat 6 (paDie w.addr), arg := .ofNat 64 (w.addr % 2 ^ 52), data := l },
      bufPut buf w.addr l)

/-- The first error that those writes of an effect meet whose home is die d's own, a granule of which only a nibble is written among
them (R387): the effect is performed whole or not at all (R396). -/
def State.effectBad (s : State) (d : Nat) (e : HeldEff) : Option Nat :=
  e.writes.findSome? fun w =>
    if w.own d then (w.edges.findSome? fun a => s.badRead a 1).or (s.badWrite w.addr w.bytes.length) else none

/-- Bytes of other dies that the writes of an effect share with neighbours and that have not been read there. -/
def HeldEff.lack (d : Nat) (e : HeldEff) : List Nat :=
  ((e.writes.filter fun w => !w.own d).flatMap HeldWrite.edges).eraseDups.filter fun a => (e.buf.get none a).isNone

/-- One entry released: an atomic is sent under deduplication, a copy's bytes are written, those that share a byte with a neighbour on
another die once that has been read there; and whether it has been performed. -/
def State.releaseEff (s : State) (d : Nat) (e : HeldEff) : Except Nat (State × Bool) :=
  match e.atom with
  | some (op, w, x, y) => .ok (s.heldRequest d e (atomicMsg e.addr op (w == 1) true x y), true)
  | none => match s.effectBad d e with
    | some g => .error (g * 8)
    | none =>
      if (e.lack d).isEmpty then .ok ((e.writes.foldl (releaseWrite d e) (s, e.buf)).1, true)
      else .ok ((e.lack d).foldl (fun s a =>
        s.heldRequest d e { typ := mReadReq, ddie := .ofNat 6 (paDie a), arg := .ofNat 64 (a % 2 ^ 52) }) s, false)

/-- Released effects of the job from this die have not been acknowledged. -/
def Die.releasing (x : Die) (j : Job) : Bool := x.reqs.any fun r => r.held == some (j.lead, j.slot)

/-- An entry that may be released now: a 65th atomic to one die waits (R407). -/
def State.effFree (s : State) (d : Nat) (e : HeldEff) : Bool := e.atom.isNone || s.reqFree d (paDie e.addr)

/-- The next entry of each die of a list that waits for no acknowledgement. DEDUCED (log 48). -/
def releaseDies (j : Job) : List Nat → State → Except Nat State
  | [], s => .ok s
  | d :: l, s =>
    match (s.die d).heldOf j with
    | [] => releaseDies j l s
    | e :: _ =>
      if (s.die d).releasing j || !s.effFree d e then releaseDies j l s
      else match s.releaseEff d e with
        | .error a => .error a
        | .ok (s1, false) => releaseDies j l s1
        | .ok (s1, true) => releaseDies j l (s1.updDie d fun x => { x with commit := x.commit.erase e })

/-- Entries of the job stand in some die's buffer. -/
def State.holdsEffects (s : State) (j : Job) : Bool := s.dies.any fun e => !(e.2.heldOf j).isEmpty

/-- Released effects of the job that have not been acknowledged. -/
def State.releasePending (s : State) (j : Job) : Bool := s.dies.any fun e => e.2.releasing j

/-- COMMIT_RELEASE is due: a die's next entry may be released, or all of them have been acknowledged. -/
def State.releaseDue (s : State) (j : Job) : Bool :=
  decide (j.phase = 1) && !j.over &&
    ((j.dies.any fun d => (((s.die d).heldOf j).head?.any (s.effFree d)) && !(s.die d).releasing j) ||
      (!s.holdsEffects j && !s.releasePending j))

/-- COMMIT_RELEASE (R396): each die performs its entries in order, one after another. -/
def execCommitRelease (lead slot : BitVec 6) (s : State) : Out :=
  match s.job? lead.toNat slot.toNat with
  | none => .next s
  | some j =>
    if !s.releaseDue j then .next s
    else if s.holdsEffects j then
      match releaseDies j j.dies s with
      | .ok s1 => .next s1
      | .error a => .next ((s.noteUE a 0 none).failJob j.lead j.slot 12 a)
    else .next (s.nextStep j)

/-! Firmware and a frozen task (R384 to R386). -/

/-- A write to the fault-action register that is ignored (R384, R423). -/
def State.ignoredAct (s : State) (die cl v : Nat) : State :=
  s.ignored 0 die cl (regAddr die (0xC00 + 0x40 * cl + 0x10)) v 4 2 0

/-- A request that was stopped goes out again under its own SEQ; with no route its transfer meets LINK_DOWN (R409).
DEDUCED (log 45). -/
def State.resend (s : State) (d : Nat) (q : BitVec 20) : State :=
  match (s.die d).reqs.find? (·.seq == q) with
  | none => s
  | some r =>
    if r.msg.ddie.toNat ≠ d ∧ (s.hops d r.msg.ddie.toNat).isNone then
      match s.xferOf (clKey d r.cl) r.ch r.id with
      | some t => s.faultAt (clKey d r.cl) (t.trap r.ch .linkDown)
      | none => s
    else
      ((s.updDie d fun x => { x with reqs := x.reqs.map fun y =>
        if y.seq = q then { y with stopped := false, retry := none, nacks := 0 } else y }).sendFrom d r.msg)

/-- Requests of cluster k that a refusal or an error stopped, in order. -/
def State.stoppedOf (s : State) (k : Nat) : List (BitVec 20) :=
  ((s.die (k / 16)).reqs.filter fun r => r.stopped && r.cl == k % 16 && r.own).map (·.seq)

/-- What a held copy has gathered enters the commit buffer, page by page while there is room: n pages at most. -/
def State.sealRest (s : State) (ch : Nat) : Nat → Transfer → State
  | 0, _ => s
  | n + 1, t => match pieceSeal ch t s with
    | (s1, t1, none) => s1.sealRest ch n t1
    | _ => s

/-- The transfer that the record names is complete as it stands (R385): what it has moved to a page with HELD set is an effect of the
step; an effect that found no room is none. DEDUCED (log 33). -/
def State.markDone (s : State) (k : Nat) : State :=
  let f := (s.cluster k).flt
  if f.xv then
    match s.xferOf k f.ch.toNat f.id with
    | none => s
    | some t =>
      let s1 := if t.fin then s else ((s.focus k).sealRest f.ch.toNat t.heldW.length t).focus s.cur
      (s1.updDie (k / 16) fun d => { d with reqs := d.reqs.filter fun r => !t.out.contains r.seq.toNat }).completeXfer
        k f.ch.toNat f.id
  else s

/-- BREAK or SYSCALL among the causes recorded against a stream. -/
def FaultRec.traps (f : FaultRec) (st : Str) : Bool :=
  let b := f.sec.toNat / 2 ^ secShift st % 256
  (f.str.toNat == st.num && (f.cause == 0x17 || f.cause == 0x18)) || b == 0x17 || b == 0x18

/-- Streams whose BREAK or SYSCALL firmware has served (R147). -/
def State.markServed (s : State) (k : Nat) : State :=
  s.updCluster k fun c => [Str.c, .m, .x, .v].foldl (fun c st =>
    if c.flt.traps st then c.setStr st { c.str st with served := true } else c) c

/-- RESUME (R385). -/
def execResume (die : BitVec 6) (cl : BitVec 4) (xdone served : Bool) (s : State) : Out :=
  let k := clKey die.toNat cl.toNat
  if !(s.cluster k).flt.valid then .next (s.ignoredAct die.toNat cl.toNat (1 + 8 * b2n xdone + 4 * b2n served))
  else
    let s1 := if xdone then s.markDone k else s
    let s2 := if served then s1.markServed k else s1
    let s3 := ((s2.focus k).liftFault).focus s.cur
    .next ((s3.stoppedOf k).foldl (fun s q => s.resend (k / 16) q) s3)

/-- A rollback that was asked for lapses where no task of the job is left to roll back. -/
def State.lapseReplay (s : State) (lead slot : Nat) : State :=
  s.updJob lead slot fun j => { j with rollback := j.rollback && !(s.jobKeys j).isEmpty }

/-- ABORT (R386): in locked mode every task of the job. -/
def execAbort (die : BitVec 6) (cl : BitVec 4) (s : State) : Out :=
  let k := clKey die.toNat cl.toNat
  if !(s.cluster k).flt.valid then .next (s.ignoredAct die.toNat cl.toNat 2)
  else match (s.cluster k).task with
  | none => .next (s.updCluster k fun c => { c with flt := { c.flt with valid := false } })
  | some r =>
    let s1 := if (s.cluster k).locked then s.abortAll r.lead r.slot else (s.abortTask k).settleInval
    .next (s1.lapseReplay r.lead r.slot)

/-! Rollback (R393, R394). -/

/-- Remote atomics that the job has sent and that have not been answered. -/
def State.atomicsOut (s : State) (j : Job) : Bool :=
  (s.jobKeys j).any fun k => (s.die (k / 16)).reqs.any fun r =>
    r.cl == k % 16 && r.own && r.msg.typ == mAtomic && !r.stopped

/-- The step in progress is replayable: not marked NR, no CKBASE of the job 0 (R391), and its checkpoints made where it had tasks to
checkpoint (R390). -/
def State.replayable (s : State) (j : Job) : Bool :=
  !(j.stepEnt j.step).nr && (j.dies.all fun d => (s.die d).ckbase != 0) && (j.ckpt || j.step == 0)

/-- The CAUSE with which a replay ends the job instead (R394); 0: it goes ahead. -/
def State.rollCause (s : State) (j : Job) : Nat :=
  if !s.replayable j then 9
  else if j.rolls ≥ 8 then 10
  else if j.tasks.any fun t => t.ck && (match s.checkImage (s.ckptAt t.key j.gen) 4 with
    | .ok _ => false
    | _ => true) then 11
  else 0

/-- A cluster of the job emptied of the abandoned attempt: its record posted, its operations dropped (R393).
DEDUCED (log 75). -/
def State.clearAttempt (s : State) (k : Nat) : State :=
  let s1 := if (s.cluster k).flt.valid then ((s.focus k).postFault).focus s.cur else s
  let s2 := ((s1.noteCounters k).unpinAll k).dropReqs k
  s2.updCluster k fun c => { c.dropWork with
    task := none, locked := false, flt := { c.flt with valid := false }, heldF := [], fltNow := none, frz := { out := c.frz.out, snap := c.frz.snap } }

/-- Clock cycles that a task has been through when its attempt is abandoned, those since its retirement, its abort or a restore put off
included: what a replay does not give back as TASKCYC counts as frozen (R323). -/
def TaskRec.spent (t : TaskRec) (clk : Nat) : Nat :=
  t.frz + t.cyc + if t.stage = .retired ∨ t.stage = .aborted ∨ t.rest then clk - t.retClk else 0

/-- The record of a task whose attempt is abandoned: what it has been through stays with it until it starts again. -/
def TaskRec.abandoned (t : TaskRec) (clk : Nat) : TaskRec :=
  { t with frz := t.spent clk, cyc := 0, frz0 := t.spent clk, ovr0 := t.ovr, slice0 := t.slice }

/-- The slot image of a cluster that is switched out follows its state. -/
def State.keepSlot (s : State) (k : Nat) : State :=
  if (s.cluster k).frz.out then
    s.saveImage k (s.sliceSlot (k / 16) ((s.die (k / 16)).physOf (k % 16))) 2 false
  else s

/-- Task i was resident when the step began, or has started since: what the rollback of the step puts back. -/
def TaskRec.inStep (t : TaskRec) (step : Nat) : Bool :=
  match t.stage with
  | .waiting => false
  | .loaded | .running => true
  | .retired | .aborted => decide (step ≤ t.retStep)

/-- One task put back to where the step began: restored from its checkpoint, at once or when another job's task has left its
cluster, or waiting again (R323, R393); its pre-emption is void. DEDUCED (log 75). -/
def State.rollTask (s : State) (j : Job) (i : Nat) (t : TaskRec) : State :=
  let k := t.key
  if !t.inStep j.step then s
  else
    let t0 := t.abandoned s.clk
    let s0 := (s.dropAway (· == j.ref i)).updCluster k fun c => { c with saved := c.saved.filter (· != j.ref i) }
    if t.ck then
      if (s.cluster k).task.isNone then (s0.restoreCkpt j i t0).keepSlot k
      else s0.updJob j.lead j.slot fun x => x.updTask i fun _ => { t0 with stage := .running, rest := true, retClk := s.clk }
    else
      (s0.updCluster k fun c => { c with pendl := if c.pendl.contains (j.ref i) then c.pendl else c.pendl ++ [j.ref i] }).updJob
        j.lead j.slot fun x => x.updTask i fun _ => { t0 with stage := .waiting }

/-- The place of a task's job among the jobs, which stand in admission order. -/
def State.jobPlace (s : State) (r : TaskRef) : Nat := s.jobs.findIdx fun j => j.owns r

/-- Tasks in admission order, those of one job by their place among its records (R365). -/
def State.insertRef (s : State) (r : TaskRef) : List TaskRef → List TaskRef
  | [] => [r]
  | x :: l =>
    if s.jobPlace r < s.jobPlace x ∨ (s.jobPlace r = s.jobPlace x ∧ r.idx ≤ x.idx) then r :: x :: l else x :: State.insertRef s r l
def State.inOrder (s : State) (l : List TaskRef) : List TaskRef := l.foldr s.insertRef []

/-- Every pending list in admission order; a task that no longer heads its list is to be loaded again. -/
def State.orderPending (s : State) : State :=
  let s1 := s.mapClusters fun c => { c with pendl := s.inOrder c.pendl }
  let f (j : Job) (x : TaskRec × Nat) : TaskRec :=
    if x.1.stage = .loaded ∧ (s1.cluster x.1.key).pendl.head? ≠ some (j.ref x.2) then { x.1 with stage := .waiting } else x.1
  { s1 with jobs := s1.jobs.map fun j => { j with tasks := j.tasks.zipIdx.map (f j) } }

/-- The job rolled back to the start of its step (R393). -/
def State.rollback (s : State) (j : Job) : State :=
  let s1 := ((s.jobKeys j).foldl (fun s k => s.clearAttempt k) s).dropHeld j.lead j.slot
  let l := ((s1.job? j.lead j.slot).map (·.tasks)).getD j.tasks
  let s2 := l.zipIdx.foldl (fun s (x : TaskRec × Nat) => s.rollTask j x.2 x.1) s1
  let s4 := s2.orderPending.updJob j.lead j.slot fun x => { x with
    rollback := false, phase := 0, rolls := x.rolls + 1, nreplay := x.nreplay + 1
    t0 := if x.step = 0 then none else x.t0, tick := none, dones := [], dsent := []
    tasks := x.tasks.map fun t =>
      if x.step = 0 ∨ (x.locked ∧ x.stepP ≤ t.scyc / 2 ^ x.cexp) then { t with startAt := none } else t }
  let s5 : State := { s4 with dies := s4.dies.map fun e =>
      (e.1, if j.dies.contains e.1 then { e.2 with replays := e.2.replays + 1 } else e.2) }
  let s6 := (s5.postEvent 0x44 1 j.lead j.slot (bytesOf j.step 8 ++ bytesOf (j.rolls + 1) 1)).settleInval
  match s6.job? j.lead j.slot with
  | none => s6
  | some j' => if j'.step = 0 then s6 else if j'.locked then s6.issueTick j' j'.stepP else s6.settleHeld j'

/-- A replay of the job is asked for: every task of it freezes (R393). Where none is left it lapses (DEDUCED, log 75). -/
def State.askReplay (s : State) (lead slot : Nat) : State :=
  match s.job? lead slot with
  | none => s
  | some j =>
    let s1 := (s.jobKeys j).foldl (fun s k => s.updCluster k fun c => { c with frz := { c.frz with save := true } }) s
    s1.updJob lead slot fun x => { x with rollback := !(s.jobKeys j).isEmpty }

/-- The rollback that has been asked for can be done: atomics already sent have been answered. -/
def State.rollDue (s : State) (j : Job) : Bool := j.rollback && !j.over && !s.atomicsOut j

/-- Uncorrectable errors that the checkpoint reads met are counted on their dies (R388). -/
def State.countCkpt (s : State) (j : Job) : State :=
  j.tasks.foldl (fun s t => match t.ck, s.checkImage (s.ckptAt t.key j.gen) 4 with
    | true, .bad _ => s.countUE t.die
    | _, _ => s) s

def State.doReplay (s : State) (j : Job) : State :=
  let c := s.rollCause j
  if c = 0 then s.rollback j
  else (if c = 11 then s.countCkpt j else s).failJob j.lead j.slot c 0

/-- REPLAY (R393): asked for by firmware on a frozen task; carried out once the job's atomics are answered. -/
def execReplay (die : BitVec 6) (cl : BitVec 4) (s : State) : Out :=
  let k := clKey die.toNat cl.toNat
  match s.jobOf (s.cluster k) with
  | none => .next (s.ignoredAct die.toNat cl.toNat 16)
  | some j =>
    if s.rollDue j then .next (s.doReplay j)
    else if j.rollback then .next s
    else if (s.cluster k).flt.valid then .next (s.askReplay j.lead j.slot)
    else .next (s.ignoredAct die.toNat cl.toNat 16)

/-- The rollback of a job as the event that is due. -/
def State.replayDue (s : State) (j : Job) : Option Instr :=
  if s.rollDue j then (s.jobKeys j).head?.map fun k => .replay (.ofNat 6 (k / 16)) (.ofNat 4 (k % 16)) else none

/-! Invalidation (R380, R381). -/

/-- GO with a kind: while an invalidation runs the registers take what is written and GO is ignored, recorded as an event of
firmware's (R380). -/
def goInvalidate (die kind : Nat) (va : BitVec 52) (q : BitVec 8) (alld : Bool) (s : State) : Out :=
  let s1 := s.updDie die fun d => { d with
    invva := .ofNat 36 (va.toNat / 65536), invall := alld, invq := q, invkind := .ofNat 2 kind }
  .next (if (s.die die).invbusy then
      s1.ignored 1 die 0 (regSeen 2 die 0x308) (2 ^ 30 * b2n alld + 2 ^ 16 * q.toNat + 2 * kind + 1) 4 2 0
    else s1.invalidate die)

/-- INVALIDATE_PAGE (R381). -/
def execInvalidatePage (die : BitVec 6) (va : BitVec 52) (q : BitVec 8) (alld : Bool) (s : State) : Out :=
  goInvalidate die.toNat 0 va q alld s

/-- INVALIDATE_ROOT (R381). -/
def execInvalidateRoot (die : BitVec 6) (q : BitVec 8) (alld : Bool) (s : State) : Out :=
  goInvalidate die.toNat 1 (.ofNat 52 ((s.die die.toNat).invva.toNat * 65536)) q alld s

/-- INVALIDATE_ALL (R381). -/
def execInvalidateAll (die : BitVec 6) (alld : Bool) (s : State) : Out :=
  goInvalidate die.toNat 2 (.ofNat 52 ((s.die die.toNat).invva.toNat * 65536)) (s.die die.toNat).invq alld s

end Sys2Proof.Machine
end

