-- ==== Sys2Proof/Machine/Preempt.lean ====
section
/-! DEFINITION. Remap writes, time-slicing, pre-emption and restore (01 R13 to R17; 18 R366 to R374; 12 R330). -/
namespace Sys2Proof.Machine

/-! The remap table (R13, R14, R366). -/

/-- A staged table that may be committed (R366), tasks apart. -/
def mapLegal (def_ : BitVec 18) (m : SMap Byte) : Bool :=
  (List.range 16).all (fun n => let e := m.get 0 n; entValid e && decide (entPhys e < 18) && !bit def_.toNat (entPhys e))
    && (List.range 18).all fun p =>
      match hostedOn m p with
      | [] => true
      | [a] => !entHosted (m.get 0 a) && entSlot (m.get 0 a) == 0
      | [a, b] => entHosted (m.get 0 a) && entHosted (m.get 0 b) && entSlot (m.get 0 a) != entSlot (m.get 0 b)
          && decide (2 < popcount def_.toNat 18)
      | _ => false

/-- A write of firmware to a die-control register that is ignored (R366, R423). -/
def State.ignoredDie (s : State) (die off v : Nat) : State := s.ignored 1 die 0 (regSeen 2 die off) v 4 2 0

/-- REMAP_STAGE (R366). -/
def execRemapStage (die : BitVec 6) (v : Word32) (s : State) : Out :=
  let n := v.toNat
  if field n 31 20 ≠ 0 ∨ field n 15 8 ≠ 0 then .next (s.ignoredDie die.toNat 0x118 n)
  else .next (s.updDie die.toNat fun d => { d with staged := d.staged.set 0 (field n 19 16) (.ofNat 8 n) })

/-- No logical cluster of the die holds or awaits a task. -/
def State.dieIdle (s : State) (d : Nat) : Bool :=
  (List.range 16).all fun n => let c := s.cluster (clKey d n); c.task.isNone && c.pendl.isEmpty

/-- The table in force: every tag of the die invalid, slot 1 of each doubled cluster switched out (DESIGN CHOICE, log 93), and the
clusters of a domain that snaps back frozen with it (R448). -/
def State.commitMap (s : State) (d : Nat) (m : SMap Byte) : State :=
  (List.range 16).foldl (fun s n => s.updCluster (clKey d n) fun c =>
      { c with tagA := none, tagB := none, quantum := 0, expired := false
               frz := { c.frz with
                 out := entHosted (m.get 0 n) && entSlot (m.get 0 n) == 1
                 snap := ((s.die d).dom (entPhys (m.get 0 n) / 2)).snap } })
    (s.updDie d fun x => { x with clmap := m })

/-- REMAP_COMMIT (R366). -/
def execRemapCommit (die : BitVec 6) (v : Word32) (s : State) : Out :=
  let d := die.toNat
  if v.toNat / 2 ≠ 0 then .next (s.ignoredDie d 0x11C v.toNat)
  else if v = 0 then .next s
  else
    let m := (s.die d).staged
    let s1 := s.updDie d fun x => { x with staged := [] }
    .next (if s.dieIdle d && mapLegal (s.die d).defmask m then s1.commitMap d m else s1.ignoredDie d 0x11C v.toNat)

/-! Time-slicing (R16, R17). -/

def Die.hosted (d : Die) (n : Nat) : Bool := entValid (d.clmap.get 0 n) && entHosted (d.clmap.get 0 n)

/-- A task is due to be loaded or to start on cluster k, were it resident. -/
def State.startsOn (s : State) (k : Nat) : Bool :=
  let s' := s.updCluster k fun c => { c with frz := { c.frz with out := false } }
  s'.jobs.any fun j => j.tasks.zipIdx.any fun (x : TaskRec × Nat) =>
    x.1.key == k && (s'.loadDue j x.2 x.1 || s'.startDue j x.2 x.1 || s'.restDue j x.1)

/-- The switched-out cluster k has a task ready to run: no other cause of R28 holds for it. An overrun ends where what it waited
for has come (State.turn; DEDUCED, log 31). -/
def State.readyOut (s : State) (k : Nat) : Bool :=
  let c := s.cluster k
  let f := c.frz
  if c.task.isSome then !(f.held || f.memErr || f.snap || f.fault || f.save || f.throttle || f.overrun) else s.startsOn k

/-- SLICE_QUANTUM is due for cluster k. -/
def State.quantumDue (s : State) (k : Nat) : Bool :=
  let c := s.cluster k
  (s.die (k / 16)).hosted (k % 16) && !c.frz.out && c.task.isSome && decide (65536 ≤ c.quantum) && !c.expired

/-- SLICE_QUANTUM (R16). -/
def execSliceQuantum (die : BitVec 6) (cl : BitVec 4) (s : State) : Out :=
  let k := clKey die.toNat cl.toNat
  .next (if s.quantumDue k then s.updCluster k fun c => { c with expired := true } else s)

/-- The resident and the other cluster of a doubled physical cluster. -/
def State.slicePair (s : State) (d p : Nat) : Option (Nat × Nat) :=
  match hostedOn (s.die d).clmap p with
  | [a, b] =>
    if (s.cluster (clKey d a)).frz.out then some (clKey d b, clKey d a) else some (clKey d a, clKey d b)
  | _ => none

/-- A switch of physical cluster p is due (R16): the resident has had a turn since it became resident. One on which a task is due
to start has it, and one that is being saved is saved first (R369). -/
def State.switchDue (s : State) (d p : Nat) : Bool :=
  match s.slicePair d p with
  | none => false
  | some (a, b) =>
    let c := s.cluster a
    s.readyOut b && decide (c.splitLeft = 0) && decide (c.resAt < s.clk ∨ c.resAt = 0) && !c.frz.save &&
      (if c.task.isNone then !s.startsOn a else c.frz.overrun || c.frz.held || c.expired)

/-- A task whose image is refused stays frozen by a fault (R374, R387). DEDUCED (log 57). -/
def State.refuseImage (s : State) (k : Nat) : ImageCheck → State
  | .bad g => s.faultAt k { str := .c, cause := Cause.memUncorr.code, detail := 6, faddr := g * 8, baddr := (s.cluster k).c.pc }
  | .ok _ => s
  | _ => s.faultAt k { str := .c, cause := Cause.contextGeometry.code, baddr := (s.cluster k).c.pc }


/-- The step that begins at the boundary where the job's tasks stand, those at their end: in locked mode only the last period of a
step ends at one (R20, R389). -/
def Job.boundary (j : Job) : Option Nat :=
  if !j.locked then some (j.step + 1)
  else if j.period + 1 = j.stepP then some j.step
  else if j.lastPeriod then some (j.step + 1)
  else none

/-- The save point is portable (R330). -/
def State.portPoint (s : State) (k : Nat) : Bool :=
  let c := s.cluster k
  c.portable && s.atEnd c && ((s.jobOf c).bind fun j => j.boundary.map fun n => (j.stepEnt n).port).getD false

/-- SLICE_SWITCH (R16, R38): the other hosted cluster's memories come from the slot, the resident's go there. What has
reached the cluster meanwhile (R42) stands in its own state. -/
def execSliceSwitch (die : BitVec 6) (phys : BitVec 5) (s : State) : Out :=
  let d := die.toNat
  if !s.switchDue d phys.toNat then .next s
  else match s.slicePair d phys.toNat with
  | none => .next s
  | some (a, b) =>
    let slot := s.sliceSlot d phys.toNat
    let r := s.checkImage slot 2
    let started := (s.cluster b).task.isSome
    let s1 := if started then (match r with
      | .ok port =>
        let s0 := s.loadMemories b slot (s.cluster b).hcw0 port
        s0.updCluster b fun c => if port then c.launchDead (s.sameGeometry slot) else c.soundCounters
      | r => s.refuseImage b r) else s
    let s2 := s1.saveImage a slot 2 (s.portPoint a)
    let s3 := s2.updCluster a fun c =>
      { c with tagA := none, tagB := none, expired := false, frz := { c.frz with out := true } }
    .next (s3.updCluster b fun c => { c with
      tagA := none, tagB := none, expired := false, quantum := 0, resAt := s.clk + 1, slicecnt := c.slicecnt + 1, frz := { c.frz with out := false } })

/-! Pre-emption of a shared task (R368 to R370, R372). -/

def State.updPre (s : State) (k : Nat) (f : Preempt → Preempt) : State :=
  s.updDie (k / 16) fun d => d.setPreempt (k % 16) (f (d.preempt (k % 16)))

/-- PREEMPT_REQUEST: refused on a locked job's cluster and on one with no resident task (R368). DEDUCED (log 54). -/
def execPreemptRequest (die : BitVec 6) (cl : BitVec 4) (s : State) : Out :=
  let k := clKey die.toNat cl.toNat
  let c := s.cluster k
  .next (s.updPre k fun p => if c.task.isNone || c.locked then { p with out := 3 } else { p with req := true, out := 0 })

/-- Requests of cluster k's task that are not answered. -/
def State.reqsOf (s : State) (k : Nat) : List Req := (s.die (k / 16)).reqs.filter fun r => r.cl == k % 16 && r.own

/-- CONTEXT_SAVE can go on: it starts at a bundle boundary, when the turns of the clock cycle are past and what lands or retires in
it has done so (R372), or the pieces on the wire have landed or been stopped (R369). -/
def State.saveDue (s : State) (k : Nat) : Bool :=
  let c := s.cluster k
  ((s.die (k / 16)).preempt (k % 16)).req && c.task.isSome && !c.frz.out && decide (c.splitLeft = 0)
    && !(c.frz.fault || c.frz.memErr || c.frz.snap)
    && !(s.focus k).retireDue && (if c.frz.save then (s.reqsOf k).all fun r => r.retry.isSome || r.stopped else s.turns.isEmpty)

/-- The cluster of a saved task becomes free. -/
def State.vacate (s : State) (k : Nat) : State :=
  (s.noteCounters k).updCluster k fun c => { c.dropWork with
    task := none, locked := false, frz := { out := c.frz.out, snap := c.frz.snap } }

/-- Nacked and stopped requests of task r, which stay outstanding while it is saved (R287). -/
def State.keepReqs (s : State) (k : Nat) (r : TaskRef) : State :=
  let f (x : Req) : Req := if x.cl = k % 16 ∧ x.own = true then { x with away := some r } else x
  s.updDie (k / 16) fun d => { d with reqs := d.reqs.map f }

/-- CONTEXT_SAVE (R369): the task freezes; once its pieces on the wire have landed, its image is written and the cluster is
free. -/
def execContextSave (die : BitVec 6) (cl : BitVec 4) (s : State) : Out :=
  let k := clKey die.toNat cl.toNat
  let c := s.cluster k
  match c.task with
  | none => .next s
  | some r =>
    if !s.saveDue k then .next s
    else if !c.frz.save then
      .next ((s.updCluster k fun c => { c with frz := { c.frz with save := true }, saved := c.saved ++ [r] }).updPre k
        fun p => { p with busy := true })
    else
      let port := s.portPoint k
      let s1 := s.keepReqs k r
      let s2 := s1.saveImage k (((s.die die.toNat).preempt cl.toNat).addr.toNat) 1 port
      .next ((s2.vacate k).updPre k fun p => { p with busy := false, req := false, out := 1, port := port })

/-- The nacked requests of task r, restored, are tried again; a read that an error stopped stays stopped until its piece meets it. -/
def State.restoreReqs (s : State) (k : Nat) (r : TaskRef) : State :=
  let f (x : Req) : Req :=
    if x.away = some r then { x with away := none, retry := if x.stopped then none else some s.clk } else x
  s.updDie (k / 16) fun d => { d with reqs := d.reqs.map f }

/-- CONTEXT_RESTORE (R370, R374). The task is the one that the image's state names, or where that names none the saved task of
its slot; an image that names no task, or one that is not saved, is refused (DESIGN CHOICE, log 92). One whose checks fail ends with OUT 1
(DESIGN CHOICE, log 57). -/
def execContextRestore (die : BitVec 6) (cl : BitVec 4) (s : State) : Out :=
  let k := clKey die.toNat cl.toNat
  let c := s.cluster k
  let a := ((s.die die.toNat).preempt cl.toNat).addr.toNat
  let ends (s : State) (o : BitVec 2) : Out := .next (s.updPre k fun p => { p with rst := false, busy := false, out := o })
  let who := (s.imageCluster a).task.or (c.saved.find? fun r => r.slot == s.imageSlot a)
  match who, s.checkImage a 1 with
  | some r, x =>
    if c.task.isSome ∨ s.imageKey a ≠ k ∨ !c.saved.contains r then ends s 3
    else match x with
    | .kind => ends s 3
    | .ok port =>
      let s1 := ((s.loadImage k a port).restoreReqs k r).updCluster k fun c => { c with saved := c.saved.filter (· != r) }
      ends (s1.keepSlot k) 1
    | x =>
      let s1 := s.updCluster k fun c => { c with task := some r, flt := {}, saved := c.saved.filter (· != r) }
      ends (s1.refuseImage k x) 1
  | none, _ => ends s 3

/-- The pre-emption event that is due on cluster k. -/
def State.preDue (s : State) (k : Nat) : Option Instr :=
  let d := BitVec.ofNat 6 (k / 16)
  let n := BitVec.ofNat 4 k
  let p := (s.die (k / 16)).preempt (k % 16)
  if p.rst && (s.cluster k).task.isNone then some (.contextRestore d n)
  else if s.quantumDue k then some (.sliceQuantum d n)
  else if !(s.cluster k).frz.out && s.switchDue (k / 16) ((s.die (k / 16)).physOf (k % 16)) then
    some (.sliceSwitch d (.ofNat 5 ((s.die (k / 16)).physOf (k % 16))))
  else if s.saveDue k then some (.contextSave d n)
  else none

/-! Pre-emption of a locked job (R371). -/

/-- JOB_SAVE_REQUEST (R371): refused where the slot holds no locked job. -/
def execJobSaveRequest (lead slot : BitVec 6) (s : State) : Out :=
  let on := ((s.job? lead.toNat slot.toNat).map fun j => j.locked && !j.closed && !j.saved).getD false
  let s1 := s.updDie lead.toNat fun d => { d with jslot := slot, jreq := on, jout := if on then 0 else 3 }
  .next (if on then s1.updJob lead.toNat slot.toNat fun j => { j with saveReq := true } else s1)

/-- Address of a locked pre-emption image (R367). -/
def lockedImage (k : Nat) : Nat := k / 16 * 2 ^ 45 + 0x15F3000000 + 0x600000 * (k % 16)

/-- The job stands at a step boundary with its effects released. -/
def State.jobSaveDue (s : State) (j : Job) : Bool :=
  j.saveReq && !j.closed && s.allDone j && decide (j.period + 1 = j.stepP) && j.phase == 2

/-- The image of a task of a locked job: of one that is switched out its slot image is copied, its kind set to 3, with what has
reached the cluster since (R42, R371). -/
def State.saveLocked (s : State) (k : Nat) : State :=
  let slot := s.sliceSlot (k / 16) ((s.die (k / 16)).physOf (k % 16))
  if (s.cluster k).frz.out then
    let s1 := (s.moveMem slot (lockedImage k) 0x430000).wrBytes (lockedImage k + 24) (bytesOf 3 8)
    { s1.wrBytes (lockedImage k + 0x1000) (bytesOf s1.images.length 8) with images := s1.images ++ [s1.cluster k] }
  else s.saveImage k (lockedImage k) 3 (s.portPoint k)

/-- JOB_SAVE (R371). -/
def execJobSave (lead slot : BitVec 6) (s : State) : Out :=
  match s.job? lead.toNat slot.toNat with
  | none => .next s
  | some j =>
    if !s.jobSaveDue j then .next s
    else
      let s1 := (s.jobKeys j).foldl (fun s k => (s.saveLocked k).vacate k) s
      .next ((s1.updJob j.lead j.slot fun x => { x with saveReq := false, saved := true }).updDie j.lead fun d =>
        { d with jreq := false, jout := 1 })

/-- One task of the job restored (R371, R374). -/
def State.resumeTask (s : State) (j : Job) (i : Nat) (t : TaskRec) : State :=
  if t.stage ≠ .running ∨ t.rest then s
  else match s.checkImage (lockedImage t.key) 3 with
  | .ok port => (s.loadImage t.key (lockedImage t.key) port).keepSlot t.key
  | x => (s.updCluster t.key fun c => { c with task := some (j.ref i), locked := true, flt := {} }).refuseImage t.key x

/-- JOB_RESUME (R371): the tick of the next period follows. -/
def execJobResume (lead slot : BitVec 6) (s : State) : Out :=
  match s.job? lead.toNat slot.toNat with
  | none => .next (s.updDie lead.toNat fun d => { d with jslot := slot, jres := false, jout := 3 })
  | some j =>
    if !j.saved then .next (s.updDie lead.toNat fun d => { d with jslot := slot, jres := false, jout := 3 })
    else
      let s1 := j.tasks.zipIdx.foldl (fun s (x : TaskRec × Nat) => s.resumeTask j x.2 x.1) s
      .next ((s1.updJob j.lead j.slot fun x => { x with saved := false, backAt := s.clk }).updDie j.lead fun d =>
        { d with jslot := slot, jres := false, jout := 1 })

end Sys2Proof.Machine
end

