-- ==== Sys2Proof/Machine/Fabric.lean ====
section
/-! DEFINITION. The Girth fabric (10 R286, R287; 19 R387, R396; 20 R399 to R416, R418): what each message does where it
arrives, deduplication, flits, replay, retraining and the loss of a link. -/
namespace Sys2Proof.Machine

/-! Requests and their answers (R405, R407). -/

/-- The answer to a request: its TID, the source and destination fields swapped. -/
def answerOf (m : Msg) (typ : BitVec 8) (arg : Word64 := 0) (data : List Byte := []) : Msg :=
  { typ := typ, scl := m.dcl, dcl := m.scl, ch := m.ch, ddie := m.sdie, sdie := m.sdie, seq := m.seq, arg := arg, data := data }

def State.answer (s : State) (m : Msg) (typ : BitVec 8) (arg : Word64 := 0) (data : List Byte := []) : State :=
  s.sendFrom m.ddie.toNat (answerOf m typ arg data)

/-- The request that a TID names, while die d still holds it. -/
def State.reqOf (s : State) (d : Nat) (q : BitVec 20) : Option Req := (s.die d).reqs.find? (·.seq == q)

def State.updReq (s : State) (d : Nat) (q : BitVec 20) (f : Req → Req) : State :=
  s.updDie d fun x => { x with reqs := x.reqs.map fun r => if r.seq = q then f r else r }

/-- Die d no longer holds a request. -/
def State.dropReq (s : State) (d : Nat) (r : Req) : State :=
  s.updDie d fun x => { x with reqs := x.reqs.filter (·.seq != r.seq) }

/-- A request answered. -/
def State.answered (s : State) (d : Nat) (r : Req) : State :=
  (s.dropReq d r).updXfer (clKey d r.cl) r.ch r.id fun t =>
    { t with out := t.out.filter (· != r.seq.toNat), wr := t.wr.filter fun w => w.1 != r.seq.toNat }

/-- The cursor of a SEND follows its answers (R287). -/
def State.moveSend (s : State) (d : Nat) (r : Req) : State :=
  if r.msg.typ = mSend then
    match s.xferOf (clKey d r.cl) r.ch r.id with
    | none => s
    | some t =>
      let c := (s.die d).reqs.foldl (fun m x =>
        if t.out.contains x.seq.toNat && x.msg.typ == mSend then Nat.min m x.piece else m) t.asked
      s.updXfer (clKey d r.cl) r.ch r.id fun t => { t with cursor := c }
  else s

/-- A request that its home did not perform, kept until its task is resumed: its transfer raises the trap that `f` makes. -/
def State.stopReq (s : State) (d : Nat) (r : Req) (f : Transfer → Trap) : State :=
  let k := clKey d r.cl
  let s1 := s.updReq d r.seq fun r => { r with stopped := true, retry := none }
  match s1.xferOf k r.ch r.id with
  | none => s1
  | some t => s1.faultAt k (f t)

/-- An orphan that has been answered, or will not be. -/
def State.dropOrphan (s : State) (d : Nat) (r : Req) : State :=
  let s1 := s.dropReq d r
  match r.orphan with
  | some (lead, slot) => s1.endJob lead slot
  | none => s1

/-- A request that meets an uncorrectable error in granule g at its home (R387, R396). DEDUCED (log 45). -/
def State.reqError (s : State) (m : Msg) (g detail : Nat) : State :=
  match s.reqOf m.sdie.toNat m.seq with
  | none => s
  | some r => if r.orphan.isSome then (s.noteUE (g * 8) m.ddie.toNat none).dropOrphan m.sdie.toNat r else match r.held with
    | some (lead, slot) => ((s.noteUE (g * 8) m.ddie.toNat none).dropReq m.sdie.toNat r).failJob lead slot 12 (g * 8)
    | none => s.stopReq m.sdie.toNat r fun t => t.memTrap r.ch g detail

/-- The source has given the request up: it was rolled back or aborted (R386, R393). DEDUCED (log 46). -/
def State.givenUp (s : State) (m : Msg) : Bool := (s.reqOf m.sdie.toNat m.seq).isNone

/-! Execution at the destination die. -/

/-- The bytes l of a transfer's message land at physical address a, but for those that a later transfer of its channel has
written, which win; while an earlier one is at work the transfer's own are noted (R275). -/
def State.landRuns (s : State) (m : Msg) (a : Nat) (l : List Byte) : State :=
  match s.reqOf m.sdie.toNat m.seq with
  | none => s.store a l
  | some r =>
    let k := clKey m.sdie.toNat r.cl
    match s.xferOf k r.ch r.id, r.held with
    | some t, none =>
      let s1 := s.focus k
      let w := if s1.earlier r.ch t then [(a, l.length)] else []
      let s2 := (keepRuns (s1.wonBy r.ch t) a l).foldl (fun s x => s.store x.1 x.2) s1
      (s2.updXfer k r.ch r.id fun t => { t with wrote := t.wrote ++ w }).focus s.cur
    | _, _ => s.store a l

/-- The first error that a WRITE's bytes meet, or, for one of a held effect, those of the effect, which is performed whole or not
at all (R396). -/
def State.writeBad (s : State) (m : Msg) : Option Nat :=
  let bad (x : Msg) : Option Nat := s.badWrite (x.arg.toNat % 2 ^ 52) x.data.length
  match s.reqOf m.sdie.toNat m.seq with
  | some { held := some h, .. } => (s.die m.sdie.toNat).reqs.findSome? fun r =>
      if r.held = some h ∧ r.msg.typ = mWrite ∧ r.msg.ddie = m.ddie then bad r.msg else none
  | _ => bad m

/-- WRITE (R405). -/
def execWrite (m : Msg) (s : State) : Out :=
  let a := m.arg.toNat % 2 ^ 52
  if s.givenUp m then .next s
  else match s.writeBad m with
  | some g => .next (s.reqError m g 2)
  | none => .next ((s.landRuns m a m.data).answer m mAck)

/-- READ_REQ (R405): with an uncorrectable error it stays unanswered and its piece stops (R387); one of a held effect ends the job
(R396). -/
def execReadReq (m : Msg) (s : State) : Out :=
  let a := m.arg.toNat % 2 ^ 52
  let n := m.arg.toNat / 2 ^ 52 % 64 + 1
  .next (match s.badRead a n with
  | some g =>
    if ((s.reqOf m.sdie.toNat m.seq).bind (·.held)).isSome then s.reqError m g 2
    else s.updReq m.sdie.toNat m.seq fun r => { r with stopped := true }
  | none => s.answer m mReadData 0 (s.rdBytes a n))

/-- Bytes read for the entry of a job that die d releases (R396). -/
def Die.heldData (x : Die) (lead slot a : Nat) (l : List Byte) : Die :=
  match x.commit.findIdx? fun e => e.lead == lead && e.slot == slot with
  | some i => { x with commit := x.commit.modify i fun e => { e with buf := bufPut e.buf a l } }
  | none => x

/-- READ_DATA (R405): the bytes are at hand for the transfer or the held effect that asked. -/
def execReadData (m : Msg) (s : State) : Out :=
  let d := m.ddie.toNat
  match s.reqOf d m.seq with
  | none => .next s
  | some r =>
    let a := r.msg.arg.toNat % 2 ^ 52
    match r.held with
    | some (lead, slot) => .next ((s.dropReq d r).updDie d fun x => x.heldData lead slot a m.data)
    | none => .next ((s.answered d r).updXfer (clKey d r.cl) r.ch r.id fun t => { t with buf := bufPut t.buf a m.data })

/-- The recorded answer of a request executed before (R408). -/
def State.recorded (s : State) (m : Msg) : Option Msg :=
  (((s.die m.ddie.toNat).window.get [] m.sdie.toNat).find? fun e => e.1 == m.seq).map (·.2)

/-- An executed request and its answer enter the window of its source, 64 deep; the answer is sent (R408). -/
def State.executed (s : State) (m a : Msg) : State :=
  (s.updDie m.ddie.toNat fun d =>
    let l := d.window.get [] m.sdie.toNat
    { d with window := d.window.set [] m.sdie.toNat (((m.seq, a) :: l).take 64) }).sendFrom m.ddie.toNat a

/-- An earlier atomic of the same channel to the same die stands stopped: this one keeps its place behind it (R288). -/
def State.behindStopped (s : State) (m : Msg) : Bool :=
  ((s.die m.sdie.toNat).reqs.takeWhile (·.seq != m.seq)).any fun r =>
    r.stopped && r.msg.typ == mAtomic && r.own && r.msg.scl == m.scl && r.msg.ch == m.ch && r.msg.ddie == m.ddie

/-- An atomic's operands: first and second 8 bytes of its data. -/
def atomicArgs (m : Msg) : Nat × Nat := (ofBytes (m.data.take 8), ofBytes ((m.data.drop 8).take 8))

/-- The atomic's effect on its target: the state and the old value (R155). -/
def State.atomicAt (s : State) (m : Msg) : State × Nat :=
  let a := m.arg.toNat % 2 ^ 52
  let op := m.arg.toNat / 2 ^ 52 % 16
  let n := if bit m.arg.toNat 56 then 8 else 4
  let (x, y) := atomicArgs m
  let old := s.rdLE a n
  let lim := 2 ^ (8 * n)
  let new := if op = 9 then amoNew 9 (8 * n) old (y % lim) (x % lim) else amoNew op (8 * n) old (x % lim) 0
  (s.store a (bytesOf new n), old)

/-- ATOMIC (R288, R408): once for each TID. -/
def execAtomic (m : Msg) (s : State) : Out :=
  let a := m.arg.toNat % 2 ^ 52
  match s.recorded m with
  | some r => .next (s.sendFrom m.ddie.toNat r)
  | none =>
    if s.behindStopped m then .next (s.updReq m.sdie.toNat m.seq fun r => { r with stopped := true })
    else match s.badRead (a / 8 * 8) 8 with
    | some g => .next (s.reqError m g 4)
    | none =>
      let (s1, old) := s.atomicAt m
      let n := if bit m.arg.toNat 56 then 8 else 4
      let data := if bit m.arg.toNat 57 then [] else bytesOf (extendLoad true n old).toNat 8
      .next (s1.executed m (answerOf m mAtomicRsp 0 data))

/-- Bytes that have landed in cluster k's data scratchpad while it is switched out land in its slot as well (R42, R294).
DEDUCED (log 56). -/
def State.landSlot (s : State) (k off n : Nat) : State :=
  if (s.cluster k).frz.out then
    s.store (s.sliceSlot (k / 16) ((s.die (k / 16)).physOf (k % 16)) + 0x220000 + off) (s.rdBytes (winBase k + offSpad + off) n)
  else s

/-- The result of a remote atomic written at its offset, unless a later transfer of the channel has written there (R275). -/
def State.atomicResult (s : State) (k : Nat) (r : Req) (t : Transfer) (l : List Byte) : State :=
  if l.isEmpty then s
  else
    let s1 := s.focus k
    let a := winBase k + offSpad + t.xw.toNat
    let s2 := ((keepRuns (s1.wonBy r.ch t) a l).foldl (fun s w => s.store w.1 w.2) s1).landSlot k t.xw.toNat l.length
    (s2.updXfer k r.ch t.id fun t => { t with wrote := t.wrote ++ [(a, l.length)] }).focus s.cur

/-- ATOMIC_RSP (R288, R405). -/
def execAtomicRsp (m : Msg) (s : State) : Out :=
  let d := m.ddie.toNat
  match s.reqOf d m.seq with
  | none => .next s
  | some r =>
    let k := clKey d r.cl
    if r.orphan.isSome then .next (s.dropOrphan d r)
    else
      let s1 := match s.xferOf k r.ch r.id, r.held with
        | some t, none => s.atomicResult k r t m.data
        | _, _ => s
      .next ((s1.answered d r).updXfer k r.ch r.id fun t => if r.held.isSome then t else { t with cursor := 1 })

/-! Exchange (R286, R287). -/

/-- The reason for which cluster k does not take a piece from a task of job (lead, slot) (R287). DEDUCED (log 47). -/
def State.sendRefusal (s : State) (k : Nat) (lead slot : Nat) (locked : Bool) (xb : Nat) : Option Nat :=
  let c := s.cluster k
  let e := (s.die (k / 16)).clmap.get 0 (k % 16)
  let mine (r : TaskRef) : Bool := r.lead == lead && r.slot == slot
  if !entValid e || bit (s.die (k / 16)).defmask.toNat (entPhys e) then some 0
  else if c.resetBy.contains (lead, slot) then some 3
  else if c.saved.any mine then some 2
  else if !(c.task.map mine).getD false then some 1
  else if !locked && decide ((c.xb xb).state = .idle) then some 2
  else none

/-- SEND_MESSAGE (R286, R287, R408). -/
def execSendMessage (m : Msg) (s : State) : Out :=
  let k := clKey m.ddie.toNat m.dcl.toNat
  let off := m.arg.toNat % 2 ^ 21
  let xb := m.arg.toNat / 2 ^ 21 % 32
  let src := s.cluster (clKey m.sdie.toNat m.scl.toNat)
  match s.recorded m with
  | some r => .next (s.sendFrom m.ddie.toNat r)
  | none =>
    if s.givenUp m then .next s
    else match src.task with
    | none => .next s
    | some r => match s.sendRefusal k r.lead r.slot src.locked xb with
      | some w => .next (s.answer m mNack (.ofNat 64 w))
      | none => match s.badWrite (winBase k + offSpad + off) m.data.length with
        | some g => .next (s.reqError m g 2)
        | none =>
          let s1 := ((s.landRuns m (winBase k + offSpad + off) m.data).landSlot k off m.data.length).updCluster k fun c =>
            c.setXb xb ((c.xb xb).count m.data.length)
          .next (s1.executed m (answerOf m mAck))

/-- The request has been answered by a NACK, and is not under way: another answer is discarded (R409). -/
def Req.refused (r : Req) : Bool := r.retry.isSome || r.away.isSome || (r.stopped && r.msg.typ == mSend)

/-- ACK (R405). -/
def execAck (m : Msg) (s : State) : Out :=
  let d := m.ddie.toNat
  match s.reqOf d m.seq with
  | none => .next s
  | some r => .next (if r.refused then s else (s.answered d r).moveSend d r)

/-- NACK (R287): a piece to be tried again waits 1,024 clock cycles; another refusal, or the 64th, is the sender's fault. -/
def execNack (m : Msg) (s : State) : Out :=
  let d := m.ddie.toNat
  match s.reqOf d m.seq with
  | none => .next s
  | some r =>
    if r.refused then .next s else
    match m.arg.toNat % 256 with
    | 2 =>
      if r.nacks + 1 < 64 then
        .next (s.updReq d m.seq fun r => { r with nacks := r.nacks + 1, retry := some (s.clk + 1024) })
      else .next (s.stopReq d r fun t => t.trap r.ch .targetDown 2)
    | 3 => .next (s.stopReq d r fun t => t.trap r.ch .targetReset)
    | w => .next (s.stopReq d r fun t => t.trap r.ch .targetDown w)

/-- A request's destination has no route from die d. -/
def State.cutOff (s : State) (d : Nat) (r : Req) : Bool := (s.hops d r.msg.ddie.toNat).isNone

/-- The try of a nacked piece has come; its sender's engines run; with no route it waits while all traffic is held (R409). -/
def State.retryDue (s : State) (d : Nat) (r : Req) : Bool :=
  let f := (s.cluster (clKey d r.cl)).frz
  (match r.retry with
    | some c => decide (c ≤ s.clk)
    | none => false) && r.away.isNone && !(f.fault || f.memErr || f.snap || f.out || f.save) && !(s.hold.isSome && s.cutOff d r)

/-- NACK_RETRY (R287): the same request again; LINK_DOWN where its destination has no route (R409). -/
def execNackRetry (die : BitVec 6) (seq : BitVec 20) (s : State) : Out :=
  match s.reqOf die.toNat seq with
  | none => .next s
  | some r =>
    .next (if !s.retryDue die.toNat r then s
      else if s.cutOff die.toNat r then s.stopReq die.toNat r fun t => t.trap r.ch .linkDown
      else (s.updReq die.toNat seq fun r => { r with retry := none }).sendFrom die.toNat r.msg)

/-! Ticks (R415). -/

/-- Period, slot and lead die that a TICK or DONE names. -/
def tickArg (m : Msg) : Nat × Nat × Nat :=
  (m.arg.toNat % 2 ^ 48, m.arg.toNat / 2 ^ 48 % 64, m.arg.toNat / 2 ^ 54 % 64)

/-- TICK: a die of the job has the tick that stands. -/
def execTick (m : Msg) (s : State) : Out :=
  let (p, slot, lead) := tickArg m
  .next (s.updJob lead slot fun j =>
    if j.tick.map (·.1) = some p ∧ !j.got.contains m.ddie.toNat then { j with got := j.got ++ [m.ddie.toNat] } else j)

/-- DONE: D0 learns that a die has completed the period in progress. -/
def execDone (m : Msg) (s : State) : Out :=
  let (p, slot, lead) := tickArg m
  .next (s.updJob lead slot fun j =>
    if j.period = p ∧ j.tick.isNone ∧ !j.dones.contains m.sdie.toNat then { j with dones := j.dones ++ [m.sdie.toNat] } else j)

/-- The event that a message which has reached its destination is. -/
def msgEvent (m : Msg) : Option Instr :=
  match m.typ.toNat with
  | 1 => some (.write m)
  | 2 => some (.readReq m)
  | 3 => some (.readData m)
  | 4 => some (.atomic m)
  | 5 => some (.atomicRsp m)
  | 6 => some (.sendMessage m)
  | 7 => some (.ack m)
  | 8 => some (.nack m)
  | 9 => some (.tick m)
  | 10 => some (.done m)
  | _ => none

/-! Flits (R402, R403, R406, R412). -/

/-- A flit on link j of die d, in a chance c, as it leaves. -/
def State.putFlit (s : State) (d j : Nat) (c : Chance) (f : Flit) : State :=
  let (pd, pj) := otherEnd d j
  { s.updDie d fun x => x.setLink j { x.link j with freeAt := s.clk + c.span } with
    wire := s.wire ++ [{ at_ := s.clk + c.hop, die := pd, link := pj, flit := f }] }

/-- The oldest flit that is to be sent again (R403). -/
def State.sendAgain (s : State) (d j : Nat) (c : Chance) : State :=
  match ((s.die d).link j).again with
  | [] => s
  | f :: r => (s.updDie d fun x => x.setLink j { x.link j with again := r, retry := (x.link j).retry + 1 }).putFlit d j c f

/-- Data in the slot of an entry is counted against it (R413). -/
def State.countSent (s : State) (d : Nat) (c : Chance) : State :=
  match c.entry with
  | none => s
  | some (x, a, e) =>
    let n := s.countedBytes d (c.msgs.filter fun m => (s.msgReq m).any fun r => r.msg.sdie.toNat == a && entryNames e r.msg)
    let i := x.entryIdx a e
    if n = 0 ∨ e.slack then s
    else s.updCluster (clKey a e.cl) fun k =>
      let h := k.chan e.ch
      let u := if h.sentPer = x.period then h.sentUsed else []
      k.setChan e.ch { h with sentPer := x.period, sentUsed := u.set 0 i (u.get 0 i + n) }

/-- A new flit with the messages of the chance (R402, R403). -/
def State.sendNew (s : State) (d j : Nat) (c : Chance) : State :=
  let l := (s.die d).link j
  let f := flitOf l.nextTx (l.expRx - 1) l.ackv c.msgs
  (((s.countSent d c).updDie d fun x =>
    x.setLink j { l with nextTx := l.nextTx + 1, replay := l.replay ++ [f], out := c.rest, owed := 0 }).putFlit d j c f)

/-- The first flit after a retraining carries the ACKSEQ and no message; its number is one that the other end has had, the one before
its replay buffer's, so that it is discarded there as a duplicate (R403; DESIGN CHOICE, log 100). -/
def State.sendFirst (s : State) (d j : Nat) (c : Chance) : State :=
  let l := (s.die d).link j
  let q := match l.replay with
    | f :: _ => f.fseq
    | [] => l.nextTx
  (s.updDie d fun x => x.setLink j { l with greet := false, owed := 0 }).putFlit d j c (flitOf (q - 1) (l.expRx - 1) l.ackv [])

/-- The output of link j of die d sends a flit, if it is up and free and has something to say: flits sent before go first, and a
traffic hold lets only them go (R409); after a retraining nothing new goes before the other end's first flit (R403). -/
def State.sendFlit (s : State) (d j : Nat) : State :=
  let l := (s.die d).link j
  if l.state ≠ 2 ∨ s.clk < l.freeAt ∨ (!l.greet ∧ l.again.isEmpty ∧ l.out.isEmpty ∧ l.owed < 64) then s
  else if l.greet ∨ !l.again.isEmpty then
    match (s.chances d j).find? (·.again) with
    | some c => if l.greet then s.sendFirst d j c else s.sendAgain d j c
    | none => s
  else if l.await ∨ s.hold.isSome ∨ 256 ≤ l.replay.length then s
  else match (s.chances d j).find? fun c => !c.msgs.isEmpty with
  | some c => s.sendNew d j c
  | none => match s.sharedChance d j with
    | some c => if 64 ≤ l.owed then s.sendNew d j c else s
    | none => s

/-- Every output in a clock cycle. -/
def State.sendFlits (s : State) : State :=
  s.dies.foldl (fun s e => (e.2.links.map (·.1)).foldl (fun s j => s.sendFlit e.1 j) s) s

/-- Flits that an ACKSEQ covers leave the replay buffer. -/
def Link.acked (l : Link) (ack : BitVec 16) : Link :=
  let open_ (f : Flit) : Bool := !decide ((ack - f.fseq).toNat < 2 ^ 15)
  { l with replay := l.replay.filter open_, again := l.again.filter open_ }

/-- What an ACKSEQ tells a link end: after a retraining the other end's first flit says from where the buffer goes again (R403). -/
def Link.heard (l : Link) (f : Flit) : Link :=
  let l1 := if f.ackv then l.acked f.ackseq else l
  if l.await then { l1 with await := false, again := l1.replay } else l1

/-- CRC failures of a link end within 2^20 clock cycles (R410). -/
def Link.recent (l : Link) (clk : Nat) : Nat := (l.fails.filter fun c => decide (clk < c + 2 ^ 20)).length

/-- A flit in order: accepted, its messages delivered or forwarded. -/
def State.accept (s : State) (d j : Nat) (f : Flit) : State :=
  f.msgs.foldl (fun s m => s.sendFrom d m) (s.updDie d fun x =>
    let l := x.link j
    let l1 := { l with expRx := f.fseq + 1, ackv := true, owed := l.owed + 1 }
    x.setLink j (l1.heard f))

/-- The adapter's retry: a flit that failed on its way to (d, j) and those sent after it go again (R403); the first flit after a
retraining, which no replay buffer holds, is made anew. -/
def State.adapterRetry (s : State) (d j : Nat) (f : Flit) : State :=
  let onWay (w : WireFlit) : Bool := w.die == d && w.link == j
  let l := (s.wire.filter onWay).dropWhile fun w => w.flit != f
  let (pd, pj) := otherEnd d j
  let s1 := s.updDie pd fun x =>
    let e := x.link pj
    let fs := (l.map (·.flit)).filter e.replay.contains
    let first := decide (fs.length < l.length)
    x.setLink pj { e with again := fs ++ e.again, greet := e.greet || first, retry := e.retry + .ofNat 64 (b2n first) }
  { s1 with wire := s.wire.filter fun w => !l.contains w }

/-! Training, retraining and loss (R399, R409 to R411, R414). -/

/-- The link registers at offsets 0x00 to 0x1F as an event's body (R423). -/
def State.linkBody (s : State) (d j : Nat) : List Byte :=
  [0x00, 0x08, 0x10, 0x18].flatMap fun o => bytesOf (linkWord d j ((s.die d).link j) o) 8

/-- Each end of a link posts an event (R423; 21, the fifth flit, step 3). DEDUCED (log 49). -/
def State.postEnds (s : State) (code d j : Nat) : State :=
  let (pd, pj) := otherEnd d j
  let s1 := s.postEvent code 2 d j (s.linkBody d j)
  s1.postEvent code 2 pd pj (s1.linkBody pd pj)

/-- Both ends of a link changed. -/
def State.updEnds (s : State) (d j : Nat) (f : Link → Link) : State :=
  let (pd, pj) := otherEnd d j
  (s.updDie d fun x => x.setLink j (f (x.link j))).updDie pd fun x => x.setLink pj (f (x.link pj))

/-- Address of the topology table (R424). -/
def topoAt : Nat := 0x0015FFFF0000

/-- The WIDTH bytes of a link in the topology table follow it (R424, R425). -/
def State.topoWidth (s : State) (d j : Nat) : State :=
  if s.boot.bstate = 5 then s.wrLE (topoAt + 64 + 64 * d + 20 + j) 1 ((s.die d).link j).width.toNat else s

def State.topoEnds (s : State) (d j : Nat) : State :=
  (s.topoWidth d j).topoWidth (otherEnd d j).1 (otherEnd d j).2

/-- A link at 64 lanes whose end has met 8 CRC failures (R410). -/
def Link.retrainDue (l : Link) (clk : Nat) : Bool := l.state == 2 && l.width == 64 && decide (8 ≤ l.recent clk)
/-- One at 32 lanes (R411). -/
def Link.downDue (l : Link) (clk : Nat) : Bool := l.state == 2 && l.width == 32 && decide (8 ≤ l.recent clk)

/-- FLIT_RECEIVE (R403, R406): with crcOk false the link end counts, and unless the link retrains or goes down for it the adapter's
retry repairs the flit. DEDUCED (log 49). -/
def execFlitReceive (die : BitVec 6) (j : BitVec 2) (f : Flit) (crcOk : Bool) (s : State) : Out :=
  let d := die.toNat
  let n := j.toNat
  let l := (s.die d).link n
  if l.state ≠ 2 then .next s
  else if !crcOk then
    let l1 := { l with crc := l.crc + 1, fails := s.clk :: l.fails.filter fun c => decide (s.clk < c + 2 ^ 20) }
    let s1 := s.updDie d fun x => x.setLink n l1
    .next (if l1.retrainDue s.clk || l1.downDue s.clk then s1 else s1.adapterRetry d n f)
  else if badFlit f then .next (s.updDie d fun x => x.setLink n { l with crc := l.crc + 1 })
  else if f.fseq = l.expRx then .next (s.accept d n f)
  else if l.await ∧ (l.expRx - 1 - f.fseq).toNat < 2 ^ 15 then .next (s.updDie d fun x => x.setLink n (l.heard f))
  else .next s

/-- The flit on the wire that has arrived; none at a link that is about to retrain or to go down. -/
def State.flitDue (s : State) : Option WireFlit :=
  s.wire.find? fun w => let l := (s.die w.die).link w.link
    decide (w.at_ ≤ s.clk) && !l.retrainDue s.clk && !l.downDue s.clk

/-- Flits of a link's two directions that were on the wire are lost. -/
def State.dropWire (s : State) (d j : Nat) : State :=
  let (pd, pj) := otherEnd d j
  { s with wire := s.wire.filter fun w => !((w.die == d && w.link == j) || (w.die == pd && w.link == pj)) }

/-- LINK_RETRAIN (R410): WIDTH becomes 32 when the link has trained again (21, the fifth flit, steps 3 and 4). -/
def execLinkRetrain (die : BitVec 6) (j : BitVec 2) (s : State) : Out :=
  let l := (s.die die.toNat).link j.toNat
  if !l.retrainDue s.clk then .next s
  else
    let s1 := (s.updEnds die.toNat j.toNat fun l =>
      { l with state := 1, retrain := l.retrain + 1, fails := [] }).dropWire die.toNat j.toNat
    .next (s1.postEnds 0x41 die.toNat j.toNat)

/-- Routes are computed afresh: every link that is up is there for them, and no other (R401). -/
def State.newRoutes (s : State) : State :=
  let f (l : Link) : Link := { l with spare := l.state != 2 }
  { s with dies := s.dies.map fun e => (e.1, { e.2 with links := e.2.links.map fun l => (l.1, f l.2) }) }

/-- The link goes down until power-up; the traffic hold begins (R409, R411). -/
def State.loseLink (s : State) (d j : Nat) : State :=
  let s1 := (s.updEnds d j fun l =>
    { l with state := 0, width := 0, dead := true, fails := [], replay := [], again := [], greet := false, await := false }).dropWire d j
  let s2 := s1.postEnds 0x42 d j
  { (s2.topoEnds d j).newRoutes with hold := some (s.clk + 65536) }

/-- LINK_TRAINED (R399, R403, R410): 64 lanes, 32 lanes, or neither. A link that has trained or gone down before keeps what
R399 and R411 leave it; one that trains again sends its first flit at both ends (R403). DEDUCED (log 50). -/
def execLinkTrained (die : BitVec 6) (j : BitVec 2) (width : BitVec 7) (s : State) : Out :=
  let d := die.toNat
  let n := j.toNat
  let l := (s.die d).link n
  if l.dead ∨ l.state = 2 then .next s
  else if l.width = 0 then
    .next (if width = 64 ∨ width = 32 then
      let s1 := s.updEnds d n fun l => { l with state := 2, width := .ofNat 8 width.toNat, spare := s.boot.bstate == 5 }
      { s1 with narrowed := s1.narrowed || width == 32 }
    else s.updEnds d n fun l => { l with state := 0, dead := true })
  else if width = 0 then .next (s.loseLink d n)
  else
    let s1 := s.updEnds d n fun l =>
      { l with state := 2, width := 32, fails := [], again := [], greet := true, await := true
               spare := l.spare && s.boot.bstate == 5 }
    .next { s1.topoEnds d n with narrowed := true }

/-- LINK_DOWN (R411): a link at 32 lanes with 8 failures, or one whose retraining fails. -/
def execLinkDown (die : BitVec 6) (j : BitVec 2) (s : State) : Out :=
  let l := (s.die die.toNat).link j.toNat
  .next (if l.downDue s.clk || (l.state == 1 && l.width != 0) then s.loseLink die.toNat j.toNat else s)

/-- Requests, and TICK and DONE: their sources send them again. -/
def resentType (t : BitVec 8) : Bool :=
  t == mWrite || t == mReadReq || t == mAtomic || t == mSend || t == mTick || t == mDone

/-- Messages that waited on the outputs of die d leave by their new routes. -/
def State.reroute (s : State) (d : Nat) : State :=
  let l := (s.die d).links.flatMap fun e => e.2.out.filter fun m => !resentType m.typ
  let s1 := s.updDie d fun x => { x with links := x.links.map fun e => (e.1, { e.2 with out := [] }) }
  l.foldl (fun s m => s.sendFrom d m) s1

/-- An outstanding request after the hold: sent again, unless it has been nacked and waits for its try; LINK_DOWN, once for its transfer,
where its destination has no route (R287, R409). One of a pre-empted task waits for it. -/
def State.resendHeld (s : State) (d : Nat) (r : Req) : State :=
  if r.stopped || r.away.isSome || r.msg.ddie.toNat == d then s
  else if s.cutOff d r then
    (if r.orphan.isSome then s.dropOrphan d r else if r.held.isSome then s
    else if (s.die d).reqs.any fun x => x.stopped && x.cl == r.cl && x.ch == r.ch && x.id == r.id && x.own
        && s.cutOff d x then s.updReq d r.seq fun r => { r with stopped := true, retry := none }
    else s.stopReq d r fun t => t.trap r.ch .linkDown)
  else if r.retry.isSome then s
  else s.sendFrom d r.msg

/-- TICK and DONE that have not arrived are sent again (R416). -/
def State.resendTicks (s : State) (j : Job) : State :=
  let s1 := match j.tick with
    | some (p, _) => (j.dies.filter fun d => !j.got.contains d).foldl (fun s d => s.sendFrom 0 (tickMsg mTick j p d)) s
    | none => s
  (j.dsent.filter fun d => !j.dones.contains d).foldl (fun s d =>
    s.sendFrom d { tickMsg mDone j j.period 0 with sdie := .ofNat 6 d }) s1

/-- TRAFFIC_HOLD_END (R409). DEDUCED (log 59). -/
def execTrafficHoldEnd (s : State) : Out :=
  match s.hold with
  | none => .next s
  | some c =>
    if s.clk < c then .next s
    else
      let s0 : State := { s with hold := none }
      let s1 := s0.dies.foldl (fun s e => s.reroute e.1) s0
      let s2 := s1.dies.foldl (fun s e => e.2.reqs.foldl (fun s r => s.resendHeld e.1 r) s) s1
      .next (s.jobs.foldl (fun s j => s.resendTicks j) s2)

/-- A link event that is due on die d. -/
def State.linkDue (s : State) (d : Nat) : Option Instr :=
  (s.die d).links.findSome? fun e =>
    if e.2.retrainDue s.clk then some (.linkRetrain (.ofNat 6 d) (.ofNat 2 e.1))
    else if e.2.downDue s.clk then some (.linkDown (.ofNat 6 d) (.ofNat 2 e.1))
    else none

/-! Scale-out ports (R418). -/

/-- SCALEOUT_FRAME (R417, R418): a frame that firmware or the host sends takes the port's next FSEQ; one received of the exchange
layer's type, in order, is theirs to read; by those of IEEE 1588 firmware sets module time, to what is open (log 97). -/
def execScaleoutFrame (port : BitVec 4) (f : PortFrame) (s : State) : Out :=
  let p := port.toNat
  .next (
    if f.etherType = 0x88B5 then
      if f.sent then
        let n := s.soTx.get 0 p
        { s with
          soTx := s.soTx.set 0 p (n + 1)
          soOut := s.soOut ++ [(p, { payload := bytesOf n.toNat 2 ++ f.flit.payload.drop 2 })] }
      else if f.flit.fseq = s.soRx.get 0 p then
        { s with soRx := s.soRx.set 0 p (f.flit.fseq + 1), soIn := s.soIn ++ [(p, f.flit)] }
      else s
    else if f.etherType = 0x88F7 ∧ !f.sent then let r := s.free; { r.2 with mtime := r.1 }
    else s)

end Sys2Proof.Machine
end

