-- ==== Sys2Proof/Machine/Power.lean ====
section
/-! DEFINITION. Current, throttling, frequency, undervolting and the governor (23 R438 to R449; 24 R454, R455). What the
module measures of itself is free (log 2). -/
namespace Sys2Proof.Machine

/-! Measurement and throttle levels (R438, R439, R441). -/

/-- A free value of w bits. -/
def State.freeBits (s : State) (w : Nat) : BitVec w × State := let r := s.free; (r.1.setWidth w, r.2)

/-- ΔI > 0.10·Ip and ΔI < 0.05·Ip of two currents. -/
def overBalance (a b : Nat) : Bool := decide (20 * (a - b + (b - a)) > a + b)
def underBalance (a b : Nat) : Bool := decide (40 * (a - b + (b - a)) < a + b)

/-- The level of a layer that is not over-temperature, from its counts; the heavier layer follows the table.
DEDUCED (log 64). -/
def nextLevel (p : PhysSt) (heavier : Bool) : BitVec 2 :=
  if !heavier then 0
  else if p.hi ≥ 2 ∧ p.thr = 0 then 1
  else if p.hi ≥ 2 ∧ p.thr = 1 ∧ p.atLvl ≥ 4 then 2
  else if p.lo ≥ 16 then (if p.thr = 0 then 0 else p.thr - 1)
  else p.thr

/-- A layer after a measurement: its own current a, its partner's b, its temperature (R441). -/
def PhysSt.measured (p : PhysSt) (a b : BitVec 16) (temp : BitVec 8) : PhysSt :=
  let q := { p with
    imeas := a, temp := temp
    hi := if overBalance a.toNat b.toNat then p.hi + 1 else 0
    lo := if underBalance a.toNat b.toNat then p.lo + 1 else 0
    hot := decide (105 ≤ temp.toNat) || (p.hot && decide (95 ≤ temp.toNat)) }
  let l := if q.hot then 2 else nextLevel q (decide (b.toNat ≤ a.toNat))
  { q with thr := l, atLvl := if l = p.thr then p.atLvl + 1 else 0, lo := if q.lo ≥ 16 then 0 else q.lo }

/-- The measurement of domain j of die d. -/
def State.measureDomain (s : State) (d j : Nat) : State :=
  let (a, s) := s.freeBits 16
  let (b, s) := s.freeBits 16
  let (ta, s) := s.freeBits 8
  let (tb, s) := s.freeBits 8
  let (up, s) := s.freeBits 12
  let (low, s) := s.freeBits 12
  s.updDie d fun x => ((x.setPhys (2 * j) ((x.physSt (2 * j)).measured a b ta)).setPhys (2 * j + 1)
    ((x.physSt (2 * j + 1)).measured b a tb)).setDom j { x.dom j with
      vup := up, vlow := low, bsat := overBalance a.toNat b.toNat }

/-- A measurement of die d is due (R439). -/
def State.measureDue (s : State) (d : Nat) : Bool := (s.die d).present && decide ((s.die d).measAt + 64 ≤ s.clk)

/-- CURRENT_MEASURE (R439). -/
def execCurrentMeasure (die : BitVec 6) (s : State) : Out :=
  let d := die.toNat
  .next (((List.range 9).foldl (fun s j => s.measureDomain d j) s).updDie d fun x => { x with measAt := s.clk })

/-! Frequency (R445, R446, R449). -/

/-- FREQ_REQUEST (R445): the latest request wins; a write on a die other than D0 is ignored. -/
def execFreqRequest (die : BitVec 6) (v : Word32) (s : State) : Out :=
  .next (if die = 0 then
    { s with freq := { s.freq with vnom := .ofNat 12 (field v.toNat 27 16), fmhz := .ofNat 12 (field v.toNat 11 0), pend := true } }
  else s)

/-- The frequency and the voltage that a request asks for, as they are used (R445). -/
def askedF (f : Nat) : Nat := Nat.max 400 (Nat.min 2100 f) / 25 * 25
def askedV (f v : Nat) : Nat := Nat.max (Nat.max 600 (Nat.min 800 v)) (Config.minVoltage f)

/-- Clock cycles of a ramp over mv millivolts at 20 mV/µs and f MHz. -/
def rampClocks (mv f : Nat) : Nat := ceilDiv (mv * f) 20

def absDiff (a b : Nat) : Nat := a - b + (b - a)

/-- Some domain snaps back. -/
def State.snapping (s : State) : Bool := s.dies.any fun d => d.2.doms.any fun x => x.2.snap

/-- A request in the mailbox can be taken. -/
def State.rampDue (s : State) : Bool := s.freq.pend && !s.freq.ramp && !s.snapping

/-- FREQ_RAMP (R446): a higher frequency waits for its voltage, a lower one comes first. -/
def execFreqRamp (s : State) : Out :=
  if !s.rampDue then .next s
  else
    let f := askedF s.freq.fmhz.toNat
    let v := askedV f s.freq.vnom.toNat
    let up := decide (s.freq.fcur.toNat ≤ f)
    .next { s with freq := { s.freq with
      pend := false, ramp := true, switched := false, tf := .ofNat 12 f, tv := .ofNat 12 v
      settled := if up then s.clk + rampClocks (absDiff v s.freq.vcur.toNat) s.freq.fcur.toNat else s.clk } }

/-- The clock may switch now: a tick of every resident locked job acts in this clock cycle (R446). -/
def State.switchNow (s : State) : Bool := s.toSwitch && s.jobs.all fun j => !j.resident || s.tickActs j

/-- FREQ_SWITCH (R446): the clock stops for 2 µs, in which no clock cycle elapses. DEDUCED (log 67). -/
def execFreqSwitch (s : State) : Out :=
  if !s.switchNow then .next s
  else
    let q := s.freq
    let up := decide (q.fcur.toNat ≤ q.tf.toNat)
    .next { s with
      mtime := s.mtime + 2000
      freq := { q with
        fcur := q.tf, fchg := q.fchg + 1, switched := true, ramp := !up
        vcur := if up then q.tv else q.vcur
        settled := if up then q.settled else s.clk + rampClocks (absDiff q.tv.toNat q.vcur.toNat) q.tf.toNat } }

/-- The nominal at clk, on its way to the voltage asked for at 20 mV/µs. -/
def Freq.nominal (q : Freq) (clk : Nat) : Nat :=
  let left := 20 * (q.settled - clk) / q.fcur.toNat
  if q.vcur.toNat ≤ q.tv.toNat then q.tv.toNat - left else q.tv.toNat + left

/-- A clock cycle of the ramp: it pauses while a domain snaps back (R449), and else moves the nominal; where it has settled the
nominal is the one asked for, and a downward one has carried the request out. -/
def State.settleFreq (s : State) : State :=
  let q := s.freq
  if !q.ramp then s
  else if s.clk < q.settled then { s with freq :=
    if s.snapping then { q with settled := q.settled + 1 } else { q with vcur := .ofNat 12 (q.nominal s.clk) } }
  else if q.switched then { s with freq := { q with ramp := false, vcur := q.tv } }
  else if q.fcur.toNat ≤ q.tf.toNat then { s with freq := { q with vcur := q.tv } }
  else s

/-! The governor (R454, R455). -/

/-- Host address of the entry of domain j of die d. -/
def State.govAt (s : State) (d j : Nat) : Nat := 2 ^ 51 + (s.gaddr.toNat * 4096) % 2 ^ 51 + 18 * d + 2 * j

/-- The limit that a table entry gives. -/
def entryLimit (e : Nat) : Nat := if e ≥ 2 ^ 9 ∨ bit e 8 then 0 else Nat.min 100 (e % 256)

/-- A limit changed: kept, and written back while the governor runs (R454). -/
def State.setLimit (s : State) (d j lim : Nat) (lock : Bool) : State :=
  let x := (s.die d).dom j
  if x.limit.toNat = lim ∧ x.lock = lock then s
  else
    let s1 := s.updDie d fun y => y.setDom j { y.dom j with limit := .ofNat 8 lim, lock := lock }
    if s.goven then s1.store (s.govAt d j) (bytesOf (lim + 256 * b2n lock) 2) else s1

/-- GOVERNOR_ENABLE (R454): firmware reads the table; its bits [15:9] must be zero. -/
def execGovernorEnable (s : State) : Out :=
  .next ((List.range 64).foldl (fun s d => s.updDie d fun x =>
    (List.range 9).foldl (fun (x : Die) j =>
      let e := s.rdLE (s.govAt d j) 2
      x.setDom j { x.dom j with limit := .ofNat 8 (entryLimit e), lock := bit e 8 }) x)
    { s with goven := true })

/-- Hours in nanoseconds. -/
def hours (n : Nat) : Nat := n * 3600000000000

/-- The rules for a snap-back of domain j (R455). -/
def State.governSnap (s : State) (d j : Nat) : State :=
  let x := (s.die d).dom j
  let snaps := s.opns :: x.snaps
  let s1 := s.updDie d fun y => y.setDom j { y.dom j with snaps := snaps, clean := s.opns }
  if x.lock then s1
  else
    let third := decide (3 ≤ (snaps.filter fun t => decide (s.opns < t + hours 720)).length)
    s1.setLimit d j (x.limit.toNat - 20) third

/-- A clean day of domain j has passed. -/
def State.cleanDue (s : State) (d j : Nat) : Bool :=
  decide (hours 24 ≤ s.opns) && s.boot.bstate == 5 && decide (((s.die d).dom j).clean + hours 24 ≤ s.opns)

/-- GOVERNOR_CLEAN_DAY (R455). -/
def execGovernorCleanDay (die : BitVec 6) (dom : BitVec 4) (s : State) : Out :=
  let d := die.toNat
  let j := dom.toNat
  if !s.cleanDue d j then .next s
  else
    let x := (s.die d).dom j
    let s1 := s.updDie d fun y => y.setDom j { y.dom j with clean := s.opns }
    .next (if x.lock || !s.goven then s1 else s1.setLimit d j (Nat.min 100 (x.limit.toNat + 5)) false)

/-! Undervolting (R447 to R449). -/

/-- A replay that domain x's snap-back asked for is still to come. -/
def State.replaying (s : State) (x : Domain) : Bool :=
  s.jobs.any fun j => x.after.contains (j.lead, j.slot) && j.rollback && !j.closed

/-- VOFF_WRITE (R447, R454, R455): at most 100 mV and at most the governor's limit; 0 while the governor is off; after a snap-back
it is set once the replay has been. DEDUCED (log 65). -/
def execVoffWrite (die : BitVec 6) (dom : BitVec 4) (v : Word32) (s : State) : Out :=
  let d := die.toNat
  let j := dom.toNat
  if j ≥ 9 ∨ ((s.die d).dom j).snap then .next s
  else
    let x := (s.die d).dom j
    let n := if s.goven && !x.lock then Nat.min (Nat.min (v.toNat % 128) 100) x.limit.toNat else 0
    .next (s.updDie d fun y => y.setDom j (if s.replaying x then { y.dom j with back := .ofNat 7 n }
      else { y.dom j with voff := .ofNat 7 n, back := 0, after := [] }))

/-- Clusters hosted on the two physical clusters of domain j of die d. -/
def State.domKeys (s : State) (d j : Nat) : List Nat :=
  (hostedOn (s.die d).clmap (2 * j) ++ hostedOn (s.die d).clmap (2 * j + 1)).map (clKey d)

/-- Jobs whose tasks met the error at a. -/
def State.snapJobs (s : State) (a : Nat) : List (Nat × Nat) :=
  (s.uvMet.filterMap fun e => if e.1 = a then e.2 else none).eraseDups

/-- SNAP_BACK (R448, R449): an error in the SRAM of physical cluster `phys`, at an address of its. The granule holds it; it brings
an undervolted domain back, and a replay of the job whose task met it is asked for once the layers settle. -/
def execSnapBack (die : BitVec 6) (phys : BitVec 5) (addr : BitVec 52) (s : State) : Out :=
  let d := die.toNat
  let j := phys.toNat / 2
  let x := (s.die d).dom j
  let a := addr.toNat
  let s0 : State := { s.markBad a with
    uvMet := s.uvMet.filter fun e => e.1 != a }
  if x.voff = 0 ∧ !x.snap then .next s0
  else
    let s1 := s0.updDie d fun y => y.setDom j { y.dom j with
      snap := true, voff := 0, back := if x.snap then x.back else x.voff, wants := (x.wants ++ s.snapJobs a).eraseDups
      settle := if x.snap then x.settle else s.clk + rampClocks x.voff.toNat s.freq.fcur.toNat }
    .next ((s1.domKeys d j).foldl (fun s k => s.updCluster k fun c => { c with frz := { c.frz with snap := true } }) s1)

/-- The snap-back that an error met in SRAM calls for. -/
def State.snapDue (s : State) : Option Instr :=
  s.uvMet.head?.map fun e =>
    let d := e.1 / 2 ^ 45
    .snapBack (.ofNat 6 d) (.ofNat 5 (entPhys ((s.die d).clmap.get 0 (e.1 % 2 ^ 45 / 0x400000)))) (.ofNat 52 e.1)

/-- The layers of domain j have settled. -/
def State.settleDue (s : State) (d j : Nat) : Bool := ((s.die d).dom j).snap && decide (((s.die d).dom j).settle ≤ s.clk)

/-- SNAP_SETTLE (R448, R455). DEDUCED (log 66). -/
def execSnapSettle (die : BitVec 6) (dom : BitVec 4) (s : State) : Out :=
  let d := die.toNat
  let j := dom.toNat
  if !s.settleDue d j then .next s
  else
    let x := (s.die d).dom j
    let s1 := s.updDie d fun y => y.setDom j { y.dom j with
      snap := false, wants := [], after := (x.after ++ x.wants).eraseDups, snapcnt := if x.snapcnt = 255 then 255 else x.snapcnt + 1 }
    let s2 := (s1.domKeys d j).foldl (fun s k => s.updCluster k fun c => { c with frz := { c.frz with snap := false } }) s1
    .next (x.wants.foldl (fun s r => s.askReplay r.1 r.2) (s2.governSnap d j))

/-- The offset of domain j is to be set again: its replays are over (R455). -/
def State.backDue (s : State) (d j : Nat) : Bool :=
  let x := (s.die d).dom j
  x.back != 0 && !x.snap && !s.replaying x

/-- A power event that is due on die d. -/
def State.powerDue (s : State) (d : Nat) : Option Instr :=
  let b := BitVec.ofNat 6 d
  match (List.range 9).find? (s.settleDue d) with
  | some j => some (.snapSettle b (.ofNat 4 j))
  | none =>
    if s.measureDue d then some (.currentMeasure b)
    else match (List.range 9).find? (s.backDue d) with
      | some j => some (.voffWrite b (.ofNat 4 j) (((s.die d).dom j).back.setWidth 32))
      | none => ((List.range 9).find? (s.cleanDue d)).map fun j => .governorCleanDay b (.ofNat 4 j)

end Sys2Proof.Machine
end

