-- ==== Sys2Proof/Machine/Boot.lean ====
section
/-! DEFINITION. Power, the firmware download, enumeration and attestation (22 R430 to R437; 20 R424, R425; 01 R10). -/
namespace Sys2Proof.Machine

/-! Power (R430, R437). -/

/-- The module at power-up, with what lies outside it: host memory and the inputs to come. -/
def State.afresh (s : State) : State :=
  { State.reset with
    mem := s.mem.filter fun e => decide (2 ^ 51 ≤ e.1), bad := s.bad.filter fun g => decide (2 ^ 51 ≤ g * 8)
    inputs := s.inputs, fresh := s.fresh }

/-- A die whose four links begin to train (R399). -/
def dieTraining : Die := { links := (List.range 4).map fun j => (j, { state := 1 }) }

/-- POWER_UP (R430): every die resets, both ports train, D0's ROM initialises its DRAM stack and is ready (R431); BSTATE stays 0
where it does not run. DESIGN CHOICE (log 61). -/
def execPowerUp (s : State) : Out :=
  .next { s.afresh with
    dies := (List.range 64).map fun d => (d, dieTraining)
    port0 := { trained := true }, port1 := { trained := true }
    boot := { bstate := if Config.romFails s.fresh then 0 else 1 }, fresh := s.fresh + 1 }

/-- POWER_LOSS (R437): everything is lost. -/
def execPowerLoss (s : State) : Out := .next s.afresh

/-! The download (R432, R433). -/

/-- Host address of the firmware image, D0's copy of it, the size of its place, and the place on die d (R367). -/
def State.imageAt (s : State) : Nat := 2 ^ 51 + s.boot.imgaddr.toNat % 2 ^ 51
def fwCopy : Nat := 0x15F9000000
def fwRoom : Nat := 0x6000000
def fwAt (d : Nat) : Nat := d * 2 ^ 45 + fwCopy
def pkLen : Nat := 2592
def sigLen : Nat := 4627

/-- Length of the header and body of the copy in D0, and M of it (R432). -/
def State.bodyEnd (s : State) : Nat := 64 + s.rdLE (fwCopy + 8) 4
def State.bodyHash (s : State) : BitVec 512 := sha3 (s.rdBytes fwCopy s.bodyEnd)

/-- The image's length and the header of the copy meet R432. -/
def State.headerGood (s : State) : Bool :=
  let b := s.rdLE (fwCopy + 8) 4
  s.rdLE fwCopy 4 == 0x46573031 && b % 64 == 0 && decide (64 ≤ b) && decide (b ≤ 64 * 2 ^ 20) && s.zeroAt (fwCopy + 12) 52
    && s.boot.len == 64 + b + pkLen + sigLen

/-- The reason for which the download in D0's copy fails; 0: it passes (R433). -/
def State.downloadError (s : State) : Nat :=
  let pk := s.rdBytes (fwCopy + s.bodyEnd) pkLen
  if !s.headerGood then 1
  else if s.boot.rdErr then 5
  else if s.errs fwCopy s.boot.len then 6
  else if sha3 pk ≠ Config.fusedDigest then 2
  else if s.rdLE (fwCopy + 4) 4 < Config.fusedVersion then 3
  else if !MlDsa.verify pk (bytesOf s.bodyHash.toNat 64) (s.rdBytes (fwCopy + s.bodyEnd + pkLen) sigLen) then 4
  else 0

/-- D0 sends header, body and M to every other die that its routes reach (R434). -/
def State.distribute (s : State) : State :=
  let l := s.rdBytes fwCopy s.bodyEnd
  ((List.range 64).filter fun d => d != 0 && (s.hops 0 d).isSome).foldl (fun t d => t.store (fwAt d) l) s

/-- The read of the image into D0's region, as far as it has room (R433). -/
def State.readImage (s : State) : State :=
  let len := s.boot.imglen.toNat
  let n := Nat.min len fwRoom
  let s1 := s.store fwCopy (s.rdBytes s.imageAt n)
  { s1 with boot := { s1.boot with bstate := 2, berr := 0, len := len, rdErr := s.errs s.imageAt n, sent := s.clk } }

/-- The checks of the copy: distribution, or failure (R433). -/
def State.checkDownload (s : State) : State :=
  match s.downloadError with
  | 0 =>
    let s1 := s.distribute
    { s1 with
      boot := { s1.boot with
        bstate := 3, sent := s.clk, fwver := .ofNat 32 (s.rdLE (fwCopy + 4) 4), m := s.bodyHash }
      dies := s1.dies.map fun e => (e.1, { e.2 with answer := 0 }) }
  | e => { s with boot := { s.boot with bstate := 6, berr := .ofNat 8 e, sent := s.clk } }

/-- FW_DOWNLOAD (R433): in state 1 or 6 the read that a GO starts, in state 2 the checks that follow it. DESIGN CHOICE (log 61). -/
def execFwDownload (_port : Bool) (s : State) : Out :=
  .next (if s.boot.bstate = 1 ∨ s.boot.bstate = 6 then s.readImage
    else if s.boot.bstate = 2 then s.checkDownload else s)

/-! Distribution and enumeration (R434, R435). -/

/-- Die d compares the digest of its copy with M and answers. -/
def State.dieAnswer (s : State) (d : Nat) : Nat :=
  if s.errs (fwAt d) s.bodyEnd || sha3 (s.rdBytes (fwAt d) s.bodyEnd) != s.boot.m then 2 else 1

/-- The answers of the dies that D0's routes reach, in the clock cycle after its first send; when a die answers is open, and whether
it does at all (DESIGN CHOICE, log 61). -/
def State.dieAnswers (s : State) : State :=
  if s.boot.bstate ≠ 3 then s
  else { s with dies := s.dies.map fun e => (e.1,
    if e.2.answer = 0 ∧ Config.dieAnswers e.1 ∧ (s.hops 0 e.1).isSome then { e.2 with answer := s.dieAnswer e.1 } else e.2) }

/-- A die has not answered within 2^24 clock cycles. -/
def State.answerLate (s : State) (d : Nat) : Bool :=
  s.boot.bstate == 3 && (s.die d).answer == 0 && decide (s.boot.sent + 2 ^ 24 ≤ s.clk)

/-- DIE_ANSWER_TIMEOUT (R434). -/
def execDieAnswerTimeout (die : BitVec 6) (s : State) : Out :=
  .next (if s.answerLate die.toNat then s.updDie die.toNat fun x => { x with answer := 2 } else s)

/-- A die that passes R10. -/
def State.dieGood (s : State) (d : Nat) : Bool :=
  (s.die d).answer == 1 && Config.dieSized d && decide (popcount (Config.dieDefects d).toNat 18 ≤ 10)

/-- Firmware on a die that is not absent: DEFMASK set, the remap table committed (R366, R435). -/
def State.enumerate (s : State) (d : Nat) : State :=
  if s.dieGood d then
    let m := (List.range 16).foldl (fun (m : SMap Byte) n => m.set 0 n (Config.bootMap d n)) []
    let s1 := s.updDie d fun x => { x with present := true, defmask := Config.dieDefects d, measAt := s.clk }
    if mapLegal (Config.dieDefects d) m then s1.commitMap d m else s1
  else s.updDie d fun x => { x with present := false }

/-- A die's entry of the topology table (R425); the state of its scale-out lanes is free. DEDUCED (log 72). -/
def State.topoEntry (s : State) (d : Nat) (lanes : BitVec 16) : List Byte :=
  let x := s.die d
  let g (n : Nat) : List Byte := bytesOf (if x.present then n else 0) 4
  [if x.present then 1 else 0] ++ bytesOf x.defmask.toNat 3 ++ (List.range 16).map (fun n => x.clmap.get 0 n)
    ++ (List.range 4).map (fun j => (x.link j).width) ++ g 24 ++ g 256
    ++ bytesOf (if d % 60 < 4 ∨ d / 4 = 1 ∨ d / 4 = 14 then lanes.toNat else 0) 2 ++ List.replicate 30 0

/-- The mask of present dies. -/
def State.presentMask (s : State) : Nat := (List.range 64).foldl (fun m d => m + b2n (s.die d).present * 2 ^ d) 0

/-- The topology table written (R424, R425). -/
def State.writeTopo (s : State) : State :=
  let head := bytesOf 0x544F5031 4 ++ bytesOf 1 4 ++ bytesOf s.presentMask 8 ++ [if s.port0.trained then 0 else 32]
    ++ List.replicate 47 0
  (List.range 64).foldl (fun s d =>
    let r := s.freeBits 16
    r.2.store (topoAt + 64 + 64 * d) (s.topoEntry d r.1)) (s.store topoAt head)

/-- Every die has answered or counts as absent. -/
def State.enumDue (s : State) : Bool := s.boot.bstate == 3 && (List.range 64).all fun d => (s.die d).answer != 0

/-- Firmware on every die finds what it has; then the topology is published and the module runs. -/
def State.publish (s : State) : State :=
  let s1 := s.writeTopo
  { s1 with
    boot := { s1.boot with bstate := 5, sent := s.clk }
    port0 := { s1.port0 with topo := .ofNat 52 topoAt }, port1 := { s1.port1 with topo := .ofNat 52 topoAt } }

/-- ENUMERATION (R435): state 4 once every die has answered, then state 5; without D0 the module does not boot (R430).
DEDUCED (log 62). -/
def execEnumeration (s : State) : Out :=
  if s.enumDue then
    let s1 := (List.range 64).foldl (fun s d => s.enumerate d) s
    .next { s1 with boot := { s1.boot with bstate := 4, sent := s.clk } }
  else .next (if s.boot.bstate = 4 ∧ (s.die 0).present then s.publish else s)

/-- A request of the host for the certificate or the report, served in the clock cycle after its write, CERT first (R436).
DESIGN CHOICE (log 61). -/
def State.requestDue (s : State) : Option Instr :=
  if s.clk ≤ s.boot.reqAt then none
  else if s.boot.certReq then some (.certificate false)
  else if s.boot.attReq then some (.attestation false)
  else none

/-- The boot event that is due: each state lasts a clock cycle at least. -/
def State.bootDue (s : State) : Option Instr :=
  if s.clk ≤ s.boot.sent then s.requestDue
  else match s.boot.bstate.toNat with
  | 2 => some (.fwDownload false)
  | 3 =>
    match (List.range 64).find? s.answerLate with
    | some d => some (.dieAnswerTimeout (.ofNat 6 d))
    | none => if s.enumDue then some .enumeration else s.requestDue
  | 4 => if (s.die 0).present then some .enumeration else s.requestDue
  | _ => s.requestDue

/-! Attestation (R436). -/

/-- Host address of the output area. -/
def State.attAt (s : State) : Nat := 2 ^ 51 + s.boot.attout.toNat % 2 ^ 51

def State.attFails (s : State) : State := { s with boot := { s.boot with atterr := true } }
def State.attWrites (s : State) (l : List Byte) : State :=
  let s1 := s.store s.attAt l
  { s1 with boot := { s1.boot with attdone := true, atterr := false } }

/-- Bytes 0 to 255 of the report. -/
def State.report (s : State) : List Byte :=
  bytesOf 0x41545431 4 ++ bytesOf s.boot.fwver.toNat 4 ++ s.rdBytes (2 ^ 51 + s.boot.attnonce.toNat % 2 ^ 51) 64
    ++ bytesOf s.boot.m.toNat 64 ++ bytesOf s.presentMask 8 ++ bytesOf (sha3 (s.rdBytes topoAt 4160)).toNat 64
    ++ List.replicate 48 0

/-- The device identity key (R436). -/
def identityKey : MlDsa.Key := MlDsa.keyGen (bytesOf Config.deviceSeed.toNat 32)

/-- The 32 random bytes of a signature, which FIPS 204 leaves to the signer (log 95). -/
def State.signSeed (s : State) : List Byte := (List.range 4).flatMap fun i => bytesOf (Config.freeValue (s.fresh + i)).toNat 8

/-- ATTESTATION (R436): the request is finished. -/
def execAttestation (_port : Bool) (s0 : State) : Out :=
  let s : State := { s0 with boot := { s0.boot with attReq := false } }
  if s.boot.bstate ≠ 5 ∨ s.errs (2 ^ 51 + s.boot.attnonce.toNat % 2 ^ 51) 64 then .next s.attFails
  else
    match MlDsa.sign identityKey (bytesOf (sha3 s.report).toNat 64) s.signSeed with
    | some sig => .next { s.attWrites (s.report ++ sig) with fresh := s.fresh + 4 }
    | none => .next { s.attFails with fresh := s.fresh + 4 }

/-- CERTIFICATE (R436): length, public key, certificate; the request is finished. -/
def execCertificate (_port : Bool) (s0 : State) : Out :=
  let s : State := { s0 with boot := { s0.boot with certReq := false } }
  if s.boot.bstate = 0 then .next s.attFails
  else .next (s.attWrites (bytesOf (pkLen + Config.certificateLength) 4
    ++ identityKey.pk ++ (List.range Config.certificateLength).map Config.certificateByte))

end Sys2Proof.Machine
end

