-- ==== Sys2Proof/Machine/Pair.lean ====
section
/-! DEFINITION. The pair engine (09 R244 to R267, R457): configuration, the range filter, kernel tables, accumulation, the
visiting order, and the issue, units and completion of an operation. -/
namespace Sys2Proof.Machine

/-! Configuration (R247). -/

def pcfgDef (sel : Nat) : Word64 := if sel < 3 then 0x10000 else if sel = 3 then 7 else 0

def pcfgWidth (sel : Nat) : Nat :=
  match sel with
  | 0 | 1 | 2 => 32
  | 3 => 3
  | 4 => 64
  | 8 => 18
  | 11 => 1
  | _ => 21

/-- The captured register SEL of an operation. -/
def PeJob.cf (j : PeJob) (sel : Nat) : Nat := (j.cfg.get (pcfgDef sel) sel).toNat

def PEng.cf (e : PEng) (sel : Nat) : Nat := (e.cfg.get (pcfgDef sel) sel).toNat
def PEng.setCf (e : PEng) (sel : Nat) (v : Word64) : PEng :=
  { e with cfg := e.cfg.set (pcfgDef sel) sel (.ofNat 64 (v.toNat % 2 ^ pcfgWidth sel)) }

def State.updPe (s : State) (f : PEng → PEng) : State := { s with cl := { s.cl with pe := f s.cl.pe } }

/-- Extents NX, NY, NZ of a GRID value. -/
def gridOf (g : Nat) : Nat × Nat × Nat := (field g 5 0 + 1, field g 11 6 + 1, field g 17 12 + 1)

/-- PCFG: written at the end of the repetition (R246, R261). -/
def issuePcfg (sel : Nat) (v : Word64) (s : State) : Out :=
  .next (s.updMe fun e => { e with pcfgP := e.pcfgP ++ [(sel, v)] })

/-! Records and pair memory (R249, R252 to R254). -/

/-- A particle record. -/
structure PRec where
  x : Nat
  y : Nat
  z : Nat
  typ : Nat
  fixed : Bool
  skip : Bool
deriving DecidableEq, Repr

def State.prec (s : State) (posb n : Nat) : PRec :=
  let w := s.rdLE (s.spad (posb + 16 * n)) 16
  { x := field w 31 0, y := field w 63 32, z := field w 95 64, typ := field w 99 96, fixed := bit w 105, skip := bit w 104 }

def State.pmem (s : State) (o : Nat) : Nat := winBase s.cur + offPair + o

/-- Table descriptor k. -/
def State.pdesc (s : State) (k : Nat) : Nat := s.rdLE (s.pmem (0x18000 + 8 * k)) 8
/-- Type-map entry of two types (R254). -/
def State.tmap (s : State) (a b : Nat) : Nat := s.rdLE (s.pmem (0x18080 + 2 * (16 * Nat.min a b + Nat.max a b))) 2

/-- A legal descriptor (R253). -/
def descOk (d : Nat) : Bool :=
  decide (field d 49 40 + 1 ≥ 2) && decide (field d 63 50 + field d 49 40 + 1 ≤ 12288) && decide (field d 32 29 ≤ 12)

/-- Tables that a map entry enables: force, then energy. -/
def tabsOf (e : Nat) : List Nat :=
  (if bit e 15 then [field e 3 0] else []) ++ (if bit e 14 then [field e 7 4] else [])

/-! The range filter (R250). -/

/-- D along one axis. -/
def axisD (box : Nat) (per : Bool) (pi pj : Nat) : Int :=
  let d : Int := if per then toSigned 32 (ofInt 32 ((pj : Int) - (pi : Int))) else (pj : Int) - (pi : Int)
  shiftRound (d * (box : Int)) 32 .rne 0

/-- Displacement and squared distance of a pair. -/
def PeJob.filter (j : PeJob) (a b : PRec) : (Int × Int × Int) × Nat :=
  let per := j.cf 3
  let dx := axisD (j.cf 0) (bit per 0) a.x b.x
  let dy := axisD (j.cf 1) (bit per 1) a.y b.y
  let dz := axisD (j.cf 2) (bit per 2) a.z b.z
  ((dx, dy, dz), (dx * dx + dy * dy + dz * dz).toNat)

def PeJob.passes (j : PeJob) (a b : PRec) : Bool := decide ((j.filter a b).2 < j.cf 4) && !a.skip && !b.skip

/-! Kernel tables (R255). -/

/-- A function's value as a raw Q24.40, and whether it set PTAB or PAIR_SAT. -/
def State.interp (s : State) (tab sq : Nat) : Int × Bool × Bool :=
  let d := s.pdesc tab
  let sh := field d 39 34
  let scl := field d 32 29
  let j := sq / 2 ^ sh
  let tau := sq % 2 ^ sh
  if j + 2 > field d 49 40 + 1 then (0, true, false)
  else
    let t : Int := if sh ≥ 16 then (tau / 2 ^ (sh - 16) : Nat) else (tau * 2 ^ (16 - sh) : Nat)
    let e0 := s.rdLE (s.pmem (8 * (field d 63 50 + j))) 8
    let e1 := s.rdLE (s.pmem (8 * (field d 63 50 + j + 1))) 8
    let v0 := toSigned 32 (e0 / 2 ^ 32)
    let s0 := toSigned 32 e0
    let v1 := toSigned 32 (e1 / 2 ^ 32)
    let s1 := toSigned 32 e1
    let w16 : Int := (2 ^ 16 : Nat)
    let x : Int :=
      if bit d 33 then
        let h00 := 2 * t ^ 3 - 3 * t ^ 2 * w16 + (2 ^ 48 : Nat)
        let h10 := t ^ 3 - 2 * t ^ 2 * w16 + t * (2 ^ 32 : Nat)
        let h01 := 3 * t ^ 2 * w16 - 2 * t ^ 3
        let h11 := t ^ 3 - t ^ 2 * w16
        shiftRound ((h00 * v0 + h10 * s0 + h01 * v1 + h11 * s1) * (2 ^ scl : Nat)) 28 .rne 0
      else (v0 * w16 + t * s0) * (2 ^ (4 + scl) : Nat)
    (sat64 x, false, decide (sat64 x ≠ x))

/-- Pool entries and descriptor that a function reads at S. -/
def State.interpReads (s : State) (tab sq : Nat) : List Nat :=
  let d := s.pdesc tab
  let j := sq / 2 ^ field d 39 34
  s.pmem (0x18000 + 8 * tab) ::
    (if j + 2 > field d 49 40 + 1 then [] else [s.pmem (8 * (field d 63 50 + j)), s.pmem (8 * (field d 63 50 + j + 1))])

/-! The visiting order (R259, R262). -/

/-- PCELL or PSETS in half mode. -/
def PeJob.half (j : PeJob) : Bool :=
  match j.op with
  | .pcell _ st _ _ _ _ => st == 0
  | .psets _ st _ _ _ _ _ => st == 0
  | _ => false

/-- OUT: forces, list. -/
def PeJob.out (j : PeJob) : Nat :=
  match j.op with
  | .pcell _ _ o _ _ _ => o.toNat
  | .psets _ _ o _ _ _ _ => o.toNat
  | _ => 0
def PeJob.forces (j : PeJob) : Bool := bit j.out 0
def PeJob.list (j : PeJob) : Bool := bit j.out 1

/-- The neighbour of cell h at stencil position q (R259). -/
def neighbour (grid per h q : Nat) : Option Nat :=
  let (nx, ny, nz) := gridOf grid
  let axis (c d : Nat) (n : Nat) (p : Bool) : Option Nat :=
    if p then some ((c + n + d - 1) % n) else if c + d = 0 ∨ c + d - 1 ≥ n then none else some (c + d - 1)
  match axis (h % nx) (q % 3) nx (bit per 0), axis (h / nx % ny) (q / 3 % 3) ny (bit per 1),
      axis (h / (nx * ny)) (q / 9) nz (bit per 2) with
  | some x, some y, some z => some (x + nx * (y + ny * z))
  | _, _, _ => none

/-- FIRST and COUNT of a cell (R258). -/
def State.cellHdr (s : State) (j : PeJob) (c : Nat) : Nat × Nat :=
  let w := s.rdLE (s.spad (j.cf 7 + 8 * c)) 8
  (field w 31 0, field w 47 32)

/-- The first particle of the current i, and the candidates' first index and number. -/
def State.ranges (s : State) (j : PeJob) : Nat × Nat × Nat × Nat :=
  match j.op with
  | .psets _ _ _ _ _ nam1 nbm1 =>
    (j.xr.toNat % 2 ^ 32, nam1.toNat + 1, j.xr.toNat / 2 ^ 32, nbm1.toNat + 1)
  | _ =>
    let m := (neighbour (j.cf 8) (j.cf 3) j.h j.q).getD j.h
    let a := s.cellHdr j j.h
    let b := s.cellHdr j m
    (a.1, a.2, b.1, b.2)

/-- Position k of the second range is a candidate of particle i. -/
def State.candidate (s : State) (j : PeJob) (i k : Nat) : Bool :=
  let (a0, na, b0, nb) := s.ranges j
  let y := b0 + k
  match j.op with
  | .psets .. => y != i && !(j.half && decide (y < i) && decide (b0 ≤ i) && decide (i < b0 + nb) && decide (a0 ≤ y)
      && decide (y < a0 + na))
  | _ => y != i && !(j.half && j.q == 13 && decide (y ≤ i))

/-- Candidates of the particle at position pi, by position, from position k on. -/
def State.candsFrom (s : State) (j : PeJob) (pi k : Nat) : List Nat :=
  let (a0, _, _, nb) := s.ranges j
  (List.range nb).filter fun x => decide (k ≤ x) && s.candidate j (a0 + pi) x

/-- The current block: particle i and up to 64 candidate indices (R245). -/
def State.block (s : State) (j : PeJob) : Nat × List Nat :=
  let (a0, _, b0, _) := s.ranges j
  (a0 + j.i, ((s.candsFrom j j.i j.j).take 64).map (b0 + ·))

/-- Granules of the two cell headers in use hold an error. -/
def State.hdrBad (s : State) (j : PeJob) : Option Nat :=
  match j.op with
  | .pcell .. =>
    match s.badRead (s.spad (j.cf 7 + 8 * j.h)) 8 with
    | some g => some g
    | none => s.badRead (s.spad (j.cf 7 + 8 * (neighbour (j.cf 8) (j.cf 3) j.h j.q).getD j.h)) 8
  | _ => none

/-- One past the last home cell. -/
def PeJob.hEnd (j : PeJob) : Nat :=
  match j.op with
  | .pcell _ _ _ _ _ nhm1 => j.xr.toNat % 2 ^ 18 + nhm1.toNat + 1
  | _ => 0

/-- Levels of the search for the next block: 0 the headers of stencil position q are to be read, 2 a block is found, 3 home
cell h is to be entered, 4 stencil position q is to be entered. Entering costs a cycle each (R457). -/
def State.seek (s : State) : Nat → PeJob → PeJob
  | 0, j => j
  | n + 1, j =>
    match j.level with
    | 3 =>
      if j.h ≥ j.hEnd then { j with fin := true }
      else State.seek s n { j with level := 4, q := if j.half then 13 else 0, at_ := j.at_ + 1 }
    | 4 =>
      if j.q ≥ 27 then State.seek s n { j with h := j.h + 1, level := 3 }
      else
        match neighbour (j.cf 8) (j.cf 3) j.h j.q with
        | none => State.seek s n { j with q := j.q + 1, at_ := j.at_ + 1 }
        | some _ => State.seek s n { j with level := 0, i := 0, j := 0, at_ := j.at_ + 1 }
    | 0 =>
      if (s.hdrBad j).isSome then j
      else
        let (_, na, _, _) := s.ranges j
        if na = 0 then State.seek s n { j with q := j.q + 1, level := 4 }
        else { j with level := 2, j := (s.candsFrom j 0 0).headD 0 }
    | _ => j

/-- Bound on the steps of one search. -/
def PeJob.fuel (j : PeJob) : Nat := (j.hEnd + 1 - j.h) * 90 + 4

/-- The block after the current one; the j of PECUR is 0 where it has no candidates (DESIGN CHOICE, log 104). -/
def State.nextBlock (s : State) (j : PeJob) : PeJob :=
  let (_, na, _, _) := s.ranges j
  match ((s.candsFrom j j.i j.j).drop 64) with
  | k :: _ => { j with j := k }
  | [] =>
    if j.i + 1 < na then { j with i := j.i + 1, j := (s.candsFrom j (j.i + 1) 0).headD 0 }
    else match j.op with
    | .pcell .. => s.seek j.fuel { j with q := j.q + 1, level := 4, i := 0, j := 0 }
    | _ => { j with fin := true }

/-! One block (R255 to R257, R260). -/

/-- The passing candidates of a block, with displacement and S. -/
def State.passing (s : State) (j : PeJob) : List (Nat × (Int × Int × Int) × Nat) :=
  let b := s.block j
  let ri := s.prec (j.cf 6) b.1
  (b.2.filter fun y => j.passes ri (s.prec (j.cf 6) y)).map fun y =>
    let f := j.filter ri (s.prec (j.cf 6) y)
    (y, f.1, f.2)

/-- Cycles a block takes (R245). -/
def State.blockCost (s : State) (j : PeJob) : Nat := Nat.max 1 (ceilDiv (s.passing j).length 8)

/-- Reads of the block beyond its records: accumulators it adds to, tables, list header. -/
def State.blockReads (s : State) (j : PeJob) : List (Nat × Nat) :=
  let b := s.block j
  let ri := s.prec (j.cf 6) b.1
  let l := s.passing j
  let acc (n : Nat) : Nat × Nat := (s.spad (j.cf 5 + 32 * n), 32)
  (if j.forces then
    (if !l.isEmpty && !ri.fixed then [acc b.1] else [])
    ++ (if j.half then ((l.map (·.1)).filter fun y => !(s.prec (j.cf 6) y).fixed).map acc else [])
    ++ l.flatMap fun x =>
        let ty := (s.prec (j.cf 6) x.1).typ
        (s.pmem (0x18080 + 2 * (16 * Nat.min ri.typ ty + Nat.max ri.typ ty)), 2)
          :: (tabsOf (s.tmap ri.typ ty)).flatMap fun t => (s.interpReads t x.2.2).map fun a => (a, 8)
   else [])
  ++ (if j.list && !l.isEmpty then [(s.spad (j.cf 9), 8)] else [])

/-- The cause a block meets before its effects (R264, R387). -/
def State.blockCause (s : State) (j : PeJob) : Option Trap :=
  let b := s.block j
  let far (off : Nat) : Bool := decide (off ≥ 2 ^ 21)
  let recs := (b.1 :: b.2).map fun n => j.cf 6 + 16 * n
  let accs := if j.forces then (b.1 :: b.2).map fun n => j.cf 5 + 32 * n else []
  match s.hdrBad j with
  | some g => some (mMemErr g j.baddr)
  | none =>
    match (recs ++ accs).find? far with
    | some o => some (mTrap .spadRange j.baddr o)
    | none =>
      match recs.findSome? fun o => s.badRead (s.spad o) 16 with
      | some g => some (mMemErr g j.baddr)
      | none => ((s.blockReads j).findSome? fun r => s.badRead r.1 r.2).map fun g => mMemErr g j.baddr

/-- Flags of the arithmetic of a block: PTAB, PAIR_SAT, LFULL. -/
structure PFlags where
  ptab : Bool := false
  sat  : Bool := false
  full : Bool := false
deriving DecidableEq, Repr

/-- One indivisible read-add-write of a Q24.40 word (R257). -/
def addWord (o : Nat) (c : Int) (x : State × PFlags) : State × PFlags :=
  let v := toSigned 64 (x.1.rdLE (x.1.spad o) 8) + c
  (x.1.store (x.1.spad o) (bytesOf (ofInt 64 (sat64 v)) 8), { x.2 with sat := x.2.sat || decide (sat64 v ≠ v) })

/-- The line of one particle: FX, FY, FZ, E. -/
def addLine (base : Nat) (c : Int × Int × Int) (e : Int) (x : State × PFlags) : State × PFlags :=
  addWord (base + 24) e (addWord (base + 16) c.2.2 (addWord (base + 8) c.2.1 (addWord base c.1 x)))

/-- The adds of one passing pair (R256). -/
def pairAdds (j : PeJob) (i y : Nat) (d : Int × Int × Int) (sq : Nat) (x : State × PFlags) : State × PFlags :=
  let s := x.1
  let ri := s.prec (j.cf 6) i
  let ry := s.prec (j.cf 6) y
  let e := s.tmap ri.typ ry.typ
  let g := if bit e 15 then s.interp (field e 3 0) sq else (0, false, false)
  let u := if bit e 14 then s.interp (field e 7 4) sq else (0, false, false)
  let raw (d : Int) : Int := shiftRound (g.1 * d) 16 .rne 0
  let c := (sat64 (raw d.1), sat64 (raw d.2.1), sat64 (raw d.2.2))
  let clamp := c.1 ≠ raw d.1 ∨ c.2.1 ≠ raw d.2.1 ∨ c.2.2 ≠ raw d.2.2
  let uh := u.1 / 2
  let share (n : Nat) : Int := if n = Nat.min i y then u.1 - uh else uh
  let x1 := (s, { x.2 with ptab := x.2.ptab || g.2.1 || u.2.1, sat := x.2.sat || g.2.2 || u.2.2 || decide clamp })
  let x2 := if ri.fixed then x1 else addLine (j.cf 5 + 32 * i) c (share i) x1
  if j.half ∧ ¬ ry.fixed then addLine (j.cf 5 + 32 * y) (-c.1, -c.2.1, -c.2.2) (share y) x2 else x2

/-- One edge (R260). -/
def pairEdge (j : PeJob) (i y sq : Nat) (x : State × PFlags) : State × PFlags :=
  let s := x.1
  let lb := j.cf 9
  let cap := s.rdLE (s.spad lb) 4
  let cnt := s.rdLE (s.spad (lb + 4)) 4
  let x1 : State × PFlags :=
    if cnt < cap then
      (s.store (s.spad (lb + 16 + 16 * cnt)) (bytesOf i 4 ++ bytesOf y 4 ++ bytesOf sq 8), x.2)
    else (s, { x.2 with full := true })
  (x1.1.store (x1.1.spad (lb + 4)) (bytesOf (cnt + 1) 4), x1.2)

/-- The effects of the current block: adds and edges in candidate order, and the counts. -/
def State.applyBlock (s : State) (j : PeJob) : State × PFlags :=
  let b := s.block j
  let l := s.passing j
  let (s1, f) := l.foldl (fun x p =>
    let x1 := if j.forces then pairAdds j b.1 p.1 p.2.1 p.2.2 x else x
    if j.list then pairEdge j b.1 p.1 p.2.2 x1 else x1) (s, {})
  (s1.updPe fun e => { e with tests := e.tests + .ofNat 64 b.2.length, pairs := e.pairs + .ofNat 64 l.length }, f)

/-! PCIDX and PACLR (R263). -/

def PeJob.groupSize (j : PeJob) : Nat := match j.op with
  | .pcidx .. => 16
  | _ => 8
def PeJob.indices (j : PeJob) : Nat := match j.op with
  | .pcidx _ nm1 | .paclr _ nm1 => nm1.toNat + 1
  | _ => 0

/-- The cause that index k meets. -/
def State.indexCause (s : State) (j : PeJob) (k : Nat) : Option Nat :=
  match j.op with
  | .pcidx .. =>
    match s.badRead (s.spad (j.cf 6 + 16 * k)) 16 with
    | some g => some g
    | none => s.badWrite (s.spad (j.cf 10 + 4 * k)) 4
  | _ => none

/-- The words of index k. -/
def State.indexWrite (s : State) (j : PeJob) (k : Nat) : State :=
  match j.op with
  | .pcidx .. =>
    let r := s.prec (j.cf 6) k
    let (nx, ny, nz) := gridOf (j.cf 8)
    let c := r.x * nx / 2 ^ 32 + nx * (r.y * ny / 2 ^ 32 + ny * (r.z * nz / 2 ^ 32))
    s.store (s.spad (j.cf 10 + 4 * k)) (bytesOf c 4)
  | _ => s.store (s.spad (j.cf 5 + 32 * k)) (List.replicate 32 0)

/-- n indices from the cursor, up to one that meets a cause. -/
def indexRun : Nat → PeJob → State → State × Option Trap
  | 0, j, s => (s.updPe fun e => { e with job := some j }, none)
  | n + 1, j, s =>
    let k := j.xr.toNat % 2 ^ 32 + j.i
    match s.indexCause j k with
    | some g => (s.updPe fun e => { e with job := some j }, some (mMemErr g j.baddr))
    | none => indexRun n { j with i := j.i + 1 } (s.indexWrite j k)

/-- Indices of the current group still to do, and the group's cycle (R457). -/
def PeJob.groupLeft (j : PeJob) : Nat :=
  Nat.min j.indices ((j.i / j.groupSize + 1) * j.groupSize) - j.i
def PeJob.groupCycle (j : PeJob) : Nat := j.issue + 4 + j.i / j.groupSize

def PeJob.isIndex (j : PeJob) : Bool := match j.op with
  | .pcidx .. | .paclr .. => true
  | _ => false

/-- An index of the current group meets a cause. -/
def State.groupBad (s : State) (j : PeJob) : Bool :=
  (List.range j.groupLeft).any fun x => (s.indexCause j (j.xr.toNat % 2 ^ 32 + j.i + x)).isSome

/-! The units and the completion as events. -/

/-- The unit in progress has had its cycle by the start of cycle t and meets no cause: its effects are made at the end of that
cycle (R457). -/
def State.peActs (s : State) (t : Nat) : Bool :=
  match s.cl.pe.job with
  | none => false
  | some j =>
    if j.fin then false
    else if j.isIndex then decide (j.groupCycle < t) && !s.groupBad j
    else j.trapAt.isNone && j.level == 2 && (s.blockCause j).isNone && decide (j.at_ + s.blockCost j ≤ t)

/-- The unit in progress acts in cycle t: its cost is over, or it meets a cause (R457). -/
def State.peUnitDue (s : State) (t : Nat) : Bool :=
  match s.cl.pe.job with
  | none => false
  | some j =>
    if j.trapAt.any (decide <| · ≤ t) then true
    else if j.fin then false
    else if j.isIndex then decide (j.groupCycle < t) || (decide (j.groupCycle ≤ t) && s.groupBad j)
    else decide (j.at_ ≤ t) &&
      (j.level == 0 || (s.blockCause j).isSome || decide (j.at_ + s.blockCost j ≤ t))

/-- PAIR_SATURATE is to be raised for the operation (R257). -/
def PeJob.traps (j : PeJob) : Bool := j.sat && j.cf 11 == 0

/-- PE_BLOCK (R457): the unit in progress meets its cause, or makes its effects; the cursor then names the next. A block that
saturates makes its adds, and PAIR_SATURATE follows in the next cycle (R257). -/
def execPeBlock (s : State) : Out :=
  match s.cl.pe.job with
  | none => .next s
  | some j =>
    if !s.peUnitDue s.cyc then .next s
    else if j.trapAt.any (decide <| · ≤ s.cyc) then
      .next ((s.updPe fun e => { e with job := some { j with trapAt := none } }).takeFault (mTrap .pairSaturate j.baddr))
    else if j.isIndex then
      match indexRun j.groupLeft j s with
      | (s1, some t) => .next (s1.takeFault t)
      | (s1, none) =>
        .next (s1.updPe fun e => { e with job := e.job.map fun x =>
          if x.i ≥ x.indices then { x with fin := true, at_ := x.issue + 4 + ceilDiv x.indices x.groupSize } else x })
    else if j.level = 0 then
      match s.hdrBad j with
      | some g => .next (s.takeFault (mMemErr g j.baddr))
      | none => .next (s.updPe fun e => { e with job := some (s.seek j.fuel j) })
    else
      match s.blockCause j with
      | some t => .next (s.takeFault t)
      | none =>
        let (s1, f) := s.applyBlock j
        let s2 := { s1 with cl := s1.cl.orP f.full f.ptab f.sat }
        let q := s2.nextBlock { j with at_ := j.at_ + s.blockCost j, sat := j.sat || f.sat }
        let r := if q.traps && !q.fin then { q with sat := false, trapAt := some (j.at_ + s.blockCost j) } else q
        .next (s2.updPe fun e => { e with job := some r })

/-- SE and the semaphore of an operation (R262). -/
def PeJob.sem (j : PeJob) : Option Nat :=
  match j.op with
  | .pcell _ _ _ se sem _ => if se = 1 then some sem.toNat else none
  | .psets _ _ _ se sem _ _ => if se = 1 then some sem.toNat else none
  | _ => none

/-- PE_COMPLETE (R245, R257): the semaphore's release, and PAIR_SATURATE of the last block. -/
def execPeComplete (s : State) : Out :=
  match s.cl.pe.job with
  | none => .next s
  | some j =>
    if j.fin ∧ j.at_ ≤ s.cyc then
      let s1 := s.updPe fun e => { e with job := none }
      let s2 := match j.sem with
        | some n => s1.engRelease n j.baddr
        | none => s1
      .next (if j.traps then s2.takeFault (mTrap .pairSaturate j.baddr) else s2)
    else .next s

/-! Issue (R245, R264). -/

/-- A job issued in this cycle, with the registers it captures. -/
def State.peJob (s : State) (i : Instr) (xr at_ : Nat) : PeJob :=
  { op := i, xr := .ofNat 64 xr, cfg := s.cl.pe.cfg, issue := s.cyc, baddr := s.ctx.addr, at_ := at_ }

/-- R254: some map entry names an illegal descriptor. Errors in what it reads count for nothing (DESIGN CHOICE, log 110). -/
def State.mapBad (s : State) : Bool :=
  (List.range 256).any fun k =>
    (tabsOf (s.rdLE (s.pmem (0x18080 + 2 * k)) 2)).any fun t => !descOk (s.pdesc t)

/-- R251 for the boxes. -/
def PEng.boxBad (e : PEng) : Bool := (List.range 3).any fun a => e.cf a == 0 || bit (e.cf a) 31

def mis (v m : Nat) : Check := (v % m != 0, .misaligned, v)
/-- The end of a range lies beyond the data scratchpad. -/
def endsBeyond (e : Nat) : Check := (decide (e > 2 ^ 21), .spadRange, e - 1)

/-- The list header and its capacity (R264), whatever error it holds (DESIGN CHOICE, log 110). -/
def State.listEnd (s : State) : Nat :=
  s.cl.pe.cf 9 + 16 + 16 * s.rdLE (s.spad (s.cl.pe.cf 9)) 4

/-- The furthest cell that the home cells' stencils reach. -/
def farCell (grid per h0 nh : Nat) (half : Bool) : Nat :=
  (List.range nh).foldl (fun m x =>
    (List.range 27).foldl (fun m q =>
      if half && decide (q < 13) then m else Nat.max m ((neighbour grid per (h0 + x) q).getD 0)) (Nat.max m (h0 + x))) 0

def State.pcellChecks (s : State) (j : PeJob) (h0 nh : Nat) : List Check :=
  let e := s.cl.pe
  let (nx, ny, nz) := gridOf (e.cf 8)
  let cells := nx * ny * nz
  let inGrid := Nat.min nh (cells - h0)
  (if j.forces then [mis (e.cf 5) 32] else []) ++ [mis (e.cf 6) 16, mis (e.cf 7) 8]
  ++ (if j.list then [mis (e.cf 9) 16] else [])
  ++ [endsBeyond (e.cf 7 + 8 * (h0 + nh)), endsBeyond (e.cf 7 + 8 * farCell (e.cf 8) (e.cf 3) h0 inGrid j.half + 8)]
  ++ (if j.list then [endsBeyond s.listEnd] else [])
  ++ [(e.boxBad, .illegalCode, 0),
      ((bit (e.cf 3) 0 && decide (nx < 3)) || (bit (e.cf 3) 1 && decide (ny < 3)) || (bit (e.cf 3) 2 && decide (nz < 3)),
        .illegalCode, 0),
      (decide (h0 + nh > cells), .illegalCode, 0), (j.forces && s.mapBad, .illegalCode, 0)]

def State.psetsChecks (s : State) (j : PeJob) (a0 na b0 nb : Nat) : List Check :=
  let e := s.cl.pe
  (if j.forces then [mis (e.cf 5) 32] else []) ++ [mis (e.cf 6) 16]
  ++ (if j.list then [mis (e.cf 9) 16] else [])
  ++ [endsBeyond (e.cf 6 + 16 * (a0 + na)), endsBeyond (e.cf 6 + 16 * (b0 + nb))]
  ++ (if j.forces then [endsBeyond (e.cf 5 + 32 * (a0 + na)), endsBeyond (e.cf 5 + 32 * (b0 + nb))] else [])
  ++ (if j.list then [endsBeyond s.listEnd] else [])
  ++ [(e.boxBad, .illegalCode, 0), (j.forces && s.mapBad, .illegalCode, 0)]

/-- A PE operation starts: no other is in flight. -/
def startPe (l : List Check) (j : PeJob) (s : State) : Out :=
  whenReady s.cl.pe.job.isNone s (checked l s (.next (s.updPe fun e => { e with job := some j })))

/-- PCELL from home cell h0 (R262). -/
def issuePcell (i : Instr) (nh h0 : Nat) (s : State) : Out :=
  let j := { s.peJob i h0 (s.cyc + 20) with h := h0, level := 3 }
  startPe (s.pcellChecks j h0 nh) (s.seek j.fuel j) s

/-- PSETS from a0 and b0 (R262). -/
def issuePsets (i : Instr) (na nb b0 a0 : Nat) (s : State) : Out :=
  let j := { s.peJob i (a0 + b0 * 2 ^ 32) (s.cyc + 20) with level := 2 }
  startPe (s.psetsChecks j a0 na b0 nb) { j with j := (s.candsFrom j 0 0).headD 0 } s

/-- PCIDX (R263). -/
def issuePcidx (i : Instr) (n n0 : Nat) (s : State) : Out :=
  let e := s.cl.pe
  startPe [mis (e.cf 6) 16, mis (e.cf 10) 4, endsBeyond (e.cf 6 + 16 * (n0 + n)), endsBeyond (e.cf 10 + 4 * (n0 + n))]
    (s.peJob i n0 (s.cyc + 4)) s

/-- PACLR (R263). -/
def issuePaclr (i : Instr) (n n0 : Nat) (s : State) : Out :=
  let e := s.cl.pe
  startPe [mis (e.cf 5) 32, endsBeyond (e.cf 5 + 32 * (n0 + n))] (s.peJob i n0 (s.cyc + 4)) s

end Sys2Proof.Machine
end

