-- ==== Sys2Proof/Machine/MIssue.lean ====
section
/-! DEFINITION. Header bundles of the matrix stream (04 R113 to R116; 08 R220 to R222): current operations and their
addresses, the meaning of every sub-slot word, and one repetition as a bundle. -/
namespace Sys2Proof.Machine

/-- A 19-bit immediate or a register: the value of MCFG and PCFG (R228, R261). -/
def State.cfgSrc (s : State) (src : CfgSrc) : Word64 :=
  match src with
  | .reg r => s.reg r
  | .imm v => .ofInt 64 v.toInt

/-- Base and address of an operation at its first issue (R221). -/
def State.firstCur (s : State) (i : Instr) : MCur :=
  let at_ (base addr : Nat) : MCur := { op := some i, base := base, addr := addr }
  let r (x : BitVec 6) : Nat := (s.reg x).toNat
  match i with
  | .wcode xr _ _ | .wcvt xr _ _ _ _ | .wc4 xr _ _ _ | .nld xr _ _ _ _ _ | .cbld xr _ _ => at_ (r xr) 0
  | .mcfg _ src | .pcfg _ src => at_ (s.cfgSrc src).toNat 0
  | .pass _ _ _ xr _ => at_ (r xr) (r xr % 2 ^ 16)
  | .drn a _ _ _ _ _ _ => at_ 0 a.toNat
  | .drv _ _ c0 => at_ 0 c0.toNat
  | .aclr b => at_ 0 b.toNat
  | .rstat r0 _ _ _ => at_ 0 r0.toNat
  | .skw xr off | .skn xr off => at_ 0 (if off = 1 then 0 else r xr)
  | .pcell xr _ _ _ _ _ => at_ (r xr) (r xr % 2 ^ 18)
  | .psets xr _ _ _ _ _ _ | .pcidx xr _ | .paclr xr _ => at_ (r xr) (r xr % 2 ^ 32)
  | .midle _ => {}
  | _ => at_ 0 0

/-- Modulus of a stepped address; `none` for an operation without one (R221, R244). -/
def stepMod : Instr → Option Nat
  | .wcode .. | .wcvt .. | .wc4 .. | .nld .. => some (2 ^ 32)
  | .pass .. => some (2 ^ 16)
  | .drn .. => some 64
  | .drv .. => some 256
  | .aclr .. => some 16
  | .rstat .. => some 1024
  | .skw .. | .skn .. => some (2 ^ 21)
  | .pcell .. => some (2 ^ 18)
  | .psets .. | .pcidx .. | .paclr .. => some (2 ^ 32)
  | _ => none

/-- The current operation of sub-unit u stepped by its step register (R114, R218). -/
def MEng.stepCur (e : MEng) (u : Nat) : MCur :=
  let c := e.cur.get {} u
  match c.op with
  | none => c
  | some i =>
    match stepMod i with
    | none => c
    | some m => { c with addr := (((c.addr : Int) + (e.cf (4 + u)).toInt) % (m : Int)).toNat }

/-- One operation issued with its current address. The merge-word register of a DRN is read at each repetition (DESIGN CHOICE, log
37). -/
def issueOp (i : Instr) (c : MCur) (s : State) : Out :=
  match i with
  | .wcode _ rm1 pitch => issueWest 0 c.base c.addr (rm1.toNat + 1) pitch.toNat 0 0 0 s
  | .wcvt _ rm1 fmt rnd pitch => issueWest 1 c.base c.addr (rm1.toNat + 1) pitch.toNat fmt.toNat rnd.toNat 0 s
  | .wc4 _ rm1 cb pitch => issueWest 2 c.base c.addr (rm1.toNat + 1) pitch.toNat 0 0 cb.toNat s
  | .nld _ kind fmt _ _ nm1 => issueNld i kind.toNat fmt.toNat (nm1.toNat + 1) c.base c.addr s
  | .nswp => issueNswp s
  | .cbld _ cbk ssel => issueCbld cbk.toNat ssel.toNat c.base s
  | .mcfg sel _ => issueMcfg sel.toNat (.ofNat 32 c.base) s
  | .pass stop c0 c1 _ km1 => issuePass stop.toNat c0.toNat c1.toNat (km1.toNat + 1) c.addr s
  | .mwait xd => issueMwait xd s
  | .drn _ _ am pool xr _ _ => issueDrn i (am == 1) (pool == 1) (s.reg xr).toNat c.addr s
  | .drv k _ _ => issueDrv i k.toNat c.addr s
  | .aclr _ => issueAclr i c.addr s
  | .rstat _ nm1 c0 c1 => issueRstat i (nm1.toNat + 1) (c1.toNat - c0.toNat + 1) c.addr s
  | .skw _ off => issueSkep true (if off = 1 then none else some c.addr) s
  | .skn _ off => issueSkep false (if off = 1 then none else some c.addr) s
  | .pcfg sel _ => issuePcfg sel.toNat (.ofNat 64 c.base) s
  | .pcell _ _ _ _ _ nhm1 => issuePcell i (nhm1.toNat + 1) c.addr s
  | .psets _ _ _ _ _ nam1 nbm1 => issuePsets i (nam1.toNat + 1) (nbm1.toNat + 1) (c.base / 2 ^ 32) c.addr s
  | .pcidx _ nm1 => issuePcidx i (nm1.toNat + 1) c.addr s
  | .paclr _ nm1 => issuePaclr i (nm1.toNat + 1) c.addr s
  | _ => .next s

/-- A sub-unit's current operation set. -/
def State.setCur (s : State) (u : Nat) (c : MCur) : State := s.updMe fun e => { e with cur := e.cur.set {} u c }

/-- A word of sub-unit u: its operation becomes the current one and issues (R114). -/
def wordOp (u : SubUnit) (i : Instr) (s : State) : Out :=
  issueOp i (s.firstCur i) (s.setCur u.num (s.firstCur i))

/-- A sub-unit that no word mentions issues its current operation, stepped (R114). DEDUCED (log 39). -/
def stickyOp (u : Nat) (s : State) : Out :=
  let c := s.me.stepCur u
  match c.op with
  | none => .next s
  | some i => issueOp i c (s.setCur u c)

/-! The meanings of the sub-slot words. -/

/-- MIDLE: the sub-unit's current operation becomes IDLE (R222). -/
def execMidle (u : SubUnit) (s : State) : Out := .next (s.setCur u.num {})

/-- WCODE (R223). -/
def execWcode (xr : BitVec 6) (rm1 : BitVec 8) (pitch : BitVec 16) (s : State) : Out := wordOp .ew (.wcode xr rm1 pitch) s

/-- WCVT (R223). -/
def execWcvt (xr : BitVec 6) (rm1 : BitVec 8) (fmt : BitVec 4) (rnd : BitVec 2) (pitch : BitVec 16) (s : State) : Out :=
  wordOp .ew (.wcvt xr rm1 fmt rnd pitch) s

/-- WC4 (R223). -/
def execWc4 (xr : BitVec 6) (rm1 : BitVec 8) (cb : BitVec 2) (pitch : BitVec 16) (s : State) : Out :=
  wordOp .ew (.wc4 xr rm1 cb pitch) s

/-- NLD (R225). -/
def execNld (xr : BitVec 6) (kind : BitVec 2) (fmt : BitVec 4) (rnd cb : BitVec 2) (nm1 : BitVec 16) (s : State) : Out :=
  wordOp .en (.nld xr kind fmt rnd cb nm1) s

/-- NSWP (R226). -/
def execNswp (s : State) : Out := wordOp .en .nswp s

/-- CBLD (R227). -/
def execCbld (xr : BitVec 6) (cbk : BitVec 2) (ssel : BitVec 1) (s : State) : Out := wordOp .en (.cbld xr cbk ssel) s

/-- MCFG (R228). -/
def execMcfg (sel : BitVec 5) (src : CfgSrc) (s : State) : Out := wordOp .ar (.mcfg sel src) s

/-- PASS (R229). -/
def execPass (stop : BitVec 2) (c0 c1 : BitVec 8) (xr : BitVec 6) (km1 : BitVec 16) (s : State) : Out :=
  wordOp .ar (.pass stop c0 c1 xr km1) s

/-- MWAIT (R233). -/
def execMwait (xd : BitVec 6) (s : State) : Out := wordOp .ar (.mwait xd) s

/-- DRN (R235). -/
def execDrn (a : BitVec 6) (acc am pool : BitVec 1) (xr : BitVec 6) (se : BitVec 1) (sem : BitVec 4) (s : State) : Out :=
  wordOp .dr (.drn a acc am pool xr se sem) s

/-- DRV (R236). -/
def execDrv (k : BitVec 2) (half : BitVec 1) (c0 : BitVec 8) (s : State) : Out := wordOp .dr (.drv k half c0) s

/-- ACLR (R237). -/
def execAclr (b : BitVec 4) (s : State) : Out := wordOp .dr (.aclr b) s

/-- RSTAT (R239). -/
def execRstat (r0 : BitVec 10) (nm1 : BitVec 7) (c0 c1 : BitVec 8) (s : State) : Out := wordOp .rs (.rstat r0 nm1 c0 c1) s

/-- SKW (R240). -/
def execSkw (xr : BitVec 6) (off : BitVec 1) (s : State) : Out := wordOp .xa (.skw xr off) s

/-- SKN (R240). -/
def execSkn (xr : BitVec 6) (off : BitVec 1) (s : State) : Out := wordOp .xa (.skn xr off) s

/-- PCFG (R261). -/
def execPcfg (sel : BitVec 5) (src : CfgSrc) (s : State) : Out := wordOp .pe (.pcfg sel src) s

/-- PCELL (R262). -/
def execPcell (xr : BitVec 6) (st : BitVec 1) (out : BitVec 2) (se : BitVec 1) (sem : BitVec 4) (nhm1 : BitVec 18)
    (s : State) : Out := wordOp .pe (.pcell xr st out se sem nhm1) s

/-- PSETS (R262). -/
def execPsets (xr : BitVec 6) (st : BitVec 1) (out : BitVec 2) (se : BitVec 1) (sem : BitVec 4) (nam1 nbm1 : BitVec 12)
    (s : State) : Out := wordOp .pe (.psets xr st out se sem nam1 nbm1) s

/-- PCIDX (R263). -/
def execPcidx (xr : BitVec 6) (nm1 : BitVec 16) (s : State) : Out := wordOp .pe (.pcidx xr nm1) s

/-- PACLR (R263). -/
def execPaclr (xr : BitVec 6) (nm1 : BitVec 16) (s : State) : Out := wordOp .pe (.paclr xr nm1) s

/-- The meaning of a word: the same that exec gives it. -/
def wordMeaning : Instr → State → Out
  | .midle u, s => execMidle u s
  | .wcode xr rm1 pitch, s => execWcode xr rm1 pitch s
  | .wcvt xr rm1 fmt rnd pitch, s => execWcvt xr rm1 fmt rnd pitch s
  | .wc4 xr rm1 cb pitch, s => execWc4 xr rm1 cb pitch s
  | .nld xr kind fmt rnd cb nm1, s => execNld xr kind fmt rnd cb nm1 s
  | .nswp, s => execNswp s
  | .cbld xr cbk ssel, s => execCbld xr cbk ssel s
  | .mcfg sel src, s => execMcfg sel src s
  | .pass stop c0 c1 xr km1, s => execPass stop c0 c1 xr km1 s
  | .mwait xd, s => execMwait xd s
  | .drn a acc am pool xr se sem, s => execDrn a acc am pool xr se sem s
  | .drv k half c0, s => execDrv k half c0 s
  | .aclr b, s => execAclr b s
  | .rstat r0 nm1 c0 c1, s => execRstat r0 nm1 c0 c1 s
  | .skw xr off, s => execSkw xr off s
  | .skn xr off, s => execSkn xr off s
  | .pcfg sel src, s => execPcfg sel src s
  | .pcell xr st out se sem nhm1, s => execPcell xr st out se sem nhm1 s
  | .psets xr st out se sem nam1 nbm1, s => execPsets xr st out se sem nam1 nbm1 s
  | .pcidx xr nm1, s => execPcidx xr nm1 s
  | .paclr xr nm1, s => execPaclr xr nm1 s
  | _, s => .next s

/-! A repetition (R113 to R116, R220). -/

/-- The position and operation of the word for sub-unit u, in the first repetition (R113). -/
def State.wordFor (s : State) (chg : BitVec 7) (u : Nat) : Option (Nat × Instr) :=
  if s.strm.rep = 0 ∧ chg.toNat.testBit (6 - u) then
    s.ctx.words[((List.range u).filter fun x => chg.toNat.testBit (6 - x)).length]?
  else none

/-- What sub-unit u issues in this repetition. -/
def State.newCur (s : State) (chg : BitVec 7) (u : Nat) : MCur :=
  match s.wordFor chg u with
  | some (_, i) => s.firstCur i
  | none => s.me.stepCur u

/-- The part of a repetition that sub-unit u issues. -/
def State.headerPart (s : State) (chg : BitVec 7) (u : Nat) : Part :=
  match s.wordFor chg u with
  | some (p, i) => { pos := p, ins := i, run := wordMeaning i }
  | none => { pos := 0, ins := (s.me.stepCur u).op.getD .nop, run := stickyOp u }

/-- MWAIT, whose result no other sub-unit reads in the repetition that issues it (R233, R134). -/
def Part.joins (p : Part) : Bool :=
  match p.ins with
  | .mwait _ => true
  | _ => false

/-- The parts of a repetition, in the order of R114, MWAIT's write of its register last. -/
def State.headerParts (s : State) (chg : BitVec 7) : List Part :=
  let l := (List.range 7).map (s.headerPart chg)
  l.filter (fun p => !p.joins) ++ l.filter (·.joins)

/-- Two accesses to one accumulator bank in the repetition (R116). -/
def State.bankClash (s : State) (chg : BitVec 7) : Bool :=
  let l := (List.range 7).flatMap fun u =>
    match (s.newCur chg u).op with
    | some i => banksOf i (s.newCur chg u).addr
    | none => []
  !decide l.Nodup

/-- Causes in the order of R243: stages, then the sub-units in order. -/
def rankM (_ : Instr) (t : Trap) : Nat := Nat.min 2 (rank163 t.cause)

/-- The end of a repetition: configuration writes and bindings take effect (R220, R246). -/
def State.commitCfg (s : State) : State :=
  let e := s.cl.me
  let e1 := e.cfgP.foldl (fun (x : MEng) w => x.setCf w.1 w.2) e
  let e2 := e.bindP.foldl (fun (x : MEng) b => if b.1 then { x with skw := b.2 } else { x with skn := b.2 }) e1
  let pe := e.pcfgP.foldl (fun (x : PEng) w => x.setCf w.1 w.2) s.cl.pe
  { s with cl := { s.cl with me := { e2 with cfgP := [], pcfgP := [], bindP := [] }, pe := pe } }

/-- MHDR: one repetition of the header bundle: every sub-unit's current operation issues, or none (R113 to R116). -/
def execMhdr (chg : BitVec 7) (rep : BitVec 12) (s : State) : Out :=
  if s.bankClash chg then raise .illegalBundle s
  else
    match runParts rankM (s.headerParts chg) { s with ctx := { s.ctx with wait := false } } none none with
    | .done s1 =>
      .next (s1.commitCfg.updStrm fun t => { t with rep := if t.rep < rep.toNat then t.rep + 1 else 0 })
    | r => r.answer s

/-! Resources (R125, R220, R241, R245). -/

/-- What a header word reads and writes. -/
def usesM : Instr → Uses
  | .wcode xr _ _ | .wcvt xr _ _ _ _ | .wc4 xr _ _ _ | .pcidx xr _ | .paclr xr _ => { reads := resReg .m xr }
  | .nld xr _ _ _ _ _ => { reads := resReg .m xr ++ [0, 12, 15, 16, 17].map resCfg }
  | .cbld xr _ ssel => { reads := resReg .m xr ++ [resCfg 0, resCfg (11 + ssel.toNat)] }
  | .mcfg sel src => { reads := srcReads src, writes := [(resCfg sel.toNat, 0)] }
  | .pcfg sel src => { reads := srcReads src, writes := [(resPcfg sel.toNat, 0)] }
  | .pass _ _ _ xr _ => { reads := resReg .m xr ++ [0, 1, 2, 3, 11, 13, 14, 16, 17].map resCfg }
  | .mwait xd => { writes := lat 1 (resReg .m xd) }
  | .drn _ _ am _ xr se sem =>
    { reads := if am = 1 then resReg .m xr else [], sems := if se = 1 then [sem.toNat] else [] }
  | .skw xr off | .skn xr off => { reads := if off = 1 then [] else resReg .m xr }
  | .pcell xr _ _ se sem _ => { reads := resReg .m xr, sems := if se = 1 then [sem.toNat] else [] }
  | .psets xr _ _ se sem _ _ => { reads := resReg .m xr, sems := if se = 1 then [sem.toNat] else [] }
  | i => usesC .m i
where srcReads : CfgSrc → List Nat
  | .reg r => resReg .m r
  | .imm _ => []

end Sys2Proof.Machine
end

