-- ==== Sys2Proof/Machine/Vector.lean ====
section
/-! DEFINITION. The vector engine's registers, lane enables, landing results, and the mould of the element-wise slots
(06 R164 to R178). -/
namespace Sys2Proof.Machine

/-! Registers. -/

/-- Phys(n) (R166). -/
def physOf (rpos n : Nat) : Nat := if n < 32 then n else 32 + (n + 32 - rpos % 32) % 32

def State.phys (s : State) (n : Nat) : Nat := physOf s.cl.ve.rpos.toNat n

/-- Where lane l of physical register n of group g is held. -/
def vkey (g n l : Nat) : Nat := (g * 64 + n) * 16 + l

/-- Lane l of the register named n, in group g. -/
def State.vlane (s : State) (g n l : Nat) : Nat := (s.cl.ve.v.get 0 (vkey g (s.phys n) l)).toNat

def State.maskOf (s : State) (g j : Nat) : Nat := (s.cl.ve.m.get 0xFFFF (g * 8 + j)).toNat
def State.qOf (s : State) (g : Nat) : Nat := (s.cl.ve.q.get 0xFF g).toNat
def State.baseOf (s : State) (g j : Nat) : Nat := (s.cl.ve.b.get 0 (g * 16 + j)).toNat

/-! Enables (R118, R167). -/

def State.groupOn (s : State) (g : Nat) : Bool := s.ctx.gen.toNat.testBit g

/-- The slot acts in lane l of group g. -/
def State.laneOn (s : State) (g l : Nat) : Bool :=
  let sl := s.ctx.slot
  s.groupOn g && (sl.mu == 0 ||
    (((s.maskOf g sl.ms.toNat).testBit l != (sl.mi == 1)) && (s.qOf g).testBit sl.ms.toNat))

/-- Engine lanes 16g + l in ascending order. -/
def engineLanes : List (Nat × Nat) := (List.range 128).map fun e => (e / 16, e % 16)

def State.lanes (s : State) : List (Nat × Nat) := engineLanes.filter fun x => s.laneOn x.1 x.2
def State.groups (s : State) : List Nat := (List.range 8).filter s.groupOn

/-! Landing (R173 to R176). -/

/-- Results of the issue in progress, visible from cycle t + n. -/
def State.pendAdd (s : State) (n : Nat) (l : List (VDest × Word32 × BitVec 6)) : State :=
  { s with cl := { s.cl with ve := { s.cl.ve with
      pend := s.cl.ve.pend ++ l.map fun x => { dest := x.1, val := x.2.1, flags := x.2.2, due := s.cyc + n } } } }

/-- One result written. -/
def VEng.land (ve : VEng) (p : VPend) : VEng :=
  match p.dest with
  | .lane g n l => { ve with v := ve.v.set 0 (vkey g n l) p.val }
  | .mask g j l =>
    let m := (ve.m.get 0xFFFF (g * 8 + j)).toNat
    let b : Nat := if p.val = 0 then 0 else 2 ^ l
    { ve with m := ve.m.set 0xFFFF (g * 8 + j) (.ofNat 16 (m - (if m.testBit l then 2 ^ l else 0) + b)) }
  | .q g => { ve with q := ve.q.set 0xFF g (p.val.setWidth 8) }
  | .qin g =>
    { ve with qin := if p.val = 0 then ve.qin &&& ~~~(BitVec.ofNat 8 (2 ^ g)) else ve.qin ||| BitVec.ofNat 8 (2 ^ g) }
  | .base g j => { ve with b := ve.b.set 0 (g * 16 + j) p.val }
  | .rpos => { ve with rpos := p.val.setWidth 5 }

/-- Every result whose cycle has come is written, the later-issued over the earlier (R174), and sets its flags (R168). -/
def Cluster.landAll (c : Cluster) : Cluster :=
  let now := c.ve.pend.filter fun p => decide (p.due ≤ c.taskcyc.toNat)
  let ve := now.foldl VEng.land { c.ve with pend := c.ve.pend.filter fun p => !decide (p.due ≤ c.taskcyc.toNat) }
  ({ c with ve := ve }).orV (now.foldl (fun (f : BitVec 6) (p : VPend) => f ||| p.flags) 0)

/-! Element-wise operations (R165, R178). -/

/-- Element width of FMT 0 to 5 (R119). -/
def elemWidth (fmt : Nat) : Nat :=
  match fmt with
  | 1 => 16 | 2 => 8 | 3 => 4 | 5 => 16 | _ => 32

/-- Pick(code, k) with E elements (R165). -/
def pick (code e k : Nat) : Nat :=
  match code with
  | 0 => k
  | 1 => 0
  | 2 => e - 1
  | _ => e - 1 - k

/-- Element k of a lane. -/
def elemOf (w x k : Nat) : Nat := x / 2 ^ (w * k) % 2 ^ w

/-- A lane from its elements, element k at bit w·k. -/
def joinElems (w : Nat) (f : Nat → Nat) : Nat → Nat
  | 0 => 0
  | n + 1 => joinElems w f n + f n % 2 ^ w * 2 ^ (w * n)

def orFlags (f : Nat → BitVec 6) : Nat → BitVec 6
  | 0 => 0
  | n + 1 => orFlags f n ||| f n

/-- A value and the VSTAT flags it raises. -/
abbrev VRes := Nat × BitVec 6

/-- A result in every lane where the slot acts. -/
def State.landLanes (s : State) (n : Nat) (f : Nat → Nat → VRes) : State :=
  let d := s.phys s.ctx.slot.vd.toNat
  s.pendAdd n (s.lanes.map fun x => let r := f x.1 x.2; (.lane x.1 d x.2, .ofNat 32 r.1, r.2))

/-- Sources of the slot in one lane, whole. DEDUCED (log 16). -/
def State.srcA (s : State) (g l : Nat) : Nat := s.vlane g s.ctx.slot.va.toNat l
def State.srcB (s : State) (g l : Nat) : Nat := s.vlane g s.ctx.slot.vb.toNat l
def State.srcC (s : State) (g l : Nat) : Nat := s.vlane g s.ctx.slot.vc.toNat l

/-- The common mould of R178: F on the picked elements of width w; `F k a b c` gives element k. -/
def vElemK (n : Nat) (f : (g l k a b c : Nat) → VRes) (s : State) : Out :=
  let sl := s.ctx.slot
  let w := elemWidth sl.fmt.toNat
  let e := 32 / w
  .next (s.landLanes n fun g l =>
    let r (k : Nat) : VRes :=
      f g l k (elemOf w (s.srcA g l) (pick sl.swa.toNat e k)) (elemOf w (s.srcB g l) (pick sl.swb.toNat e k))
        (elemOf w (s.srcC g l) (pick sl.swc.toNat e k))
    (joinElems w (fun k => (r k).1) e, orFlags (fun k => (r k).2) e))

def vElem (n : Nat) (f : (a b c : Nat) → VRes) (s : State) : Out := vElemK n (fun _ _ _ a b c => f a b c) s

/-- Width, rounding and immediate of the slot being issued. -/
def State.ew (s : State) : Nat := elemWidth s.ctx.slot.fmt.toNat
def State.rnd (s : State) : RMode := RMode.ofBits s.ctx.slot.rnd.toNat
def State.satOn (s : State) : Bool := s.ctx.slot.sat == 1
def State.immN (s : State) : Nat := s.ctx.slot.imm.toNat

/-- An exact integer narrowed to the element (R50): a change by saturation sets SAT. -/
def narrowRes (signed sat : Bool) (w : Nat) (x : Int) : VRes :=
  let r := narrowInt signed sat w x
  (r.1, if r.2 then 32 else 0)

/-- A floating-point result as a value with VSTAT flags. -/
def fres (r : FRes) : VRes := (r.bits, flags6 false r.flags)

/-- The destination format of FMT 4 and 5, and an element widened to F32 (R58). -/
def fmtBits (fmt : Nat) : Nat := if fmt = 5 then 7 else 23
def widen (fmt x : Nat) : Nat := if fmt = 5 then widenBF x else x

end Sys2Proof.Machine
end

