-- ==== Sys2Proof/Machine/VCtl.lean ====
section
/-! DEFINITION. The VC slot (07 R208 to R216). -/
namespace Sys2Proof.Machine

/-- VEND: ends the V stream (R216). -/
def execVend (s : State) : Out := .next s.ends

/-- VBR: PC := (A + offset) mod 2^17 (R211, R213). -/
def execVbr (off : BitVec 17) (s : State) : Out := .next (s.branchRel (sx off))

/-- The condition of VBRM over the enabled groups (R213). -/
def State.maskCond (s : State) (j cnd : Nat) : Bool :=
  match cnd with
  | 0 => s.groups.any fun g => s.maskOf g j != 0
  | 1 => s.groups.all fun g => s.maskOf g j == 0xFFFF
  | _ => s.groups.all fun g => s.maskOf g j == 0

/-- VBRM (R213). -/
def execVbrm (j : BitVec 3) (cnd : BitVec 2) (off : BitVec 13) (s : State) : Out :=
  .next (if s.maskCond j.toNat cnd.toNat then s.branchRel (sx off) else s)

/-- VLOOP: R139 with n = 1 (R212). -/
def execVloop (l : BitVec 1) (src : VLoopSrc) (e : BitVec 8) (s : State) : Out :=
  loopOp l.toNat e.toNat
    (match src with
     | .imm n => n.toNat
     | .kreg n => (s.kreg n.toNat).toNat % 2 ^ 32) s

/-- VLWR (R212). -/
def execVlwr (reg : BitVec 3) (k : BitVec 5) (s : State) : Out := lwrOp reg.toNat (s.kreg k.toNat).toNat s

/-- VSEMP (R214). -/
def execVsemp (sem : BitVec 4) (n : BitVec 8) (s : State) : Out := semRelease sem.toNat n.toNat s

/-- VSEMW (R214). -/
def execVsemw (sem : BitVec 4) (n : BitVec 8) (s : State) : Out := semAcquire sem.toNat n.toNat s

/-- VGATE (R214). -/
def execVgate (cls : BitVec 3) (obj : BitVec 5) (off : BitVec 10) (s : State) : Out :=
  gateOp cls.toNat obj.toNat off.toNat s

/-- VMARK: accesses are performed in issue order in this model (R214; log 6). -/
def execVmark (s : State) : Out := .next s

/-- A pending result targets a register of bank k: one that stood when the issue began, for the check is made before the
issue's slots act (R124, R209). -/
def State.bankPending (s : State) (k : Nat) : Bool :=
  (s.cl.ve.pend.take (s.ctx.seen.getD s.cl.ve.pend.length)).any fun p => match p.dest with
    | .lane _ n _ => n / 16 == k
    | _ => false

/-- BLEND: lends bank k (R208, R209). -/
def execBlend (k : BitVec 2) (s : State) : Out :=
  if s.cl.ve.lent.toNat.testBit k.toNat || s.bankPending k.toNat then raise .illegalBundle s
  else .next { s with cl := { s.cl with ve := { s.cl.ve with lent := s.cl.ve.lent ||| .ofNat 4 (2 ^ k.toNat) } } }

/-- An M operation that writes bank k, issued before cycle t, is incomplete. -/
def bankBusy (me : MEng) (k t : Nat) : Bool :=
  me.drs.any fun j => match j.op with
    | .drv b _ _ => decide (b.toNat = k) && decide (j.issue < t)
    | _ => false

/-- BRET: waits for the M writes of earlier cycles, then takes the bank back (R209). -/
def execBret (k : BitVec 2) (s : State) : Out :=
  if !s.cl.ve.lent.toNat.testBit k.toNat then raise .illegalBundle s
  else if bankBusy s.cl.me k.toNat s.cyc then .next s.waits
  else .next { s with cl := { s.cl with ve := { s.cl.ve with lent := s.cl.ve.lent &&& ~~~(BitVec.ofNat 4 (2 ^ k.toNat)) } } }

/-- The three registers of a row-statistics entry in every lane (R215). -/
def statLanes (s : State) (vd : Nat) (r : RsEntry) : List (VDest × Word32 × BitVec 6) :=
  engineLanes.flatMap fun x =>
    let row := 16 * x.1 + x.2
    let v (m : SMap Word32) : Word32 := if row < r.rows then m.get 0 row else 0
    [(.lane x.1 (s.phys vd) x.2, v r.mx, 0), (.lane x.1 (s.phys (vd + 1)) x.2, v r.sum, 0),
     (.lane x.1 (s.phys (vd + 2)) x.2, v r.ssq, 0)]

/-- A register's physical bank is lent (R210). -/
def State.lentReg (s : State) (n : Nat) : Bool := s.cl.ve.lent.toNat.testBit (s.phys n / 16)

/-- STATRX: the oldest reserved entry, once it is receivable (R215). -/
def execStatrx (vd : BitVec 6) (s : State) : Out :=
  if s.lentReg vd.toNat || s.lentReg (vd.toNat + 1) || s.lentReg (vd.toNat + 2) then raise .illegalBundle s
  else match s.cl.ve.rsq with
  | r :: t =>
    if r.ready then
      .next (({ s with cl := { s.cl with ve := { s.cl.ve with rsq := t } } }).pendAdd 2 (statLanes s vd.toNat r))
    else .next s.waits
  | [] => .next s.waits

/-- VBRK: BREAK with its code, or NOP once served (R216). -/
def execVbrk (code : BitVec 16) (s : State) : Out := trapOp .brk code s

end Sys2Proof.Machine
end

