-- ==== Sys2Proof/Machine/VArith.lean ====
section
/-! DEFINITION. The VA and VB slots (06 R181 to R188): one meaning for each slot operation. The fields of the slot are those of
the issue context. -/
namespace Sys2Proof.Machine

/-! Shared forms. -/

/-- An integer operation on signed or unsigned elements: exact, then narrowed (R178). -/
def vInt (n : Nat) (signed : Bool) (f : Int → Int → Int → Int) (s : State) : Out :=
  let w := s.ew
  let rd (x : Nat) : Int := if signed then toSigned w x else (x : Int)
  vElem n (fun a b c => narrowRes signed s.satOn w (f (rd a) (rd b) (rd c))) s

/-- An operation on bits: wrapped, no flag. -/
def vBits (n : Nat) (f : Nat → Nat → Nat → Nat) (s : State) : Out := vElem n (fun a b c => (f a b c, 0)) s

/-- A minimum or maximum of two readings of the elements. -/
def pickBy (p : Bool) (a b : Nat) : Nat := if p then a else b

/-- Shifts of a w-bit element. -/
def shlW (w a k : Nat) : Nat := a * 2 ^ k % 2 ^ w
def sraW (w a k : Nat) : Nat := ofInt w (toSigned w a / (2 ^ k : Nat))

/-- Conditions 0 to 5 on w-bit elements (R106, R181). -/
def condW (w cc a b : Nat) : Bool :=
  match cc with
  | 0 => a == b
  | 1 => a != b
  | 2 => decide (toSigned w a < toSigned w b)
  | 3 => decide (toSigned w b ≤ toSigned w a)
  | 4 => decide (a < b)
  | _ => decide (b ≤ a)

def allOnes (w : Nat) (p : Bool) : Nat := if p then 2 ^ w - 1 else 0

/-- A floating-point operation on widened elements (R182). -/
def vFloat (n : Nat) (f : (t a b c : Nat) → FRes) (s : State) : Out :=
  let fm := s.ctx.slot.fmt.toNat
  vElem n (fun a b c => fres (f (fmtBits fm) (widen fm a) (widen fm b) (widen fm c))) s

/-- A conversion of one 32-bit element (R183). DEDUCED (log 19). -/
def vConv (f : Nat → FRes) (s : State) : Out := vElem 4 (fun a _ _ => fres (f a)) s

/-- Tests of FCMP (R182). -/
def fcmpTest (cc : Nat) (o : FOrd) : Bool :=
  match cc with
  | 0 => o == .eq
  | 1 => o != .eq
  | 2 => o == .lt
  | 3 => o == .lt || o == .eq
  | _ => o == .un

/-! VA integer operations (R181). -/

/-- ADD (R181). -/
def execVaAdd (s : State) : Out := vInt 2 true (fun a b _ => a + b) s

/-- ADDU (R181). -/
def execAddu (s : State) : Out := vInt 2 false (fun a b _ => a + b) s

/-- SUB (R181). -/
def execVaSub (s : State) : Out := vInt 2 true (fun a b _ => a - b) s

/-- SUBU (R181). -/
def execSubu (s : State) : Out := vInt 2 false (fun a b _ => a - b) s

/-- MIN (R181). -/
def execVaMin (s : State) : Out := vBits 2 (fun a b _ => pickBy (decide (toSigned s.ew a ≤ toSigned s.ew b)) a b) s

/-- MINU (R181). -/
def execVaMinu (s : State) : Out := vBits 2 (fun a b _ => pickBy (decide (a ≤ b)) a b) s

/-- MAX (R181). -/
def execVaMax (s : State) : Out := vBits 2 (fun a b _ => pickBy (decide (toSigned s.ew b ≤ toSigned s.ew a)) a b) s

/-- MAXU (R181). -/
def execVaMaxu (s : State) : Out := vBits 2 (fun a b _ => pickBy (decide (b ≤ a)) a b) s

/-- ABS (R181). -/
def execAbs (s : State) : Out := vInt 2 true (fun a _ _ => (a.natAbs : Int)) s

/-- NEG (R181). -/
def execNeg (s : State) : Out := vInt 2 true (fun a _ _ => -a) s

/-- AND (R181). -/
def execVaAnd (s : State) : Out := vBits 2 (fun a b _ => Nat.land a b) s

/-- OR (R181). -/
def execVaOr (s : State) : Out := vBits 2 (fun a b _ => Nat.lor a b) s

/-- XOR (R181). -/
def execVaXor (s : State) : Out := vBits 2 (fun a b _ => Nat.xor a b) s

/-- ANDN: a without the bits of b (R181). -/
def execVaAndn (s : State) : Out := vBits 2 (fun a b _ => a - Nat.land a b) s

/-- SHL (R181). -/
def execVaShl (s : State) : Out := vBits 2 (fun a b _ => shlW s.ew a (b % s.ew)) s

/-- SHR (R181). -/
def execVaShr (s : State) : Out := vBits 2 (fun a b _ => a / 2 ^ (b % s.ew)) s

/-- SRA (R181). -/
def execVaSra (s : State) : Out := vBits 2 (fun a b _ => sraW s.ew a (b % s.ew)) s

/-- SHLI (R181). -/
def execVaShli (s : State) : Out := vBits 2 (fun a _ _ => shlW s.ew a (s.immN % 32 % s.ew)) s

/-- SHRI (R181). -/
def execVaShri (s : State) : Out := vBits 2 (fun a _ _ => a / 2 ^ (s.immN % 32 % s.ew)) s

/-- SRAI (R181). -/
def execVaSrai (s : State) : Out := vBits 2 (fun a _ _ => sraW s.ew a (s.immN % 32 % s.ew)) s

/-- ADDI (R181). -/
def execAddi (s : State) : Out := vInt 2 true (fun a _ _ => a + toSigned 7 s.immN) s

/-- MOVI (R181). -/
def execMovi (s : State) : Out := vBits 2 (fun _ _ _ => ofInt s.ew (toSigned 7 s.immN)) s

/-- CMP (R181). -/
def execVaCmp (s : State) : Out := vBits 2 (fun a b _ => allOnes s.ew (condW s.ew (s.immN % 8) a b)) s

/-- QSHR: s is not reduced (R181). -/
def execQshr (s : State) : Out := vInt 2 true (fun a _ _ => shiftRound a (s.immN % 32) s.rnd 0) s

/-- MOV (R181). -/
def execMov (s : State) : Out := vBits 2 (fun a _ _ => a) s

/-- SEL: tests bits (R181). -/
def execSel (s : State) : Out := vBits 2 (fun a b c => pickBy (c != 0) a b) s

/-! VA floating-point operations and conversions (R182, R183). -/

/-- FADD (R182). -/
def execFadd (s : State) : Out := vFloat 4 (fun t a b _ => fadd t s.rnd 0 s.satOn a b) s

/-- FSUB (R182). -/
def execFsub (s : State) : Out := vFloat 4 (fun t a b _ => fsub t s.rnd 0 s.satOn a b) s

/-- FMUL (R182). -/
def execVaFmul (s : State) : Out := vFloat 4 (fun t a b _ => fmul t s.rnd 0 s.satOn a b) s

/-- FMIN (R182). -/
def execFmin (s : State) : Out := vFloat 4 (fun t a b _ => fminmax t false a b) s

/-- FMAX (R182). -/
def execFmax (s : State) : Out := vFloat 4 (fun t a b _ => fminmax t true a b) s

/-- FABS: the sign bit cleared (R182). -/
def execFabs (s : State) : Out := vBits 2 (fun a _ _ => a % 2 ^ (s.ew - 1)) s

/-- FNEG: the sign bit inverted (R182). -/
def execFneg (s : State) : Out := vBits 2 (fun a _ _ => Nat.xor a (2 ^ (s.ew - 1))) s

/-- FCMP: a signalling operand raises NV (R182, R63). -/
def execFcmp (s : State) : Out :=
  let fm := s.ctx.slot.fmt.toNat
  vElem 4 (fun a b _ =>
    (allOnes s.ew (fcmpTest (s.immN % 8) (fcompare (widen fm a) (widen fm b))),
     flags6 false (cmpFlags (widen fm a) (widen fm b)))) s

/-- CVTIF (R183). -/
def execCvtif (s : State) : Out := vConv (fun a => fromFixed 23 s.rnd 0 false (toSigned 32 a) 0) s

/-- CVTUF (R183). -/
def execCvtuf (s : State) : Out := vConv (fun a => fromFixed 23 s.rnd 0 false (a : Int) 0) s

/-- CVTFI (R183). -/
def execCvtfi (s : State) : Out := vConv (fun a => toFixed true 32 0 s.rnd 0 a) s

/-- CVTFU (R183). -/
def execCvtfu (s : State) : Out := vConv (fun a => toFixed false 32 0 s.rnd 0 a) s

/-- CVTQF (R183). -/
def execCvtqf (s : State) : Out := vConv (fun a => fromFixed 23 s.rnd 0 false (toSigned 32 a) (s.immN % 32)) s

/-- CVTFQ (R183). -/
def execCvtfq (s : State) : Out := vConv (fun a => toFixed true 32 (s.immN % 32) s.rnd 0 a) s

/-! VA control operations (R184). -/

/-- MSET: mj[l] := (lane l of va ≠ 0) in each enabled lane (R184). -/
def execMset (s : State) : Out :=
  .next (s.pendAdd 1 (s.lanes.map fun x =>
    (.mask x.1 (s.immN % 8) x.2, .ofNat 32 (b2n (s.srcA x.1 x.2 != 0)), 0)))

/-- MGET: a mask expanded into lanes (R184). -/
def execMget (s : State) : Out :=
  .next (s.landLanes 2 fun g l => (allOnes 32 ((s.maskOf g (s.immN % 8)).testBit l), 0))

/-- QSET: stage predicates and QIN from lane 0 of va, in each enabled group (R184). DEDUCED (log 78). -/
def execQset (s : State) : Out :=
  .next (s.pendAdd 1 (s.groups.flatMap fun g =>
    let v := s.srcA g 0
    [(.q g, .ofNat 32 (v % 256), 0), (.qin g, .ofNat 32 (v / 256 % 2), 0)]))

/-- QGET: q7..q0 and QIN into each lane (R184). -/
def execQget (s : State) : Out :=
  .next (s.landLanes 2 fun g _ => (s.qOf g + 256 * b2n (s.cl.ve.qin.toNat.testBit g), 0))

/-- BWR: bj := lane 0 of va, in each enabled group (R184). -/
def execBwr (s : State) : Out :=
  .next (s.pendAdd 1 (s.groups.map fun g => (.base g (s.immN % 16), .ofNat 32 (s.srcA g 0), 0)))

/-- BRD: a base register into each lane (R184). -/
def execBrd (s : State) : Out := .next (s.landLanes 2 fun g _ => (s.baseOf g (s.immN % 16), 0))

/-- RPW: RPOS := value, if GEN ≠ 0 (R184). -/
def execRpw (s : State) : Out :=
  .next (if s.ctx.gen = 0 then s else s.pendAdd 1 [(.rpos, .ofNat 32 (s.immN % 32), 0)])

/-! VB operations (R185 to R188). -/

/-- MUL (R185). -/
def execVbMul (s : State) : Out := vInt 3 true (fun a b _ => a * b) s

/-- MULU (R185). -/
def execMulu (s : State) : Out := vInt 3 false (fun a b _ => a * b) s

/-- MULH: floor(a · b / 2^w), signed (R185). -/
def execVbMulh (s : State) : Out :=
  vBits 3 (fun a b _ => ofInt s.ew (toSigned s.ew a * toSigned s.ew b / (2 ^ s.ew : Nat))) s

/-- MULHU (R185). -/
def execVbMulhu (s : State) : Out := vBits 3 (fun a b _ => a * b / 2 ^ s.ew) s

/-- MAD (R185). -/
def execMad (s : State) : Out := vInt 3 true (fun a b c => a * b + c) s

/-- MADU (R185). -/
def execMadu (s : State) : Out := vInt 3 false (fun a b c => a * b + c) s

/-- MULQ (R185). -/
def execMulq (s : State) : Out := vInt 3 true (fun a b _ => shiftRound (a * b) (s.immN % 32) s.rnd 0) s

/-- MADQ: one rounding of a · b + c · 2^s (R185). -/
def execMadq (s : State) : Out :=
  vInt 3 true (fun a b c => shiftRound (a * b + c * (2 ^ (s.immN % 32) : Nat)) (s.immN % 32) s.rnd 0) s

/-- DOT and DOTU: c + Σ a_k · b_k, narrowed once to 32 bits; SWC is ignored (R186). -/
def vDot (signed : Bool) (s : State) : Out :=
  let sl := s.ctx.slot
  let w := s.ew
  let e := 32 / w
  let rd (v x : Nat) : Int := if signed then toSigned v x else (x : Int)
  .next (s.landLanes 3 fun g l =>
    narrowRes signed s.satOn 32 (rd 32 (s.srcC g l) + sumTo (fun k =>
      rd w (elemOf w (s.srcA g l) (pick sl.swa.toNat e k)) * rd w (elemOf w (s.srcB g l) (pick sl.swb.toNat e k))) e))

/-- DOT (R186). -/
def execDot (s : State) : Out := vDot true s

/-- DOTU (R186). -/
def execDotu (s : State) : Out := vDot false s

/-- FMA (R187). -/
def execFma (s : State) : Out := vFloat 4 (fun t a b c => ffma t s.rnd 0 s.satOn false false a b c) s

/-- FMS (R187). -/
def execFms (s : State) : Out := vFloat 4 (fun t a b c => ffma t s.rnd 0 s.satOn false true a b c) s

/-- FNMA (R187). -/
def execFnma (s : State) : Out := vFloat 4 (fun t a b c => ffma t s.rnd 0 s.satOn true false a b c) s

/-- FNMS (R187). -/
def execFnms (s : State) : Out := vFloat 4 (fun t a b c => ffma t s.rnd 0 s.satOn true true a b c) s

/-- FMUL (R187). -/
def execVbFmul (s : State) : Out := vFloat 4 (fun t a b _ => fmul t s.rnd 0 s.satOn a b) s

/-- FDOT2: c plus the TreeSum of two BF16 products, rounded once in the slot's mode (R188); a NaN of va or vb goes before one of
vc (R61). DEDUCED (log 17). SAT acts on the final rounding alone: products or a tree that overflow deliver their infinity
(DESIGN CHOICE, log 17). -/
def execFdot2 (s : State) : Out :=
  let sl := s.ctx.slot
  .next (s.landLanes 5 fun g l =>
    let el (sw x k : Nat) : Nat := widenBF (elemOf 16 x (pick sw 2 k))
    let p (k : Nat) : FRes := fmul 23 .rne 0 false (el sl.swa.toNat (s.srcA g l) k) (el sl.swb.toNat (s.srcB g l) k)
    let t := treeSum [(p 0).bits, (p 1).bits]
    let r := fadd 23 s.rnd 0 s.satOn t.bits (s.srcC g l)
    fres { bits := r.bits, flags := r.flags ||| t.flags ||| (p 0).flags ||| (p 1).flags })

end Sys2Proof.Machine
end

