-- ==== Sys2Proof/Machine/VMem.lean ====
section
/-! DEFINITION. The VL slot (07 R189 to R196): loads, stores and per-lane atomics of the data scratchpad. -/
namespace Sys2Proof.Machine

/-- A cause of a slot that names an engine lane (R190). -/
def raiseLane (c : Cause) (s : State) (lane faddr : Nat) : Out :=
  .next (s.trapped { s.trapOf c 0 faddr with lane := lane })

/-- ea of a group: bj + SignExtend(IMM) · scale, modulo 2^32 (R190, R191). -/
def State.vlEa (s : State) (scale g : Nat) : Nat :=
  ofInt 32 ((s.baseOf g (s.ctx.slot.vb.toNat % 16) : Int) + toSigned 7 s.immN * (scale : Int))

/-- The window that R190 checks, from ea: its first byte and its length. -/
abbrev Window := Nat → Nat × Nat

def winPlain (n : Nat) : Window := fun ea => (ea, n)
/-- The whole tile (R192). -/
def winTile : Window := fun ea => (ea - ea % 4096, 4096)

/-- Alignment and range in every enabled group (R190). -/
def vlCheck (scale : Nat) (aligned : Bool) (win : Window) (s : State) (f : Out) : Out :=
  match s.groups.find? fun g => aligned && s.vlEa scale g % 4 != 0 with
  | some g => raiseLane .misaligned s (16 * g) (s.vlEa scale g)
  | none =>
    match s.groups.find? fun g => decide ((win (s.vlEa scale g)).1 + (win (s.vlEa scale g)).2 > 2 ^ 21) with
    | some g => raiseLane .spadRange s (16 * g) (s.vlEa scale g)
    | none => f

/-- Where lane l of a group accesses, from ea. -/
abbrev LaneAddr := Nat → Nat → Nat

def addrPlain : LaneAddr := fun ea l => ea + 4 * l
def addrSame : LaneAddr := fun ea _ => ea
/-- Word (i, j) of the tile of ea (R192). -/
def tileWord (ea i j : Nat) : Nat := ea - ea % 4096 + 128 * (i % 32) + 4 * (j % 32)
/-- ROW + n and COL + n, with n wrapping in the tile. -/
def addrRow (n : Int) : LaneAddr := fun ea l =>
  tileWord ea (ofInt 5 ((ea / 128 % 32 : Nat) + n)) (ea / 4 % 32 + l)
def addrCol (n : Int) : LaneAddr := fun ea l =>
  tileWord ea (ea / 128 % 32 + l) (ofInt 5 ((ea / 4 % 32 : Nat) + n))

/-- The first enabled lane whose access meets an uncorrectable error (R387). DEDUCED (log 32). -/
def vlBad (bad : Nat → Nat → Option Nat) (s : State) (f : Out) : Out :=
  match s.lanes.find? fun x => (bad x.1 x.2).isSome with
  | some x => raiseLane .memUncorr s (16 * x.1 + x.2) ((bad x.1 x.2).getD 0 * 8)
  | none => f

/-- A load: every enabled lane receives its word after 5 cycles. -/
def vlLoad (scale : Nat) (aligned : Bool) (win : Window) (addr : LaneAddr) (s : State) : Out :=
  let at_ (g l : Nat) : Nat := s.spad (addr (s.vlEa scale g) l)
  vlCheck scale aligned win s (vlBad (fun g l => s.badRead (at_ g l) 4) s
    (.next (s.landLanes 5 fun g l => (s.rdLE (at_ g l) 4, 0))))

/-- Stores of lane words, in ascending engine lane (R194); `len` gives the bytes a lane writes. -/
def vlStore (scale : Nat) (aligned : Bool) (win : Window) (addr : LaneAddr) (len : Nat → Nat → Nat) (s : State) : Out :=
  let at_ (g l : Nat) : Nat := s.spad (addr (s.vlEa scale g) l)
  vlCheck scale aligned win s (vlBad (fun g l => s.badWrite (at_ g l) (len g l)) s
    (.next (s.lanes.foldl (fun t x => t.store (at_ x.1 x.2) (bytesOf (s.srcA x.1 x.2) (len x.1 x.2))) s)))

/-- VLD (R191). -/
def execVld (s : State) : Out := vlLoad 64 true (winPlain 64) addrPlain s

/-- VST (R191). -/
def execVst (s : State) : Out := vlStore 64 true (winPlain 64) addrPlain (fun _ _ => 4) s

/-- VLDS: every lane reads the same word (R191). -/
def execVlds (s : State) : Out := vlLoad 4 true (winPlain 4) addrSame s

/-- VLDR: ROW + n of a tile (R192). -/
def execVldr (s : State) : Out := vlLoad 0 true winTile (addrRow (toSigned 7 s.immN)) s

/-- VLDC: COL + n of a tile (R192). -/
def execVldc (s : State) : Out := vlLoad 0 true winTile (addrCol (toSigned 7 s.immN)) s

/-- VSTR (R192). -/
def execVstr (s : State) : Out := vlStore 0 true winTile (addrRow (toSigned 7 s.immN)) (fun _ _ => 4) s

/-- VSTC (R192). -/
def execVstc (s : State) : Out := vlStore 0 true winTile (addrCol (toSigned 7 s.immN)) (fun _ _ => 4) s

/-- VLDU: unaligned bytes (R193). -/
def execVldu (s : State) : Out := vlLoad 1 false (winPlain 64) addrPlain s

/-- VSTU: the bytes below nb = min(c0[6:0], 64) (R193). -/
def execVstu (s : State) : Out :=
  vlStore 1 false (winPlain 64) addrPlain
    (fun g l => Nat.min 4 (Nat.min (s.srcC g 0 % 128) 64 - 4 * l)) s

/-! Per-lane atomics (R195). -/

/-- The word that a lane of VAMO addresses. -/
def State.vamoEa (s : State) (g l : Nat) : Nat := (s.baseOf g (s.ctx.slot.vb.toNat % 16) + s.srcA g l) % 2 ^ 32

/-- One lane: old value, and memory with the new one. -/
def vamoLane (s : State) (op : Nat) (t : State × List (VDest × Word32 × BitVec 6)) (x : Nat × Nat) :
    State × List (VDest × Word32 × BitVec 6) :=
  let a := s.spad (s.vamoEa x.1 x.2)
  let old := t.1.rdLE a 4
  let new := amoNew op 32 old (s.srcC x.1 x.2) (s.vlane x.1 s.ctx.slot.vd.toNat x.2)
  (t.1.store a (bytesOf new 4), t.2 ++ [(.lane x.1 (s.phys s.ctx.slot.vd.toNat) x.2, .ofNat 32 old, 0)])

/-- VAMO: enabled lanes act in ascending engine lane, each seeing the lanes below it (R195). -/
def vamoOp (op : Nat) (s : State) : Out :=
  match s.lanes.find? fun x => s.vamoEa x.1 x.2 % 4 != 0 with
  | some x => raiseLane .misaligned s (16 * x.1 + x.2) (s.vamoEa x.1 x.2)
  | none =>
    match s.lanes.find? fun x => decide (s.vamoEa x.1 x.2 + 4 > 2 ^ 21) with
    | some x => raiseLane .spadRange s (16 * x.1 + x.2) (s.vamoEa x.1 x.2)
    | none =>
      vlBad (fun g l => s.badRead (s.spad (s.vamoEa g l)) 4) s
        (let r := s.lanes.foldl (vamoLane s op) (s, [])
         .next (r.1.pendAdd 9 r.2))

/-- VAMO.ADD (R195). -/
def execVamoAdd (s : State) : Out := vamoOp 0 s

/-- VAMO.AND (R195). -/
def execVamoAnd (s : State) : Out := vamoOp 1 s

/-- VAMO.OR (R195). -/
def execVamoOr (s : State) : Out := vamoOp 2 s

/-- VAMO.XOR (R195). -/
def execVamoXor (s : State) : Out := vamoOp 3 s

/-- VAMO.MIN (R195). -/
def execVamoMin (s : State) : Out := vamoOp 4 s

/-- VAMO.MAX (R195). -/
def execVamoMax (s : State) : Out := vamoOp 5 s

/-- VAMO.MINU (R195). -/
def execVamoMinu (s : State) : Out := vamoOp 6 s

/-- VAMO.MAXU (R195). -/
def execVamoMaxu (s : State) : Out := vamoOp 7 s

/-- VAMO.SWAP (R195). -/
def execVamoSwap (s : State) : Out := vamoOp 8 s

/-- VAMO.CAS (R195). -/
def execVamoCas (s : State) : Out := vamoOp 9 s

end Sys2Proof.Machine
end

