-- ==== Sys2Proof/Machine/VPerm.lean ====
section
/-! DEFINITION. The VX slot (07 R197 to R206): permutes, reductions, cross-group moves, special functions, random words and
conversions. -/
namespace Sys2Proof.Machine

/-! Random words (R198). -/

/-- The generator word of element k of lane l: index b13 · 2^32 + c(l) + k, stream id b14, tensor id b15. -/
def State.vxWord (s : State) (g l k : Nat) : Nat :=
  genWord s.cl.seedk (s.baseOf g 13 * 2 ^ 32 + s.srcC g l + k) (.ofNat 32 (s.baseOf g 14)) (.ofNat 32 (s.baseOf g 15))

/-- The word that a rounding uses: drawn only under SR. -/
def State.vxRound (s : State) (g l k : Nat) : Nat := if s.rnd = .sr then s.vxWord g l k else 0

/-! Single-lane and in-group operations (R199, R200). -/

/-- PERM: a lane of va or vb by c[4:0]. -/
def execPerm (s : State) : Out :=
  .next (s.landLanes 3 fun g l =>
    let x := s.srcC g l % 32
    (if x < 16 then s.srcA g x else s.srcB g (x - 16), 0))

/-- LROT (R199). -/
def execLrot (s : State) : Out := .next (s.landLanes 2 fun g l => (s.srcA g ((l + s.immN % 16) % 16), 0))

/-- The shift of FSHL and FSHR (R199). -/
def State.fshCount (s : State) (g l : Nat) : Nat := if bit s.immN 6 then s.immN % 64 else s.srcC g l % 64

/-- FSHL: ((t · 2^s) mod 2^64) div 2^32 with t = a · 2^32 + b (R199). -/
def execFshl (s : State) : Out :=
  .next (s.landLanes 2 fun g l => ((s.srcA g l * 2 ^ 32 + s.srcB g l) * 2 ^ s.fshCount g l % 2 ^ 64 / 2 ^ 32, 0))

/-- FSHR: (t div 2^s) mod 2^32 (R199). -/
def execFshr (s : State) : Out :=
  .next (s.landLanes 2 fun g l => ((s.srcA g l * 2 ^ 32 + s.srcB g l) / 2 ^ s.fshCount g l % 2 ^ 32, 0))

/-- PSUM: the sum over enabled lanes m ≤ l, narrowed as signed (R199). -/
def execPsum (s : State) : Out :=
  .next (s.landLanes 4 fun g l =>
    narrowRes true s.satOn 32 (sumTo (fun m => if s.laneOn g m then toSigned 32 (s.srcA g m) else 0) (l + 1)))

/-- CLZ: leading zeros, 32 for 0 (R199). -/
def execClz (s : State) : Out :=
  .next (s.landLanes 2 fun g l => let a := s.srcA g l; (if a = 0 then 32 else 31 - Nat.log2 a, 0))

/-- POPC (R199). -/
def execPopc (s : State) : Out := .next (s.landLanes 2 fun g l => (popcount (s.srcA g l) 32, 0))

/-- EXTE: element k of a, extended (R200). -/
def execExte (s : State) : Out :=
  let sl := s.ctx.slot
  let w := s.ew
  .next (s.landLanes 2 fun g l =>
    let x := elemOf w (s.srcA g l) (pick sl.swa.toNat (32 / w) (s.immN % 8))
    (if bit s.immN 3 then ofInt 32 (toSigned w x) else x, 0))

/-- INSE: c with element k replaced by a narrowed to w bits (R200). -/
def execInse (s : State) : Out :=
  let sl := s.ctx.slot
  let w := s.ew
  .next (s.landLanes 2 fun g l =>
    let sg := bit s.immN 3
    let n := narrowRes sg s.satOn w (if sg then toSigned 32 (s.srcA g l) else (s.srcA g l : Int))
    (joinElems w (fun j => if j = s.immN % 8 then n.1 else elemOf w (s.srcC g l) (pick sl.swc.toNat (32 / w) j)) (32 / w),
     n.2))

/-! Reductions (R201, R202). -/

/-- The reductions of R201: integer code, or the floating-point ones. -/
inductive RedOp | add | min | max | minu | maxu | and | or | xor | fadd | fmin | fmax
deriving DecidableEq, Repr

/-- Identity of disabled leaves. -/
def RedOp.ident : RedOp → Nat
  | .add => 0 | .min => 2 ^ 31 - 1 | .max => 2 ^ 31 | .minu => 2 ^ 32 - 1 | .maxu => 0
  | .and => 2 ^ 32 - 1 | .or => 0 | .xor => 0 | .fadd => 0 | .fmin => 0x7F800000 | .fmax => 0xFF800000

/-- A fold of a floating-point minimum or maximum over the leaves, lowest first (R63). -/
def foldMinMax (isMax : Bool) : List Nat → FRes → FRes
  | [], r => r
  | x :: t, r =>
    let q := fminmax 23 isMax r.bits x
    foldMinMax isMax t { bits := q.bits, flags := r.flags ||| q.flags }

/-- The leaves reduced (R201). -/
def RedOp.apply (op : RedOp) (sat : Bool) (l : List Nat) : VRes :=
  match op with
  | .add => narrowRes true sat 32 (l.foldl (fun (t : Int) x => t + toSigned 32 x) 0)
  | .min => (l.foldl (fun a b => if toSigned 32 a ≤ toSigned 32 b then a else b) op.ident, 0)
  | .max => (l.foldl (fun a b => if toSigned 32 b ≤ toSigned 32 a then a else b) op.ident, 0)
  | .minu => (l.foldl Nat.min op.ident, 0)
  | .maxu => (l.foldl Nat.max op.ident, 0)
  | .and => (l.foldl Nat.land op.ident, 0)
  | .or => (l.foldl Nat.lor op.ident, 0)
  | .xor => (l.foldl Nat.xor op.ident, 0)
  | .fadd => fres (treeSum l)
  | .fmin => fres (foldMinMax false (l.drop 1) { bits := l.headD op.ident })
  | .fmax => fres (foldMinMax true (l.drop 1) { bits := l.headD op.ident })

/-- RED.op: the sixteen lanes of each enabled group (R201). -/
def vRed (n : Nat) (op : RedOp) (s : State) : Out :=
  let leaf (g l : Nat) : Nat := if s.laneOn g l then s.srcA g l else op.ident
  .next (s.landLanes n fun g _ => op.apply s.satOn ((List.range 16).map (leaf g)))

/-- XRED.op: lane 0 of va in the eight groups (R202). -/
def vXred (n : Nat) (op : RedOp) (s : State) : Out :=
  let leaf (g : Nat) : Nat := if s.laneOn g 0 then s.srcA g 0 else op.ident
  .next (s.landLanes n fun _ _ => op.apply s.satOn ((List.range 8).map leaf))

/-- RED.ADD (R201). -/
def execRedAdd (s : State) : Out := vRed 4 .add s

/-- RED.MIN (R201). -/
def execRedMin (s : State) : Out := vRed 4 .min s

/-- RED.MAX (R201). -/
def execRedMax (s : State) : Out := vRed 4 .max s

/-- RED.MINU (R201). -/
def execRedMinu (s : State) : Out := vRed 4 .minu s

/-- RED.MAXU (R201). -/
def execRedMaxu (s : State) : Out := vRed 4 .maxu s

/-- RED.AND (R201). -/
def execRedAnd (s : State) : Out := vRed 4 .and s

/-- RED.OR (R201). -/
def execRedOr (s : State) : Out := vRed 4 .or s

/-- RED.XOR (R201). -/
def execRedXor (s : State) : Out := vRed 4 .xor s

/-- RED.FADD (R201). -/
def execRedFadd (s : State) : Out := vRed 6 .fadd s

/-- RED.FMIN (R201). -/
def execRedFmin (s : State) : Out := vRed 6 .fmin s

/-- RED.FMAX (R201). -/
def execRedFmax (s : State) : Out := vRed 6 .fmax s

/-- XRED.ADD (R202). -/
def execXredAdd (s : State) : Out := vXred 8 .add s

/-- XRED.MIN (R202). -/
def execXredMin (s : State) : Out := vXred 8 .min s

/-- XRED.MAX (R202). -/
def execXredMax (s : State) : Out := vXred 8 .max s

/-- XRED.MINU (R202). -/
def execXredMinu (s : State) : Out := vXred 8 .minu s

/-- XRED.MAXU (R202). -/
def execXredMaxu (s : State) : Out := vXred 8 .maxu s

/-- XRED.AND (R202). -/
def execXredAnd (s : State) : Out := vXred 8 .and s

/-- XRED.OR (R202). -/
def execXredOr (s : State) : Out := vXred 8 .or s

/-- XRED.XOR (R202). -/
def execXredXor (s : State) : Out := vXred 8 .xor s

/-- XRED.FADD (R202). -/
def execXredFadd (s : State) : Out := vXred 10 .fadd s

/-- XRED.FMIN (R202). -/
def execXredFmin (s : State) : Out := vXred 10 .fmin s

/-- XRED.FMAX (R202). -/
def execXredFmax (s : State) : Out := vXred 10 .fmax s

/-! Cross-group moves (R203). -/

/-- XCOPY: the register of the group at distance d. -/
def execXcopy (s : State) : Out := .next (s.landLanes 6 fun g l => (s.srcA ((g + s.immN % 8) % 8) l, 0))

/-- XBC: the register of group d. -/
def execXbc (s : State) : Out := .next (s.landLanes 6 fun _ l => (s.srcA (s.immN % 8) l, 0))

/-! Special functions, random words, conversions (R204 to R206). -/

/-- A special function of each element (R204). -/
def vSpecial (fn : SpFn) (s : State) : Out :=
  let fm := s.ctx.slot.fmt.toNat
  vElemK 8 (fun g l k a _ _ => fres (spFn fn (fmtBits fm) s.rnd (s.vxRound g l k) s.satOn (widen fm a))) s

/-- EXP2 (R204). -/
def execExp2 (s : State) : Out := vSpecial .exp2 s

/-- LOG2 (R204). -/
def execLog2 (s : State) : Out := vSpecial .log2 s

/-- RCP (R204). -/
def execRcp (s : State) : Out := vSpecial .rcp s

/-- RSQRT (R204). -/
def execRsqrt (s : State) : Out := vSpecial .rsqrt s

/-- RAND: the generator word, or (w div 2^8) · 2^(−24) in F32 (R205). -/
def execRand (s : State) : Out :=
  .next (s.landLanes 6 fun g l =>
    let w := s.vxWord g l 0
    (if bit s.immN 0 then (roundTo 23 .rne 0 false false (w / 256) (-24)).bits else w, 0))

/-- CVTFB: a and b rounded to BF16, elements 0 and 1 (R206). -/
def execCvtfb (s : State) : Out :=
  .next (s.landLanes 4 fun g l =>
    let r0 := fnarrow 7 s.rnd (s.vxRound g l 0) s.satOn (s.srcA g l)
    let r1 := fnarrow 7 s.rnd (s.vxRound g l 1) s.satOn (s.srcB g l)
    fres { bits := r0.bits + 2 ^ 16 * r1.bits, flags := r0.flags ||| r1.flags })

/-- CVTBF: element k of a, widened (R206). -/
def execCvtbf (s : State) : Out :=
  .next (s.landLanes 4 fun g l =>
    (widenBF (elemOf 16 (s.srcA g l) (pick s.ctx.slot.swa.toNat 2 (s.immN % 2))), 0))

/-- FCVTQ: to fixed point with n fraction bits, saturating (R206). -/
def execFcvtq (s : State) : Out :=
  .next (s.landLanes 4 fun g l => fres (toFixed true 32 (s.immN % 32) s.rnd (s.vxRound g l 0) (s.srcA g l)))

/-- CBD: entries of a codebook by two nibbles of a (R206, R66). -/
def execCbd (s : State) : Out :=
  .next (s.landLanes 4 fun g l =>
    let cb := s.cl.me.cb.get {} (s.immN / 4 % 4)
    (joinElems 16 (fun k => (cb.entries.get 0 (elemOf 4 (s.srcA g l) (2 * (s.immN % 4) + k))).toNat) 2, 0))

end Sys2Proof.Machine
end

