-- ==== Sys2Proof/Machine/VIssue.lean ====
section
/-! DEFINITION. One issue of an HCW (06 R170 to R172; 04 R118, R122, R124, R127; 07 R210, R217): decode of its slots, the
cross-slot checks, the slots, and the end of the issue. -/
namespace Sys2Proof.Machine

/-- Which registers a slot operation names: destination, va, vb, vc (R123, R127, R210). -/
def slotUses (i : Instr) (f : SlotF) : Bool × Bool × Bool × Bool :=
  let sr := f.rnd == 2
  match i with
  | .vaAdd | .addu | .vaSub | .subu | .vaMin | .vaMinu | .vaMax | .vaMaxu | .vaAnd | .vaOr | .vaXor | .vaAndn
  | .vaShl | .vaShr | .vaSra | .vaCmp | .fadd | .fsub | .vaFmul | .fmin | .fmax | .fcmp | .vbMul | .mulu
  | .vbMulh | .vbMulhu | .mulq | .vbFmul => (true, true, true, false)
  | .abs | .neg | .vaShli | .vaShri | .vaSrai | .addi | .qshr | .mov | .fabs | .fneg | .cvtif | .cvtuf
  | .cvtfi | .cvtfu | .cvtqf | .cvtfq | .lrot | .psum | .clz | .popc | .exte | .cvtbf | .cbd | .xcopy | .xbc
  | .redAdd | .redMin | .redMax | .redMinu | .redMaxu | .redAnd | .redOr | .redXor | .redFadd | .redFmin
  | .redFmax | .xredAdd | .xredMin | .xredMax | .xredMinu | .xredMaxu | .xredAnd | .xredOr | .xredXor
  | .xredFadd | .xredFmin | .xredFmax => (true, true, false, false)
  | .movi | .mget | .qget | .brd | .vld | .vlds | .vldr | .vldc | .vldu => (true, false, false, false)
  | .sel | .mad | .madu | .madq | .dot | .dotu | .fma | .fms | .fnma | .fnms | .fdot2 | .perm => (true, true, true, true)
  | .mset | .qset | .bwr | .vst | .vstr | .vstc => (false, true, false, false)
  | .inse | .vamoAdd | .vamoAnd | .vamoOr | .vamoXor | .vamoMin | .vamoMax | .vamoMinu | .vamoMaxu
  | .vamoSwap | .vamoCas => (true, true, false, true)
  | .exp2 | .log2 | .rcp | .rsqrt | .fcvtq => (true, true, false, sr)
  | .vstu => (false, true, false, true)
  | .fshl | .fshr => (true, true, true, !bit f.imm.toNat 6)
  | .rand => (true, false, false, true)
  | .cvtfb => (true, true, true, sr)
  | _ => (false, false, false, false)

/-- Destination and source register names of a slot. -/
def slotDest (i : Instr) (f : SlotF) : Option Nat := if (slotUses i f).1 then some f.vd.toNat else none
def slotNames (i : Instr) (f : SlotF) : List Nat :=
  let u := slotUses i f
  (if u.1 then [f.vd.toNat] else []) ++ (if u.2.1 then [f.va.toNat] else []) ++ (if u.2.2.1 then [f.vb.toNat] else [])
    ++ (if u.2.2.2 then [f.vc.toNat] else [])

/-- The meaning of a slot operation: the same that exec gives it. -/
def slotMeaning : Instr → State → Out
  | .vaAdd, s => execVaAdd s
  | .addu, s => execAddu s
  | .vaSub, s => execVaSub s
  | .subu, s => execSubu s
  | .vaMin, s => execVaMin s
  | .vaMinu, s => execVaMinu s
  | .vaMax, s => execVaMax s
  | .vaMaxu, s => execVaMaxu s
  | .abs, s => execAbs s
  | .neg, s => execNeg s
  | .vaAnd, s => execVaAnd s
  | .vaOr, s => execVaOr s
  | .vaXor, s => execVaXor s
  | .vaAndn, s => execVaAndn s
  | .vaShl, s => execVaShl s
  | .vaShr, s => execVaShr s
  | .vaSra, s => execVaSra s
  | .vaShli, s => execVaShli s
  | .vaShri, s => execVaShri s
  | .vaSrai, s => execVaSrai s
  | .addi, s => execAddi s
  | .movi, s => execMovi s
  | .vaCmp, s => execVaCmp s
  | .qshr, s => execQshr s
  | .mov, s => execMov s
  | .sel, s => execSel s
  | .fadd, s => execFadd s
  | .fsub, s => execFsub s
  | .vaFmul, s => execVaFmul s
  | .fmin, s => execFmin s
  | .fmax, s => execFmax s
  | .fabs, s => execFabs s
  | .fneg, s => execFneg s
  | .fcmp, s => execFcmp s
  | .cvtif, s => execCvtif s
  | .cvtuf, s => execCvtuf s
  | .cvtfi, s => execCvtfi s
  | .cvtfu, s => execCvtfu s
  | .cvtqf, s => execCvtqf s
  | .cvtfq, s => execCvtfq s
  | .mset, s => execMset s
  | .mget, s => execMget s
  | .qset, s => execQset s
  | .qget, s => execQget s
  | .bwr, s => execBwr s
  | .brd, s => execBrd s
  | .rpw, s => execRpw s
  | .vbMul, s => execVbMul s
  | .mulu, s => execMulu s
  | .vbMulh, s => execVbMulh s
  | .vbMulhu, s => execVbMulhu s
  | .mad, s => execMad s
  | .madu, s => execMadu s
  | .mulq, s => execMulq s
  | .madq, s => execMadq s
  | .dot, s => execDot s
  | .dotu, s => execDotu s
  | .fma, s => execFma s
  | .fms, s => execFms s
  | .fnma, s => execFnma s
  | .fnms, s => execFnms s
  | .vbFmul, s => execVbFmul s
  | .fdot2, s => execFdot2 s
  | .vld, s => execVld s
  | .vst, s => execVst s
  | .vlds, s => execVlds s
  | .vldr, s => execVldr s
  | .vldc, s => execVldc s
  | .vstr, s => execVstr s
  | .vstc, s => execVstc s
  | .vldu, s => execVldu s
  | .vstu, s => execVstu s
  | .vamoAdd, s => execVamoAdd s
  | .vamoAnd, s => execVamoAnd s
  | .vamoOr, s => execVamoOr s
  | .vamoXor, s => execVamoXor s
  | .vamoMin, s => execVamoMin s
  | .vamoMax, s => execVamoMax s
  | .vamoMinu, s => execVamoMinu s
  | .vamoMaxu, s => execVamoMaxu s
  | .vamoSwap, s => execVamoSwap s
  | .vamoCas, s => execVamoCas s
  | .perm, s => execPerm s
  | .lrot, s => execLrot s
  | .fshl, s => execFshl s
  | .fshr, s => execFshr s
  | .psum, s => execPsum s
  | .clz, s => execClz s
  | .popc, s => execPopc s
  | .exte, s => execExte s
  | .inse, s => execInse s
  | .redAdd, s => execRedAdd s
  | .redMin, s => execRedMin s
  | .redMax, s => execRedMax s
  | .redMinu, s => execRedMinu s
  | .redMaxu, s => execRedMaxu s
  | .redAnd, s => execRedAnd s
  | .redOr, s => execRedOr s
  | .redXor, s => execRedXor s
  | .redFadd, s => execRedFadd s
  | .redFmin, s => execRedFmin s
  | .redFmax, s => execRedFmax s
  | .xredAdd, s => execXredAdd s
  | .xredMin, s => execXredMin s
  | .xredMax, s => execXredMax s
  | .xredMinu, s => execXredMinu s
  | .xredMaxu, s => execXredMaxu s
  | .xredAnd, s => execXredAnd s
  | .xredOr, s => execXredOr s
  | .xredXor, s => execXredXor s
  | .xredFadd, s => execXredFadd s
  | .xredFmin, s => execXredFmin s
  | .xredFmax, s => execXredFmax s
  | .xcopy, s => execXcopy s
  | .xbc, s => execXbc s
  | .exp2, s => execExp2 s
  | .log2, s => execLog2 s
  | .rcp, s => execRcp s
  | .rsqrt, s => execRsqrt s
  | .rand, s => execRand s
  | .cvtfb, s => execCvtfb s
  | .cvtbf, s => execCvtbf s
  | .fcvtq, s => execFcvtq s
  | .cbd, s => execCbd s
  | .vend, s => execVend s
  | .vbr off, s => execVbr off s
  | .vbrm j c off, s => execVbrm j c off s
  | .vloop l n e, s => execVloop l n e s
  | .vlwr r k, s => execVlwr r k s
  | .vsemp m n, s => execVsemp m n s
  | .vsemw m n, s => execVsemw m n s
  | .vgate c n off, s => execVgate c n off s
  | .vmark, s => execVmark s
  | .blend k, s => execBlend k s
  | .bret k, s => execBret k s
  | .statrx vd, s => execStatrx vd s
  | .vbrk c, s => execVbrk c s
  | _, s => .next s

/-- A decoded slot: position, operation, fields. -/
structure Slot where
  pos : Nat
  ins : Instr
  f   : SlotF
deriving DecidableEq, Repr

/-- Stages 2: the slots of an issue, or the first that fails (R121, R122, R172). -/
def decodeSlots (h : Hcw) : Except Nat (List Slot) :=
  let one (p w : Nat) (rest : Except Nat (List Slot)) : Except Nat (List Slot) :=
    match (if h.gen = 0 then .ok none else decodeSlot p w) with
    | .error _ => .error p
    | .ok none => rest
    | .ok (some (i, f)) => rest.map fun l => { pos := p, ins := i, f := f } :: l
  one 0 h.va (one 1 h.vb (one 2 h.vl (one 3 h.vx
    (match decodeVC h.vc with
     | .error _ => .error 4
     | .ok none => .ok []
     | .ok (some i) => .ok [{ pos := 4, ins := i, f := {} }]))))

/-- Registers that a slot writes, a STATRX its three. -/
def slotDests (x : Slot) : List Nat :=
  match x.ins with
  | .statrx vd => [vd.toNat, vd.toNat + 1, vd.toNat + 2]
  | i => if x.pos = 4 then [] else (slotDest i x.f).toList

/-- The first slot that shares a destination with another (R127), or names a register of a lent bank (R210). -/
def State.crossBad (s : State) (l : List Slot) : Option Nat :=
  (l.find? fun x => (l.any fun y => x.pos != y.pos && (slotDests x).any fun d => (slotDests y).contains d)
      || (x.pos != 4 && (slotNames x.ins x.f).any s.lentReg)).map (·.pos)

/-- Rank of a cause: stages first, then R163, slots in order within a cause (R217). -/
def rankV (_ : Instr) (t : Trap) : Nat := rank163 t.cause

/-- End of an issue: rotation, then the shift of the stage predicates (R171). -/
def VEng.endIssue (ve : VEng) (rot stg : Bool) : VEng :=
  let ve := if rot then { ve with rpos := ve.rpos + 1 } else ve
  if stg then
    { ve with q := (List.range 8).foldl (fun (m : SMap (BitVec 8)) g =>
        m.set 0xFF g (.ofNat 8 ((ve.q.get 0xFF g).toNat * 2 + b2n (ve.qin.toNat.testBit g)))) ve.q }
  else ve

/-- Entry h of the HCW table (R118, R169). -/
def State.hcw (s : State) (h : Nat) : Hcw := splitHcw (s.rdLE (winBase s.cur + offHcw + 32 * h) 32)

/-- An error in the HCW that a V instruction is about to issue (R387). -/
def State.hcwBad (s : State) (h : Nat) : Option Nat := s.badRead (winBase s.cur + offHcw + 32 * h) 32

/-- The slots as parts of a bundle; each runs with its own fields in the context. -/
def slotPart (x : Slot) : Part :=
  { pos := x.pos, ins := x.ins
    run := fun s => slotMeaning x.ins { s with ctx := { s.ctx with slot := x.f } } }

/-- One issue of HCW h (R170): its slots act together, or the first cause cancels it (R26, R122); an HCW that cannot be read
raises MEM_UNCORR (R387). -/
def issueHcw (h : Nat) (rot stg : Bool) (s : State) : Out :=
  let w := s.hcw h
  let at_ (p : Nat) : State := { s with ctx := { s.ctx with pos := p } }
  match s.hcwBad h with
  | some g => raise .memUncorr s 1 (g * 8)
  | none =>
    match decodeSlots w with
    | .error p => raise .illegalOpcode (at_ p)
    | .ok l =>
      match s.crossBad l with
      | some p => raise .illegalBundle (at_ p)
      | none =>
        let s1 := { s with ctx := { s.ctx with gen := w.gen, wait := false, seen := some s.cl.ve.pend.length } }
        match runParts rankV (l.map slotPart) s1 none none with
        | .done s' => .next { s' with cl := { s'.cl with ve := s'.cl.ve.endIssue rot stg } }
        | r => r.answer s

/-- V_INSTRUCTION: one of its 1 + REP issues (R117, R170); the repetitions that follow are issued by the stream. -/
def execVInstruction (h : BitVec 9) (_r : BitVec 3) (o t : BitVec 1) (s : State) : Out :=
  issueHcw h.toNat (o == 1) (t == 1) s

end Sys2Proof.Machine
end

