-- ==== Sys2Proof/Machine/Fetch.lean ====
section
/-! DEFINITION. Fetch, the checks of a bundle, interlocks and the end of a bundle (04 R96 to R101, R107, R108, R124, R125;
05 R134, R135, R140, R157; 06 R170). -/
namespace Sys2Proof.Machine

/-! Fetch (R96, R97, R157). -/

/-- Window offset of the unit at address pc: half A first, or half B first under ISCTL.SWAPPED. -/
def fetchOff (swapped : Bool) (st : Str) (pc : Nat) : Nat :=
  ((if st = .v then 2 * pc else 4 * pc) + (if swapped then 0x20000 else 0)) % 0x40000

def State.fetchAddr (s : State) (st : Str) (pc : Nat) : Nat := winBase s.cur + fetchOff s.cl.swapped st pc

/-- The syllable at word address pc, as the instruction scratchpad holds it now: between a write there and the IFENCE, where R161 lets
a bundle execute old or new words, it is the new ones (DESIGN CHOICE, log 103). -/
def State.sylAt (s : State) (st : Str) (pc : Nat) : Nat := s.rdLE (s.fetchAddr st pc) 4

/-- Syllables that follow in the packet with BS = 0, at most n. -/
def State.sylsAfter (s : State) (st : Str) : Nat → Nat → List Nat
  | 0, _ => []
  | n + 1, pc =>
    let w := s.sylAt st pc
    if bit w 31 then [] else w :: State.sylsAfter s st n (pc + 1)

/-- The bundle at pc (R98): its first syllable and those with BS = 0 up to the end of the packet. -/
def State.bundleAt (s : State) (st : Str) (pc : Nat) : List Nat :=
  s.sylAt st pc :: s.sylsAfter st (15 - pc % 16) (pc + 1)

/-- A cause of the bundle about to issue. -/
def State.fetchTrap (s : State) (st : Str) (c : Cause) (pos : Nat := 0) : Trap :=
  { str := st, cause := c.code, pos := pos, baddr := (s.cl.str st).pc }

/-- The bundle's syllables, or the cause that stops the fetch: an error in a granule that holds one of them (R387), a
landing on BS = 0 (R107), or sequential flow that meets BS = 0 (R99). DEDUCED (log 15). -/
def State.fetch (s : State) (st : Str) : Except Trap (List Nat) :=
  let t := s.cl.str st
  let pc := t.pc.toNat
  let ws := s.bundleAt st pc
  match s.badRead (s.fetchAddr st pc) (4 * ws.length) with
  | some g => .error { s.fetchTrap st .memUncorr with detail := 1, faddr := g * 8 }
  | none =>
    if bit (ws.headD 0) 31 then .ok ws
    else match t.src with
    | some b => .error { s.fetchTrap st .illegalTarget with baddr := b }
    | none => .error (s.fetchTrap st .illegalBundle)

/-! Stage 3 (R108, R125). -/

def isBranch : Instr → Bool
  | .br _ | .bxi .. | .bxx .. | .btree _ | .brc .. | .jal .. | .jalr .. => true
  | _ => false

def isEnd : Instr → Bool
  | .endStream => true
  | _ => false

/-- Two branches, a branch with an END, or two ENDs (R108). -/
def flowClash (l : List Instr) : Bool :=
  decide ((l.filter fun i => isBranch i || isEnd i).length > 1)

/-- A resource that one syllable writes and another reads or writes, or a semaphore named twice (R125). -/
def usesClash : List Uses → Bool
  | [] => false
  | u :: l =>
    (l.any fun v =>
      (u.writes.any fun w => v.reads.contains w.1 || v.writes.any fun x => x.1 == w.1)
      || (v.writes.any fun w => u.reads.contains w.1)
      || u.sems.any v.sems.contains)
    || usesClash l

/-! Interlocks (R134). -/

/-- A resource's earlier result stands in the way of reading it. -/
def StreamSt.late (t : StreamSt) (cyc r : Nat) : Bool := decide ((t.ready.get (0, 0) r).1 > cyc)

/-- The syllable's operands are available, and no result of longer latency is to land in its destinations. -/
def StreamSt.clear (t : StreamSt) (cyc : Nat) (u : Uses) : Bool :=
  (u.reads.all fun r => !t.late cyc r)
  && u.writes.all fun w => !(t.late cyc w.1 && decide ((t.ready.get (0, 0) w.1).2 > w.2))

/-- The guard field of a guarded syllable (R104). -/
def guardOf : Instr → BitVec 5
  | .add _ _ _ g | .sub _ _ _ g | .min _ _ _ g | .max _ _ _ g | .and _ _ _ g | .or _ _ _ g | .xor _ _ _ g
  | .andn _ _ _ g | .shl _ _ _ g | .shr _ _ _ g | .sra _ _ _ g | .mulh _ _ _ g | .mul _ _ _ g | .mulhu _ _ _ g
  | .minu _ _ _ g | .maxu _ _ _ g | .andi _ _ _ g | .ori _ _ _ g | .xori _ _ _ g | .muli _ _ _ g | .shli _ _ _ g
  | .shri _ _ _ g | .srai _ _ _ g | .mini _ _ _ g | .maxi _ _ _ g | .minui _ _ _ g | .maxui _ _ _ g
  | .subfi _ _ _ g | .cmp _ _ _ _ g | .cmpi _ _ _ _ g | .pand _ _ _ g | .por _ _ _ g | .pxor _ _ _ g
  | .pandn _ _ _ g | .pnot _ _ g | .pget _ g | .pput _ g | .brc _ g | .jal _ g | .jalr _ _ g | .ldb _ _ _ g
  | .ldbu _ _ _ g | .ldh _ _ _ g | .ldhu _ _ _ g | .ldw _ _ _ g | .ldwu _ _ _ g | .ldd _ _ _ g | .stb _ _ _ g
  | .sth _ _ _ g | .stw _ _ _ g | .std _ _ _ g => g
  | _ => 0

/-- Results that a retired bundle has in flight: those of syllables whose guard held (R134, R135). -/
def StreamSt.mark (t : StreamSt) (cyc : Nat) (l : List (Nat × Nat)) : StreamSt :=
  { t with ready := l.foldl (fun m w => if w.2 = 0 then m else m.set (0, 0) w.1 (cyc + w.2, w.2)) t.ready }

/-! The end of a bundle. -/

/-- The loop-end event of one level (R140): its registers after it, and the back-edge. -/
def LoopLevel.loopEnd (x : LoopLevel) : LoopLevel × Option (BitVec 17) :=
  let cnt := x.plc.getD x.lc
  let ls := x.pls.getD x.ls
  let le := x.ple.getD x.le
  if 1 < cnt.toNat then ({ lc := cnt - 1, ls := ls, le := le }, some ls) else ({ lc := 0, ls := ls, le := le }, none)

def LoopLevel.ends (x : LoopLevel) (seq : BitVec 17) : Bool := x.lc != 0 && x.le == seq

/-- Sequential flow to `seq`, with the loop-end events of level 1, then level 0 (R140). -/
def StreamSt.flow (t : StreamSt) (addr seq : BitVec 17) : StreamSt :=
  let l0 (t : StreamSt) : StreamSt :=
    if t.l0.ends seq then
      match t.l0.loopEnd with
      | (x, some b) => { t with l0 := x, pc := b, src := some addr }
      | (x, none) => { t with l0 := x, pc := seq }
    else { t with pc := seq }
  if t.l1.ends seq then
    match t.l1.loopEnd with
    | (x, some b) => { t with l1 := x, pc := b, src := some addr }
    | (x, none) => l0 { t with l1 := x }
  else l0 t

/-- A bundle of the context's stream retires; `more` says that its next repetition follows. A taken transfer leaves one
empty cycle in C, M and X (R134). -/
def State.retire (s : State) (more : Bool) : State :=
  let addr := s.ctx.addr
  s.updStrm fun t =>
    let t := { t with wait := none, src := none, served := false }
    if s.ctx.fin then { t with ended := true, rep := 0, pc := s.seqPc }
    else match s.ctx.next with
    | some a =>
      { t with pc := a, src := if s.ctx.str = .v then none else some addr, rep := 0
               bubble := if s.ctx.str = .v then 0 else s.cyc + 2 }
    | none =>
      if more then { t with bubble := 0 }
      else { t.flow addr s.seqPc with rep := 0, bubble := 0 }

/-- The stream may try to issue: not ended, past its start delay (R24) and any empty cycle. -/
def StreamSt.live (t : StreamSt) (cyc : Nat) : Bool :=
  !t.ended && decide (t.delay.toNat ≤ cyc) && decide (t.bubble ≤ cyc)

/-! What stands at a stream's pc. -/

/-- A bundle taken apart: its length, the syllables that are its parts, and the sub-slot words of an M header. -/
structure Bun where
  len   : Nat
  parts : List (Nat × Instr)
  words : List (Nat × Instr) := []
deriving DecidableEq, Repr

/-- Fetch and stages 1 and 2 of R124. -/
def State.decoded (s : State) (st : Str) : Except Trap Bun :=
  match st with
  | .v =>
    let a := s.fetchAddr .v s.cl.v.pc.toNat
    match s.badRead a 2 with
    | some g => .error { s.fetchTrap .v .memUncorr with detail := 1, faddr := g * 8 }
    | none =>
      match decodeV (s.rdLE a 2) with
      | some i => .ok { len := 1, parts := [(5, i)] }
      | none => .error (s.fetchTrap .v .illegalOpcode 5)
  | st =>
    match s.fetch st with
    | .error t => .error t
    | .ok ws =>
      match decodeBundle st ws with
      | .error (.opcode, p) => .error (s.fetchTrap st .illegalOpcode p)
      | .error (.bundle, p) => .error (s.fetchTrap st .illegalBundle p)
      | .ok ((p, .mhdr chg rep) :: l) => .ok { len := ws.length, parts := [(p, .mhdr chg rep)], words := l }
      | .ok l => .ok { len := ws.length, parts := l }

end Sys2Proof.Machine
end

