-- ==== Sys2Proof/Machine/Events.lean ====
section
/-! DEFINITION. Events of a cluster's own clock: results that land (06 R173) and gates whose target cycle has come (05 R144).
The cluster's turn does both as part of a logical cycle; each is here as the step that the opcode table lists. -/
namespace Sys2Proof.Machine

/-- RESULT_LAND (R168, R173, R174): the vector results due by the present cycle become visible and set their flags. -/
def execResultLand (s : State) : Out := .next { s with cl := s.cl.landAll }

/-- The gates of the bundle at a stream's pc: position, class, object, offset. -/
def State.gatesAt (s : State) (st : Str) : List (Nat × Nat × Nat × Nat) :=
  match s.decoded st with
  | .error _ => []
  | .ok b => b.parts.flatMap fun x => match x.2 with
    | .gate c n off => [(x.1, c.toNat, n.toNat, (immU off).toNat)]
    | .vInstruction h _ _ _ =>
      (match decodeVC (s.hcw h.toNat).vc with
       | .ok (some (.vgate c n off)) => [(4, c.toNat, n.toNat, off.toNat)]
       | _ => [])
    | _ => []

/-- What a gate meets in the present cycle: a cause, or an overrun; nothing where it waits or can retire. -/
def State.gateMeets (s : State) (st : Str) (g : Nat × Nat × Nat × Nat) : Option (Option Trap) :=
  match gateOp g.2.1 g.2.2.1 g.2.2.2 { s with ctx := { s.ctx with str := st, addr := (s.cl.str st).pc, pos := g.1, trap := none } } with
  | .next s1 =>
    (match s1.ctx.trap with
     | some t => some (some t)
     | none => if s1.cl.late then some none else none)
  | _ => none

/-- GATE_TARGET_CYCLE (R144): the stream's waiting gates from their target cycle on. A gate that is ready retires with its
bundle in the cluster's turn; one that is not raises its cause, or the cluster overruns (R35). DEDUCED (log 73). -/
def execGateTargetCycle (st : BitVec 2) (s : State) : Out :=
  let r := Str.ofNum st.toNat
  if (s.cl.str r).wait.isNone then .next s
  else match (s.gatesAt r).findSome? (s.gateMeets r) with
  | some (some t) => .next (s.takeFault t)
  | some none => .next { s with cl := { s.cl with frz := { s.cl.frz with overrun := true } } }
  | none => .next s

end Sys2Proof.Machine
end

