-- ==== Sys2Proof/Machine/HostIo.lean ====
section
/-! DEFINITION. The host and firmware at the control registers and the memory windows (01 R39; 06 R169; 09 R252; 11 R292,
R294; 18 R355 to R371; 19 R375, R380, R384, R391; 20 R400, R420 to R422; 22 R430, R431, R437; 24 R454). -/
namespace Sys2Proof.Machine

/-- Who writes a register: a task, the host through a port, or firmware. -/
structure Writer where
  who  : Nat
  port : Nat := 0
deriving DecidableEq, Repr

def Writer.fw (w : Writer) : Bool := w.who == 2
/-- The host or firmware. -/
def Writer.ctl (w : Writer) : Bool := w.who == 1 || w.who == 2

/-- SRCK and index of the unit that owns the register at offset o of die d's control blocks (R423). -/
def regUnit (d o : Nat) : Nat × Nat :=
  if 0x100000 ≤ o then (0, (o - 0x100000) / 0x1000)
  else if 0xC00 ≤ o ∧ o < 0x1000 then (0, (o - 0xC00) / 0x40)
  else if 0x500 ≤ o ∧ o < 0x580 then (2, (o - 0x500) / 0x20)
  else if 0x600 ≤ o ∧ o < 0x630 then (3, if d = 32 then 1 else 0)
  else (1, 0)

/-- A write to a register of die d that is ignored, recorded as an event (R423). DEDUCED (log 68). -/
def State.dropped (s : State) (w : Writer) (d off v len : Nat) : State :=
  s.ignored (regUnit d off).1 d (regUnit d off).2 (regSeen w.who d off) v len w.who w.port

/-- The low or the high 32 bits of a register replaced. -/
def half (old : Nat) (hi : Bool) (v : Nat) : Nat := if hi then old % 2 ^ 32 + v * 2 ^ 32 else old / 2 ^ 32 * 2 ^ 32 + v

/-! Queue registers (R355, R375, R422). -/

/-- QBASE, QCBASE and QXROOT are taken only while the queue holds nothing and owes nothing. -/
def State.writeQBase (s : State) (w : Writer) (d q rel v : Nat) : State :=
  let hi := rel % 8 == 4
  if ((s.die d).queue q).busy then s.dropped w d (0x10000 + 0x40 * q + rel) v 4
  else s.updQueue d q fun x =>
    if rel < 8 then { x with qbase := .ofNat 52 (half x.qbase.toNat hi v) }
    else if rel < 0x20 then { x with qcbase := .ofNat 52 (half x.qcbase.toNat hi v) }
    else { x with qxroot := .ofNat 40 (half (x.qxroot.toNat * 4096) hi v / 4096) }

/-- A 32-bit write to queue q at offset rel of its block. -/
def State.writeQueue (s : State) (w : Writer) (d q rel v : Nat) : Out :=
  match rel with
  | 0x08 => .next (s.queueControl d q v w.who w.port)
  | 0x0C => execDoorbell (.ofNat 6 d) (.ofNat 8 q) (.ofNat 16 v) s
  | 0x14 => .next (s.updQueue d q fun x =>
      { x with werr := x.werr && !bit v 2, terr := x.terr && !bit v 1, eerr := x.eerr && !bit v 0 })
  | 0x24 => .next (s.updQueue d q fun x => { x with qchead := .ofNat 16 v })
  | 0x30 => .next (s.updQueue d q fun x => { x with qivec := .ofNat 11 v })
  | r => .next (if r = 0 ∨ r = 4 ∨ r = 0x18 ∨ r = 0x1C ∨ r = 0x28 ∨ r = 0x2C then s.writeQBase w d q r v else s)

/-! Pre-emption blocks (R368, R384) and the locked save register (R371). -/

/-- A write to the fault-action register (R384). -/
def State.writeAction (s : State) (d n v : Nat) : Out :=
  let die := BitVec.ofNat 6 d
  let cl := BitVec.ofNat 4 n
  let many := decide (1 < b2n (bit v 0) + b2n (bit v 1) + b2n (bit v 4))
  if v ≥ 32 ∨ many ∨ !(s.cluster (clKey d n)).flt.valid then .next (s.ignoredAct d n v)
  else if bit v 0 then execResume die cl (bit v 3) (bit v 2) s
  else if bit v 1 then execAbort die cl s
  else if bit v 4 then execReplay die cl s
  else .next s

/-- RST: a restore is refused while the cluster holds a resident task (R368). -/
def State.askRestore (s : State) (d n : Nat) : State :=
  s.updPre (clKey d n) fun p =>
    if (s.cluster (clKey d n)).task.isSome then { p with out := 3 } else { p with rst := true, out := 0 }

/-- A firmware write to the pre-emption block of cluster n. -/
def State.writePreempt (s : State) (d n rel v : Nat) : Out :=
  let k := clKey d n
  match rel with
  | 0x00 =>
    match (if bit v 0 then execPreemptRequest (.ofNat 6 d) (.ofNat 4 n) s else .next s) with
    | .next s1 => .next (if bit v 1 then s1.askRestore d n else s1)
    | o => o
  | 0x08 => .next (s.updPre k fun p => { p with addr := .ofNat 52 (half p.addr.toNat false v) })
  | 0x0C => .next (s.updPre k fun p => { p with addr := .ofNat 52 (half p.addr.toNat true v) })
  | 0x10 => s.writeAction d n v
  | _ => .next s

/-- A write to the locked save register of a lead die. -/
def State.writeJobSave (s : State) (d v : Nat) : Out :=
  let s0 := s.updDie d fun x => { x with jslot := .ofNat 6 v }
  if bit v 8 then execJobSaveRequest (.ofNat 6 d) (.ofNat 6 v) s0
  else if bit v 9 then execJobResume (.ofNat 6 d) (.ofNat 6 v) s0
  else .next s0

/-! Invalidation (R380), checkpoints (R391). -/

/-- A write of the invalidation control word: GO while one is in progress is ignored and recorded, GO of KIND 3 does nothing. -/
def State.writeInval (s : State) (w : Writer) (d v : Nat) : Out :=
  let die := BitVec.ofNat 6 d
  let q := BitVec.ofNat 8 (field v 23 16)
  let alld := bit v 30
  let s1 := s.updDie d fun x => { x with invall := alld, invq := q, invkind := .ofNat 2 (field v 2 1) }
  if !bit v 0 then .next s1
  else if (s.die d).invbusy then .next (s1.dropped w d 0x308 v 4)
  else match field v 2 1 with
  | 0 => execInvalidatePage die (.ofNat 52 ((s.die d).invva.toNat * 65536)) q alld s1
  | 1 => execInvalidateRoot die q alld s1
  | 2 => execInvalidateAll die alld s1
  | _ => .next s1

/-- A task is resident on the die. -/
def State.dieBusy (s : State) (d : Nat) : Bool := (List.range 16).any fun n => (s.cluster (clKey d n)).task.isSome

/-! Host-port and boot blocks (R421, R431). -/

/-- EVLOG2N as it is taken: the nearer limit. -/
def evTaken (v : Nat) : BitVec 4 := if v < 4 then 4 else if 12 < v then 12 else .ofNat 4 v

/-- A 32-bit write to a host port's block. -/
def HostPort.write (p : HostPort) (rel v : Nat) : HostPort :=
  match rel with
  | 0x04 => { p with pwbase := .ofNat 15 (v / 16) }
  | 0x08 => { p with tkalign := .ofNat 64 (half p.tkalign.toNat false v) }
  | 0x0C => { p with tkalign := .ofNat 64 (half p.tkalign.toNat true v) }
  | 0x10 => { p with evbase := .ofNat 40 (half (p.evbase.toNat * 4096) false v / 4096) }
  | 0x14 => { p with evbase := .ofNat 40 (half (p.evbase.toNat * 4096) true v / 4096) }
  | 0x18 => { p with even := bit v 31, evlog2n := evTaken (v % 16) }
  | 0x20 => { p with evhead := .ofNat 16 v }
  | _ => p

/-- Requests for the certificate and the report, ignored while an earlier one is unfinished; one outside its states sets ATTERR
(R436). -/
def State.request436 (s : State) (v : Nat) : State :=
  let b := s.boot
  let att := b.bstate == 5
  let cert := b.bstate != 0
  if b.attReq || b.certReq || !(bit v 1 || bit v 2) then s
  else { s with boot := { b with
    attReq := bit v 1 && att, certReq := bit v 2 && cert, reqAt := s.clk
    atterr := b.atterr || (bit v 1 && !att) || (bit v 2 && !cert) } }

/-- A 32-bit write to a boot block; D32's forwards to D0's (R430). -/
def State.writeBoot (s : State) (port : Bool) (rel v : Nat) : Out :=
  let b := s.boot
  match rel with
  | 0x08 => .next { s with boot := { b with imgaddr := .ofNat 52 (half b.imgaddr.toNat false v) } }
  | 0x0C => .next { s with boot := { b with imgaddr := .ofNat 52 (half b.imgaddr.toNat true v) } }
  | 0x10 => .next { s with boot := { b with imglen := .ofNat 32 v } }
  | 0x18 =>
    if v ≥ 8 then .next s
    else if bit v 0 ∧ (b.bstate = 1 ∨ b.bstate = 6) then execFwDownload port (s.request436 v)
    else .next (s.request436 v)
  | 0x20 => .next { s with boot := { b with attnonce := .ofNat 52 (half b.attnonce.toNat false v) } }
  | 0x24 => .next { s with boot := { b with attnonce := .ofNat 52 (half b.attnonce.toNat true v) } }
  | 0x28 => .next { s with boot := { b with attout := .ofNat 52 (half b.attout.toNat false v) } }
  | 0x2C => .next { s with boot := { b with attout := .ofNat 52 (half b.attout.toNat true v) } }
  | 0x30 => .next { s with boot := { b with atterr := b.atterr && !bit v 1, attdone := b.attdone && !bit v 0 } }
  | _ => .next s

/-- GOVADDR (R454): GADDR stays while GOVEN is 1; GOVEN becoming 1 starts the governor, and at 0 every VOFF is 0. -/
def State.writeGov (s : State) (hi : Bool) (v : Nat) : Out :=
  let s1 := if s.goven then s else { s with gaddr := .ofNat 40 (half (s.gaddr.toNat * 4096) hi v / 4096) }
  if hi then .next s1
  else if bit v 0 then (if s.goven then .next s1 else execGovernorEnable s1)
  else .next { s1 with
    goven := false
    dies := s1.dies.map fun e => (e.1, { e.2 with doms := e.2.doms.map fun x => (x.1, { x.2 with voff := 0 }) }) }

/-! One 32-bit register write (R5). -/

/-- A 32-bit write at offset `off` of die d's control block, or of the cluster control blocks that follow it; before state 5 the
host's reach only the boot block (R430, R435). -/
def State.writeReg (s : State) (w : Writer) (d off v : Nat) : Out :=
  let die := BitVec.ofNat 6 d
  if !w.ctl ∨ (w.who = 1 ∧ s.boot.bstate ≠ 5 ∧ !(decide (0x700 ≤ off) && decide (off < 0x740))) then .next s
  else if 0x100000 ≤ off then
    (if off < 0x110000 then
      .next (s.updCluster (clKey d ((off - 0x100000) / 0x1000)) fun c => c.writeCreg (off % 0x1000) v)
    else .next s)
  else if 0x10000 ≤ off then
    (if off < 0x14000 then s.writeQueue w d ((off - 0x10000) / 0x40) (off % 0x40) v else .next s)
  else if 0xC00 ≤ off ∧ off < 0x1000 then
    (if w.fw then s.writePreempt d ((off - 0xC00) / 0x40) (off % 0x40) v else .next s)
  else if 0xA00 ≤ off ∧ off < 0xA90 then
    (if w.fw ∧ off % 0x10 = 0 then execVoffWrite die (.ofNat 4 ((off - 0xA00) / 0x10)) (.ofNat 32 v) s else .next s)
  else if 0x700 ≤ off ∧ off < 0x740 then (if d = 0 ∨ d = 32 then s.writeBoot (d == 32) (off - 0x700) v else .next s)
  else if 0x600 ≤ off ∧ off < 0x630 then
    .next (if d = 0 then { s with port0 := s.port0.write (off - 0x600) v }
      else if d = 32 then { s with port1 := s.port1.write (off - 0x600) v } else s)
  else
    match off with
    | 0x118 => if w.fw then execRemapStage die (.ofNat 32 v) s else .next s
    | 0x11C => if w.fw then execRemapCommit die (.ofNat 32 v) s else .next s
    | 0x200 => s.writeJobSave d v
    | 0x300 => .next (s.updDie d fun x => { x with invva := .ofNat 36 (half (x.invva.toNat * 65536) false v / 65536) })
    | 0x304 => .next (s.updDie d fun x => { x with invva := .ofNat 36 (half (x.invva.toNat * 65536) true v / 65536) })
    | 0x308 => s.writeInval w d v
    | 0x320 => .next (if w.fw && !s.dieBusy d then
        s.updDie d fun x => { x with ckbase := .ofNat 45 (half x.ckbase.toNat false v) } else s)
    | 0x324 => .next (if w.fw && !s.dieBusy d then
        s.updDie d fun x => { x with ckbase := .ofNat 45 (half x.ckbase.toNat true v) } else s)
    | 0xB00 => if w.fw then execFreqRequest die (.ofNat 32 v) s else .next s
    | 0xB10 => if d = 0 then s.writeGov false v else .next s
    | 0xB14 => if d = 0 then s.writeGov true v else .next s
    | _ => .next s

/-- Writes of 32-bit words, each at its offset, in order. -/
def writeWords (w : Writer) (d : Nat) : List (Nat × Nat) → State → Out
  | [], s => .next s
  | (o, v) :: l, s => match s.writeReg w d o v with
    | .next s1 => writeWords w d l s1
    | out => out

/-- The upper half of GOVADDR comes first, so that the governor reads its table there (R454). DESIGN CHOICE (log 69). -/
def govFirst (d : Nat) (l : List (Nat × Nat)) : List (Nat × Nat) :=
  if d = 0 then l.filter (·.1 == 0xB14) ++ l.filter (·.1 != 0xB14) else l

/-- REGISTER_WRITE (R5): a write of 4 or 8 aligned bytes to a register, by its access codes. -/
def execRegisterWrite (who : BitVec 2) (addr : BitVec 52) (len : BitVec 4) (v : Word64) (s : State) : Out :=
  let a := addr.toNat
  let d := a / 2 ^ 45 % 64
  let o := a % 2 ^ 45 - 0x1F0000000000
  let w : Writer := { who := who.toNat }
  let lo := v.toNat % 2 ^ 32
  let hi := v.toNat / 2 ^ 32
  if a ≥ 2 ^ 51 ∨ a % 2 ^ 45 < 0x1F0000000000 ∨ o ≥ 0x110000 then .next s
  else if len = 4 ∧ o % 4 = 0 then s.writeReg w d o lo
  else if len = 8 ∧ o % 8 = 0 then writeWords w d (govFirst d [(o, lo), (o + 4, hi)]) s
  else .next s

/-! BAR 0 (R420, R430). -/

/-- A BAR 0 access of a port to offset o of die d's blocks reaches them. -/
def State.bar0Open (s : State) (port : Bool) (d o : Nat) : Bool :=
  decide (o < 0x110000) && (decide (d < 64)) &&
    (s.boot.bstate == 5 || (decide (d = if port then 32 else 0) && decide (0x700 ≤ o ∧ o < 0x740)))

/-- The aligned 32-bit words that bytes from offset o cover whole. DEDUCED (log 69). -/
def wordsOf : Nat → Nat → List Byte → List (Nat × Nat)
  | 0, _, _ => []
  | n + 1, o, l =>
    if l.length < 4 then []
    else if o % 4 = 0 then (o, ofBytes (l.take 4)) :: wordsOf n (o + 4) (l.drop 4)
    else wordsOf n (o + 1) (l.drop 1)

/-- Byte o of a die's control blocks. -/
def State.regByte (s : State) (d o : Nat) : Byte :=
  let w := if o < 0x100000 then s.dieWord d (o / 8 * 8)
    else clusterWord (s.cluster (clKey d ((o - 0x100000) / 0x1000))) (o % 0x1000 / 8 * 8)
  .ofNat 8 (w / 256 ^ (o % 8))

/-! BAR 2 (R292, R294). -/

/-- The host may write the granule at physical address a. DEDUCED (log 70). -/
def State.hostWrites (s : State) (a : Nat) : Bool :=
  match tierOf a with
  | .window =>
    let o := paOff a
    decide (0x100000 ≤ o ∧ o < 0x400000) || (decide (o < 0x40000) && (s.cluster (paKey a)).task.isNone)
  | .dram | .lpddr => true
  | _ => false

/-- It may read it. -/
def hostReads (a : Nat) : Bool :=
  match tierOf a with
  | .window | .dram | .lpddr => true
  | _ => false

/-- Bytes that land in a window: data scratchpad bytes of a switched-out cluster in its slot as well. -/
def State.landWindow (s : State) (a : Nat) (l : List Byte) : State :=
  let k := paKey a
  let o := paOff a
  let s1 := s.store a l
  if tierOf a = .window ∧ (s.cluster k).frz.out ∧ 0x100000 ≤ o then
    let i := if o < 0x300000 then 0x220000 + (o - 0x100000) else 0x120000 + (o - 0x300000)
    s1.store (s1.sliceSlot (k / 16) ((s1.die (k / 16)).physOf (k % 16)) + i) l
  else s1

/-- A host write of part of one granule: performed, or `none`: dropped. -/
def State.hostGranule (s : State) (a : Nat) (l : List Byte) : Option State :=
  if !(s.die (paDie a)).present ∨ !s.hostWrites a then none
  else match s.badWrite a l.length with
  | some g => some (s.noteUE (g * 8) 0 none)
  | none =>
    some (s.landWindow a l)

/-- The bytes of a host write, granule by granule; the first one dropped is remembered. -/
def hostBytes : Nat → Nat → List Byte → State × Option (Nat × List Byte) → State × Option (Nat × List Byte)
  | 0, _, _, x => x
  | n + 1, a, l, (s, dr) =>
    if l.isEmpty then (s, dr)
    else
      let k := 8 - a % 8
      let p := l.take k
      match s.hostGranule a p with
      | some s1 => hostBytes n (a + k) (l.drop k) (s1, dr)
      | none => hostBytes n (a + k) (l.drop k) (s, dr.or (some (a, p)))

/-- Module address of an offset of BAR 2. -/
def HostPort.mapped (p : HostPort) (off : Nat) : Nat := (p.pwbase.toNat * 2 ^ 36 + off) % 2 ^ 51

def State.portOf (s : State) (port : Bool) : HostPort := if port then s.port1 else s.port0
def State.setPort (s : State) (port : Bool) (p : HostPort) : State :=
  if port then { s with port1 := p } else { s with port0 := p }

/-- SRCK and index of the unit at module address a that a dropped write names (R294, R423): a cluster for its window, the owner of a
register, else the die. -/
def writeUnit (a : Nat) : Nat × Nat :=
  match tierOf a with
  | .window => (0, paKey a % 16)
  | _ => if 0x1F0000000000 ≤ a % 2 ^ 45 then regUnit (paDie a) (a % 2 ^ 45 - 0x1F0000000000) else (1, 0)

/-- A host write through BAR 2 at module address a. -/
def State.hostStore (s : State) (port : Bool) (a : Nat) (data : List Byte) : State :=
  match hostBytes (data.length + 1) a data (s, none) with
  | (s1, none) => s1
  | (s1, some (b, l)) =>
    let u := writeUnit b
    s1.ignored u.1 (paDie b) u.2 b (ofBytes l) l.length 1 (b2n port)

/-- MSI-X table bytes written (R419, R420). PRESUMED (log 71). -/
def HostPort.writeMsix (p : HostPort) : Nat → List Byte → HostPort
  | _, [] => p
  | o, b :: l => HostPort.writeMsix (if o < 0x8000 then { p with msix := p.msix.set (msixReset o) o b } else p) (o + 1) l

/-- The pending vectors that a write has unmasked are raised, in their order. -/
def State.unmask (s : State) (port : Bool) : State :=
  let p := s.portOf port
  let l := p.pend.filter fun v => !p.masked v
  { s.setPort port { p with pend := p.pend.filter p.masked } with irqs := l.reverse ++ s.irqs }

/-- Byte o of BAR 4: the table, then the pending-bit array at +32 KiB (R420). -/
def HostPort.bar4 (p : HostPort) (o : Nat) : Byte :=
  if o < 0x8000 then p.msixByte o
  else if o < 0x8100 then .ofNat 8 ((List.range 8).foldl (fun m i => m + b2n (p.pend.contains (8 * (o - 0x8000) + i)) * 2 ^ i) 0)
  else 0

/-- HOST_WRITE (R294, R420): BAR 0, 2 or 4; bytes past the end of BAR 2 are in no BAR (log 70). Before RUNNING, BAR 0 reaches only the port's boot block and BAR 2 is closed. -/
def execHostWrite (port : Bool) (bar : BitVec 2) (off : Nat) (data : List Byte) (s : State) : Out :=
  match bar.toNat with
  | 0 =>
    let d := off / 0x200000
    let o := off % 0x200000
    if s.bar0Open port d o then
      writeWords { who := 1, port := b2n port } d (govFirst d (wordsOf (data.length + 4) o data)) s
    else .next s
  | 1 => .next (if s.boot.bstate = 5 then s.hostStore port ((s.portOf port).mapped off) (data.take (2 ^ 36 - off)) else s)
  | 2 => .next (if off < 0x10000 then (s.setPort port ((s.portOf port).writeMsix off data)).unmask port else s)
  | _ => .fault .noSuchBar

/-- Reserved pair memory, which reads as 0 (R252). -/
def pairHole (a : Nat) : Bool :=
  tierOf a == .window && decide (offPair + 0x18280 ≤ paOff a) && decide (paOff a < offPair + 0x1C000)

/-- A byte that the host reads at module address a; one whose granule holds an uncorrectable error is free. -/
def State.hostByte (s : State) (a i : Nat) : Byte :=
  if (s.die (paDie a)).present && hostReads a && !pairHole a then
    (if (s.badRead a 1).isSome then (Config.freeValue (s.fresh + i)).setWidth 8 else s.rd8 a)
  else 0

/-- Uncorrectable errors that a host read of n bytes from a meets (R388, R448). -/
def State.metBy (s : State) (a n : Nat) : State :=
  (s.bad.filter fun g => decide (a / 8 ≤ g) && decide (g * 8 < a + n) && hostReads (g * 8)).foldl (fun s g => s.noteUE (g * 8) 0 none) s

def State.useFree (s : State) (n : Nat) : State := { s with fresh := s.fresh + n }

/-- HOST_READ (R294, R420): the bytes go back to the host. -/
def execHostRead (port : Bool) (bar : BitVec 2) (off : Nat) (n : Nat) (s : State) : Out :=
  let ans (s : State) (l : List Byte) : Out := .next { s with answers := s.answers ++ [{ port := port, bar := bar, off := off, data := l }] }
  match bar.toNat with
  | 0 => ans s ((List.range n).map fun i =>
      if s.bar0Open port ((off + i) / 0x200000) ((off + i) % 0x200000) then
        s.regByte ((off + i) / 0x200000) ((off + i) % 0x200000) else 0)
  | 1 => ans ((if s.boot.bstate = 5 then s.metBy ((s.portOf port).mapped off) (Nat.min n (2 ^ 36 - off)) else s).useFree n)
      ((List.range n).map fun i =>
        if s.boot.bstate = 5 ∧ off + i < 2 ^ 36 then s.hostByte ((s.portOf port).mapped (off + i)) i else 0)
  | 2 => ans s ((List.range n).map fun i => (s.portOf port).bar4 (off + i))
  | _ => .fault .noSuchBar

end Sys2Proof.Machine
end

