-- ==== Sys2Proof/Machine/Dispatch.lean ====
section
/-! DEFINITION. One instruction: one arm for each constructor of Instr, each a direct call of its meaning. -/
namespace Sys2Proof.Machine

def exec (i : Instr) (s : State) : Host.Outcome State Fault Refusal :=
  match i with
  | .nop => Sys2Proof.Machine.execNop s
  | .endStream => Sys2Proof.Machine.execEndStream s
  | .br off => Sys2Proof.Machine.execBr off s
  | .bxi c x imm off => Sys2Proof.Machine.execBxi c x imm off s
  | .bxx c x y off => Sys2Proof.Machine.execBxx c x y off s
  | .loopReg l r e => Sys2Proof.Machine.execLoopReg l r e s
  | .loopImm l n e => Sys2Proof.Machine.execLoopImm l n e s
  | .gate c n off => Sys2Proof.Machine.execGate c n off s
  | .check l off => Sys2Proof.Machine.execCheck l off s
  | .semp m n => Sys2Proof.Machine.execSemp m n s
  | .semw m n => Sys2Proof.Machine.execSemw m n s
  | .mark => Sys2Proof.Machine.execMark s
  | .imov rd imm => Sys2Proof.Machine.execImov rd imm s
  | .iadd rd ra imm => Sys2Proof.Machine.execIadd rd ra imm s
  | .brk c => Sys2Proof.Machine.execBrk c s
  | .syscall c => Sys2Proof.Machine.execSyscall c s
  | .add rd ra rb g => Sys2Proof.Machine.execAdd rd ra rb g s
  | .sub rd ra rb g => Sys2Proof.Machine.execSub rd ra rb g s
  | .min rd ra rb g => Sys2Proof.Machine.execMin rd ra rb g s
  | .max rd ra rb g => Sys2Proof.Machine.execMax rd ra rb g s
  | .and rd ra rb g => Sys2Proof.Machine.execAnd rd ra rb g s
  | .or rd ra rb g => Sys2Proof.Machine.execOr rd ra rb g s
  | .xor rd ra rb g => Sys2Proof.Machine.execXor rd ra rb g s
  | .andn rd ra rb g => Sys2Proof.Machine.execAndn rd ra rb g s
  | .shl rd ra rb g => Sys2Proof.Machine.execShl rd ra rb g s
  | .shr rd ra rb g => Sys2Proof.Machine.execShr rd ra rb g s
  | .sra rd ra rb g => Sys2Proof.Machine.execSra rd ra rb g s
  | .mulh rd ra rb g => Sys2Proof.Machine.execMulh rd ra rb g s
  | .mul rd ra rb g => Sys2Proof.Machine.execMul rd ra rb g s
  | .mulhu rd ra rb g => Sys2Proof.Machine.execMulhu rd ra rb g s
  | .minu rd ra rb g => Sys2Proof.Machine.execMinu rd ra rb g s
  | .maxu rd ra rb g => Sys2Proof.Machine.execMaxu rd ra rb g s
  | .andi rd ra imm g => Sys2Proof.Machine.execAndi rd ra imm g s
  | .ori rd ra imm g => Sys2Proof.Machine.execOri rd ra imm g s
  | .xori rd ra imm g => Sys2Proof.Machine.execXori rd ra imm g s
  | .muli rd ra imm g => Sys2Proof.Machine.execMuli rd ra imm g s
  | .shli rd ra imm g => Sys2Proof.Machine.execShli rd ra imm g s
  | .shri rd ra imm g => Sys2Proof.Machine.execShri rd ra imm g s
  | .srai rd ra imm g => Sys2Proof.Machine.execSrai rd ra imm g s
  | .mini rd ra imm g => Sys2Proof.Machine.execMini rd ra imm g s
  | .maxi rd ra imm g => Sys2Proof.Machine.execMaxi rd ra imm g s
  | .minui rd ra imm g => Sys2Proof.Machine.execMinui rd ra imm g s
  | .maxui rd ra imm g => Sys2Proof.Machine.execMaxui rd ra imm g s
  | .subfi rd ra imm g => Sys2Proof.Machine.execSubfi rd ra imm g s
  | .cmp pd ra rb c g => Sys2Proof.Machine.execCmp pd ra rb c g s
  | .cmpi pd ra imm c g => Sys2Proof.Machine.execCmpi pd ra imm c g s
  | .pand rd ra rb g => Sys2Proof.Machine.execPand rd ra rb g s
  | .por rd ra rb g => Sys2Proof.Machine.execPor rd ra rb g s
  | .pxor rd ra rb g => Sys2Proof.Machine.execPxor rd ra rb g s
  | .pandn rd ra rb g => Sys2Proof.Machine.execPandn rd ra rb g s
  | .pnot rd ra g => Sys2Proof.Machine.execPnot rd ra g s
  | .pget rd g => Sys2Proof.Machine.execPget rd g s
  | .pput ra g => Sys2Proof.Machine.execPput ra g s
  | .btree t => Sys2Proof.Machine.execBtree t s
  | .brc off g => Sys2Proof.Machine.execBrc off g s
  | .jal off g => Sys2Proof.Machine.execJal off g s
  | .jalr ra off g => Sys2Proof.Machine.execJalr ra off g s
  | .ldb rd ra off g => Sys2Proof.Machine.execLdb rd ra off g s
  | .ldbu rd ra off g => Sys2Proof.Machine.execLdbu rd ra off g s
  | .ldh rd ra off g => Sys2Proof.Machine.execLdh rd ra off g s
  | .ldhu rd ra off g => Sys2Proof.Machine.execLdhu rd ra off g s
  | .ldw rd ra off g => Sys2Proof.Machine.execLdw rd ra off g s
  | .ldwu rd ra off g => Sys2Proof.Machine.execLdwu rd ra off g s
  | .ldd rd ra off g => Sys2Proof.Machine.execLdd rd ra off g s
  | .stb rs ra off g => Sys2Proof.Machine.execStb rs ra off g s
  | .sth rs ra off g => Sys2Proof.Machine.execSth rs ra off g s
  | .stw rs ra off g => Sys2Proof.Machine.execStw rs ra off g s
  | .std rs ra off g => Sys2Proof.Machine.execStd rs ra off g s
  | .amoadd rd ra rb w => Sys2Proof.Machine.execAmoadd rd ra rb w s
  | .amoand rd ra rb w => Sys2Proof.Machine.execAmoand rd ra rb w s
  | .amoor rd ra rb w => Sys2Proof.Machine.execAmoor rd ra rb w s
  | .amoxor rd ra rb w => Sys2Proof.Machine.execAmoxor rd ra rb w s
  | .amomin rd ra rb w => Sys2Proof.Machine.execAmomin rd ra rb w s
  | .amomax rd ra rb w => Sys2Proof.Machine.execAmomax rd ra rb w s
  | .amominu rd ra rb w => Sys2Proof.Machine.execAmominu rd ra rb w s
  | .amomaxu rd ra rb w => Sys2Proof.Machine.execAmomaxu rd ra rb w s
  | .amoswap rd ra rb w => Sys2Proof.Machine.execAmoswap rd ra rb w s
  | .amocas rd ra rb w => Sys2Proof.Machine.execAmocas rd ra rb w s
  | .crr r k w => Sys2Proof.Machine.execCrr r k w s
  | .crrd r k w => Sys2Proof.Machine.execCrrd r k w s
  | .crw r k w => Sys2Proof.Machine.execCrw r k w s
  | .krd r k => Sys2Proof.Machine.execKrd r k s
  | .kwr r k => Sys2Proof.Machine.execKwr r k s
  | .seedr r j => Sys2Proof.Machine.execSeedr r j s
  | .seedw r j => Sys2Proof.Machine.execSeedw r j s
  | .lrd r l => Sys2Proof.Machine.execLrd r l s
  | .lwr r l => Sys2Proof.Machine.execLwr r l s
  | .waitx c r => Sys2Proof.Machine.execWaitx c r s
  | .testx c r pd => Sys2Proof.Machine.execTestx c r pd s
  | .fenceT => Sys2Proof.Machine.execFenceT s
  | .fenceD => Sys2Proof.Machine.execFenceD s
  | .fenceM => Sys2Proof.Machine.execFenceM s
  | .fenceS => Sys2Proof.Machine.execFenceS s
  | .ifence => Sys2Proof.Machine.execIfence s
  | .iswap => Sys2Proof.Machine.execIswap s
  | .mhdr chg rep => Sys2Proof.Machine.execMhdr chg rep s
  | .midle u => Sys2Proof.Machine.execMidle u s
  | .wcode xr rm1 pitch => Sys2Proof.Machine.execWcode xr rm1 pitch s
  | .wcvt xr rm1 fmt rnd pitch => Sys2Proof.Machine.execWcvt xr rm1 fmt rnd pitch s
  | .wc4 xr rm1 cb pitch => Sys2Proof.Machine.execWc4 xr rm1 cb pitch s
  | .nld xr kind fmt rnd cb nm1 => Sys2Proof.Machine.execNld xr kind fmt rnd cb nm1 s
  | .nswp => Sys2Proof.Machine.execNswp s
  | .cbld xr cbk ssel => Sys2Proof.Machine.execCbld xr cbk ssel s
  | .mcfg sel src => Sys2Proof.Machine.execMcfg sel src s
  | .pass stop c0 c1 xr km1 => Sys2Proof.Machine.execPass stop c0 c1 xr km1 s
  | .mwait xd => Sys2Proof.Machine.execMwait xd s
  | .drn a acc am pool xr se sem => Sys2Proof.Machine.execDrn a acc am pool xr se sem s
  | .drv k half c0 => Sys2Proof.Machine.execDrv k half c0 s
  | .aclr b => Sys2Proof.Machine.execAclr b s
  | .rstat r0 nm1 c0 c1 => Sys2Proof.Machine.execRstat r0 nm1 c0 c1 s
  | .skw xr off => Sys2Proof.Machine.execSkw xr off s
  | .skn xr off => Sys2Proof.Machine.execSkn xr off s
  | .pcfg sel src => Sys2Proof.Machine.execPcfg sel src s
  | .pcell xr st out se sem nhm1 => Sys2Proof.Machine.execPcell xr st out se sem nhm1 s
  | .psets xr st out se sem nam1 nbm1 => Sys2Proof.Machine.execPsets xr st out se sem nam1 nbm1 s
  | .pcidx xr nm1 => Sys2Proof.Machine.execPcidx xr nm1 s
  | .paclr xr nm1 => Sys2Proof.Machine.execPaclr xr nm1 s
  | .copy c rd rs v imm u => Sys2Proof.Machine.execCopy c rd rs v imm u s
  | .cvt c rd rs r t v imm u => Sys2Proof.Machine.execCvt c rd rs r t v imm u s
  | .xpose c rd rs v imm u => Sys2Proof.Machine.execXpose c rd rs v imm u s
  | .cmpr c k h x v imm u => Sys2Proof.Machine.execCmpr c k h x v imm u s
  | .expd c k h x v imm u => Sys2Proof.Machine.execExpd c k h x v imm u s
  | .decode c rd rs k v imm u => Sys2Proof.Machine.execDecode c rd rs k v imm u s
  | .send c rs x v imm u => Sys2Proof.Machine.execSend c rs x v imm u s
  | .recv rb x u => Sys2Proof.Machine.execRecv rb x u s
  | .ramoAdd c w ra v r n u => Sys2Proof.Machine.execRamoAdd c w ra v r n u s
  | .ramoAnd c w ra v r n u => Sys2Proof.Machine.execRamoAnd c w ra v r n u s
  | .ramoOr c w ra v r n u => Sys2Proof.Machine.execRamoOr c w ra v r n u s
  | .ramoXor c w ra v r n u => Sys2Proof.Machine.execRamoXor c w ra v r n u s
  | .ramoMin c w ra v r n u => Sys2Proof.Machine.execRamoMin c w ra v r n u s
  | .ramoMax c w ra v r n u => Sys2Proof.Machine.execRamoMax c w ra v r n u s
  | .ramoMinu c w ra v r n u => Sys2Proof.Machine.execRamoMinu c w ra v r n u s
  | .ramoMaxu c w ra v r n u => Sys2Proof.Machine.execRamoMaxu c w ra v r n u s
  | .ramoSwap c w ra v r n u => Sys2Proof.Machine.execRamoSwap c w ra v r n u s
  | .ramoCas c w ra v r n u => Sys2Proof.Machine.execRamoCas c w ra v r n u s
  | .xwait c x => Sys2Proof.Machine.execXwait c x s
  | .xwaitb rb => Sys2Proof.Machine.execXwaitb rb s
  | .xfence c => Sys2Proof.Machine.execXfence c s
  | .xnext c rd => Sys2Proof.Machine.execXnext c rd s
  | .shw k w x => Sys2Proof.Machine.execShw k w x s
  | .xcfg rs x => Sys2Proof.Machine.execXcfg rs x s
  | .ldhcw c rs x v imm u => Sys2Proof.Machine.execLdhcw c rs x v imm u s
  | .ldpln c rs x v imm u => Sys2Proof.Machine.execLdpln c rs x v imm u s
  | .ldpair c rs x v imm u => Sys2Proof.Machine.execLdpair c rs x v imm u s
  | .vInstruction h r o t => Sys2Proof.Machine.execVInstruction h r o t s
  | .vend => Sys2Proof.Machine.execVend s
  | .vbr off => Sys2Proof.Machine.execVbr off s
  | .vbrm j cond off => Sys2Proof.Machine.execVbrm j cond off s
  | .vloop l src e => Sys2Proof.Machine.execVloop l src e s
  | .vlwr reg k => Sys2Proof.Machine.execVlwr reg k s
  | .vsemp sem n => Sys2Proof.Machine.execVsemp sem n s
  | .vsemw sem n => Sys2Proof.Machine.execVsemw sem n s
  | .vgate cls obj off => Sys2Proof.Machine.execVgate cls obj off s
  | .vmark => Sys2Proof.Machine.execVmark s
  | .blend k => Sys2Proof.Machine.execBlend k s
  | .bret k => Sys2Proof.Machine.execBret k s
  | .statrx vd => Sys2Proof.Machine.execStatrx vd s
  | .vbrk code => Sys2Proof.Machine.execVbrk code s
  | .resultLand => Sys2Proof.Machine.execResultLand s
  | .passEnd => Sys2Proof.Machine.execPassEnd s
  | .drainComplete => Sys2Proof.Machine.execDrainComplete s
  | .aclrComplete => Sys2Proof.Machine.execAclrComplete s
  | .nldComplete => Sys2Proof.Machine.execNldComplete s
  | .rstatComplete => Sys2Proof.Machine.execRstatComplete s
  | .peBlock => Sys2Proof.Machine.execPeBlock s
  | .peComplete => Sys2Proof.Machine.execPeComplete s
  | .transferPiece ch id => Sys2Proof.Machine.execTransferPiece ch id s
  | .transferComplete ch id => Sys2Proof.Machine.execTransferComplete ch id s
  | .budgetCycle ch id => Sys2Proof.Machine.execBudgetCycle ch id s
  | .gateTargetCycle st => Sys2Proof.Machine.execGateTargetCycle st s
  | .taskRetire => Sys2Proof.Machine.execTaskRetire s
  | .doorbell die q v => Sys2Proof.Machine.execDoorbell die q v s
  | .queueControlWrite die q v => Sys2Proof.Machine.execQueueControlWrite die q v s
  | .entryNop die q => Sys2Proof.Machine.execEntryNop die q s
  | .launch die q => Sys2Proof.Machine.execLaunch die q s
  | .dieImageLoad lead slot die ord => Sys2Proof.Machine.execDieImageLoad lead slot die ord s
  | .firstTick lead slot => Sys2Proof.Machine.execFirstTick lead slot s
  | .taskStart lead slot die ord => Sys2Proof.Machine.execTaskStart lead slot die ord s
  | .remapStage die v => Sys2Proof.Machine.execRemapStage die v s
  | .remapCommit die v => Sys2Proof.Machine.execRemapCommit die v s
  | .sliceQuantum die cl => Sys2Proof.Machine.execSliceQuantum die cl s
  | .sliceSwitch die phys => Sys2Proof.Machine.execSliceSwitch die phys s
  | .preemptRequest die cl => Sys2Proof.Machine.execPreemptRequest die cl s
  | .contextSave die cl => Sys2Proof.Machine.execContextSave die cl s
  | .contextRestore die cl => Sys2Proof.Machine.execContextRestore die cl s
  | .jobSaveRequest lead slot => Sys2Proof.Machine.execJobSaveRequest lead slot s
  | .jobSave lead slot => Sys2Proof.Machine.execJobSave lead slot s
  | .jobResume lead slot => Sys2Proof.Machine.execJobResume lead slot s
  | .resume die cl xdone served => Sys2Proof.Machine.execResume die cl xdone served s
  | .abort die cl => Sys2Proof.Machine.execAbort die cl s
  | .replay die cl => Sys2Proof.Machine.execReplay die cl s
  | .invalidatePage die va q alld => Sys2Proof.Machine.execInvalidatePage die va q alld s
  | .invalidateRoot die q alld => Sys2Proof.Machine.execInvalidateRoot die q alld s
  | .invalidateAll die alld => Sys2Proof.Machine.execInvalidateAll die alld s
  | .stepEnd lead slot => Sys2Proof.Machine.execStepEnd lead slot s
  | .commitRelease lead slot => Sys2Proof.Machine.execCommitRelease lead slot s
  | .tickIssue lead slot => Sys2Proof.Machine.execTickIssue lead slot s
  | .tickAct lead slot => Sys2Proof.Machine.execTickAct lead slot s
  | .write m => Sys2Proof.Machine.execWrite m s
  | .readReq m => Sys2Proof.Machine.execReadReq m s
  | .readData m => Sys2Proof.Machine.execReadData m s
  | .atomic m => Sys2Proof.Machine.execAtomic m s
  | .atomicRsp m => Sys2Proof.Machine.execAtomicRsp m s
  | .sendMessage m => Sys2Proof.Machine.execSendMessage m s
  | .ack m => Sys2Proof.Machine.execAck m s
  | .nack m => Sys2Proof.Machine.execNack m s
  | .tick m => Sys2Proof.Machine.execTick m s
  | .done m => Sys2Proof.Machine.execDone m s
  | .nackRetry die seq => Sys2Proof.Machine.execNackRetry die seq s
  | .flitReceive die j f crcOk => Sys2Proof.Machine.execFlitReceive die j f crcOk s
  | .linkRetrain die j => Sys2Proof.Machine.execLinkRetrain die j s
  | .linkTrained die j width => Sys2Proof.Machine.execLinkTrained die j width s
  | .linkDown die j => Sys2Proof.Machine.execLinkDown die j s
  | .trafficHoldEnd => Sys2Proof.Machine.execTrafficHoldEnd s
  | .scaleoutFrame port f => Sys2Proof.Machine.execScaleoutFrame port f s
  | .hostWrite port bar off data => Sys2Proof.Machine.execHostWrite port bar off data s
  | .hostRead port bar off n => Sys2Proof.Machine.execHostRead port bar off n s
  | .registerWrite who addr len v => Sys2Proof.Machine.execRegisterWrite who addr len v s
  | .powerUp => Sys2Proof.Machine.execPowerUp s
  | .powerLoss => Sys2Proof.Machine.execPowerLoss s
  | .fwDownload port => Sys2Proof.Machine.execFwDownload port s
  | .dieAnswerTimeout die => Sys2Proof.Machine.execDieAnswerTimeout die s
  | .enumeration => Sys2Proof.Machine.execEnumeration s
  | .attestation port => Sys2Proof.Machine.execAttestation port s
  | .certificate port => Sys2Proof.Machine.execCertificate port s
  | .currentMeasure die => Sys2Proof.Machine.execCurrentMeasure die s
  | .freqRequest die v => Sys2Proof.Machine.execFreqRequest die v s
  | .freqRamp => Sys2Proof.Machine.execFreqRamp s
  | .freqSwitch => Sys2Proof.Machine.execFreqSwitch s
  | .voffWrite die dom v => Sys2Proof.Machine.execVoffWrite die dom v s
  | .snapBack die phys addr => Sys2Proof.Machine.execSnapBack die phys addr s
  | .snapSettle die dom => Sys2Proof.Machine.execSnapSettle die dom s
  | .governorEnable => Sys2Proof.Machine.execGovernorEnable s
  | .governorCleanDay die dom => Sys2Proof.Machine.execGovernorCleanDay die dom s
  | .barrierDueCycle xb => Sys2Proof.Machine.execBarrierDueCycle xb s
  | .cbldComplete => Sys2Proof.Machine.execCbldComplete s
  | .fenceSPcieReadComplete => Sys2Proof.Machine.execFenceSPcieReadComplete s
  | .vaAdd => Sys2Proof.Machine.execVaAdd s
  | .addu => Sys2Proof.Machine.execAddu s
  | .vaSub => Sys2Proof.Machine.execVaSub s
  | .subu => Sys2Proof.Machine.execSubu s
  | .vaMin => Sys2Proof.Machine.execVaMin s
  | .vaMinu => Sys2Proof.Machine.execVaMinu s
  | .vaMax => Sys2Proof.Machine.execVaMax s
  | .vaMaxu => Sys2Proof.Machine.execVaMaxu s
  | .abs => Sys2Proof.Machine.execAbs s
  | .neg => Sys2Proof.Machine.execNeg s
  | .vaAnd => Sys2Proof.Machine.execVaAnd s
  | .vaOr => Sys2Proof.Machine.execVaOr s
  | .vaXor => Sys2Proof.Machine.execVaXor s
  | .vaAndn => Sys2Proof.Machine.execVaAndn s
  | .vaShl => Sys2Proof.Machine.execVaShl s
  | .vaShr => Sys2Proof.Machine.execVaShr s
  | .vaSra => Sys2Proof.Machine.execVaSra s
  | .vaShli => Sys2Proof.Machine.execVaShli s
  | .vaShri => Sys2Proof.Machine.execVaShri s
  | .vaSrai => Sys2Proof.Machine.execVaSrai s
  | .addi => Sys2Proof.Machine.execAddi s
  | .movi => Sys2Proof.Machine.execMovi s
  | .vaCmp => Sys2Proof.Machine.execVaCmp s
  | .qshr => Sys2Proof.Machine.execQshr s
  | .mov => Sys2Proof.Machine.execMov s
  | .sel => Sys2Proof.Machine.execSel s
  | .fadd => Sys2Proof.Machine.execFadd s
  | .fsub => Sys2Proof.Machine.execFsub s
  | .vaFmul => Sys2Proof.Machine.execVaFmul s
  | .fmin => Sys2Proof.Machine.execFmin s
  | .fmax => Sys2Proof.Machine.execFmax s
  | .fabs => Sys2Proof.Machine.execFabs s
  | .fneg => Sys2Proof.Machine.execFneg s
  | .fcmp => Sys2Proof.Machine.execFcmp s
  | .cvtif => Sys2Proof.Machine.execCvtif s
  | .cvtuf => Sys2Proof.Machine.execCvtuf s
  | .cvtfi => Sys2Proof.Machine.execCvtfi s
  | .cvtfu => Sys2Proof.Machine.execCvtfu s
  | .cvtqf => Sys2Proof.Machine.execCvtqf s
  | .cvtfq => Sys2Proof.Machine.execCvtfq s
  | .mset => Sys2Proof.Machine.execMset s
  | .mget => Sys2Proof.Machine.execMget s
  | .qset => Sys2Proof.Machine.execQset s
  | .qget => Sys2Proof.Machine.execQget s
  | .bwr => Sys2Proof.Machine.execBwr s
  | .brd => Sys2Proof.Machine.execBrd s
  | .rpw => Sys2Proof.Machine.execRpw s
  | .vbMul => Sys2Proof.Machine.execVbMul s
  | .mulu => Sys2Proof.Machine.execMulu s
  | .vbMulh => Sys2Proof.Machine.execVbMulh s
  | .vbMulhu => Sys2Proof.Machine.execVbMulhu s
  | .mad => Sys2Proof.Machine.execMad s
  | .madu => Sys2Proof.Machine.execMadu s
  | .mulq => Sys2Proof.Machine.execMulq s
  | .madq => Sys2Proof.Machine.execMadq s
  | .dot => Sys2Proof.Machine.execDot s
  | .dotu => Sys2Proof.Machine.execDotu s
  | .fma => Sys2Proof.Machine.execFma s
  | .fms => Sys2Proof.Machine.execFms s
  | .fnma => Sys2Proof.Machine.execFnma s
  | .fnms => Sys2Proof.Machine.execFnms s
  | .vbFmul => Sys2Proof.Machine.execVbFmul s
  | .fdot2 => Sys2Proof.Machine.execFdot2 s
  | .vld => Sys2Proof.Machine.execVld s
  | .vst => Sys2Proof.Machine.execVst s
  | .vlds => Sys2Proof.Machine.execVlds s
  | .vldr => Sys2Proof.Machine.execVldr s
  | .vldc => Sys2Proof.Machine.execVldc s
  | .vstr => Sys2Proof.Machine.execVstr s
  | .vstc => Sys2Proof.Machine.execVstc s
  | .vldu => Sys2Proof.Machine.execVldu s
  | .vstu => Sys2Proof.Machine.execVstu s
  | .vamoAdd => Sys2Proof.Machine.execVamoAdd s
  | .vamoAnd => Sys2Proof.Machine.execVamoAnd s
  | .vamoOr => Sys2Proof.Machine.execVamoOr s
  | .vamoXor => Sys2Proof.Machine.execVamoXor s
  | .vamoMin => Sys2Proof.Machine.execVamoMin s
  | .vamoMax => Sys2Proof.Machine.execVamoMax s
  | .vamoMinu => Sys2Proof.Machine.execVamoMinu s
  | .vamoMaxu => Sys2Proof.Machine.execVamoMaxu s
  | .vamoSwap => Sys2Proof.Machine.execVamoSwap s
  | .vamoCas => Sys2Proof.Machine.execVamoCas s
  | .perm => Sys2Proof.Machine.execPerm s
  | .lrot => Sys2Proof.Machine.execLrot s
  | .fshl => Sys2Proof.Machine.execFshl s
  | .fshr => Sys2Proof.Machine.execFshr s
  | .psum => Sys2Proof.Machine.execPsum s
  | .clz => Sys2Proof.Machine.execClz s
  | .popc => Sys2Proof.Machine.execPopc s
  | .exte => Sys2Proof.Machine.execExte s
  | .inse => Sys2Proof.Machine.execInse s
  | .redAdd => Sys2Proof.Machine.execRedAdd s
  | .redMin => Sys2Proof.Machine.execRedMin s
  | .redMax => Sys2Proof.Machine.execRedMax s
  | .redMinu => Sys2Proof.Machine.execRedMinu s
  | .redMaxu => Sys2Proof.Machine.execRedMaxu s
  | .redAnd => Sys2Proof.Machine.execRedAnd s
  | .redOr => Sys2Proof.Machine.execRedOr s
  | .redXor => Sys2Proof.Machine.execRedXor s
  | .redFadd => Sys2Proof.Machine.execRedFadd s
  | .redFmin => Sys2Proof.Machine.execRedFmin s
  | .redFmax => Sys2Proof.Machine.execRedFmax s
  | .xredAdd => Sys2Proof.Machine.execXredAdd s
  | .xredMin => Sys2Proof.Machine.execXredMin s
  | .xredMax => Sys2Proof.Machine.execXredMax s
  | .xredMinu => Sys2Proof.Machine.execXredMinu s
  | .xredMaxu => Sys2Proof.Machine.execXredMaxu s
  | .xredAnd => Sys2Proof.Machine.execXredAnd s
  | .xredOr => Sys2Proof.Machine.execXredOr s
  | .xredXor => Sys2Proof.Machine.execXredXor s
  | .xredFadd => Sys2Proof.Machine.execXredFadd s
  | .xredFmin => Sys2Proof.Machine.execXredFmin s
  | .xredFmax => Sys2Proof.Machine.execXredFmax s
  | .xcopy => Sys2Proof.Machine.execXcopy s
  | .xbc => Sys2Proof.Machine.execXbc s
  | .exp2 => Sys2Proof.Machine.execExp2 s
  | .log2 => Sys2Proof.Machine.execLog2 s
  | .rcp => Sys2Proof.Machine.execRcp s
  | .rsqrt => Sys2Proof.Machine.execRsqrt s
  | .rand => Sys2Proof.Machine.execRand s
  | .cvtfb => Sys2Proof.Machine.execCvtfb s
  | .cvtbf => Sys2Proof.Machine.execCvtbf s
  | .fcvtq => Sys2Proof.Machine.execFcvtq s
  | .cbd => Sys2Proof.Machine.execCbd s

end Sys2Proof.Machine
end

