-- ==== Sys2Proof/Machine/Cycle.lean ====
section
/-! DEFINITION. One logical cycle of a cluster (01 R26 to R31, R35, R40, R41; 04 R124; 05 R134, R143; 06 R170, R171): every
stream that may issue fetches, decodes and checks its bundle and runs its syllables through exec; the cycle retires as a
whole, faults as a whole, or is frozen as a whole. -/
namespace Sys2Proof.Machine

/-- Reads and writes of a syllable in its stream. -/
def usesOf (st : Str) (i : Instr) : Uses :=
  match st with
  | .c => usesC .c i
  | .m => usesM i
  | .x => usesX i
  | .v => {}

/-- What a bundle names in its text (R125). -/
def Bun.uses (b : Bun) (st : Str) : List Uses := (b.parts ++ b.words).map fun x => usesOf st x.2

/-- The resources that it names on its die. -/
def State.usesHere (s : State) (st : Str) (b : Bun) : List Uses := (b.uses st).map (Uses.on s.curDie)

/-- The current operations of M that issue though no word mentions them: registers they read or write at each issue. -/
def State.stickyUses (s : State) (b : Bun) : List Uses :=
  match b.parts with
  | [(_, .mhdr chg _)] =>
    (List.range 7).filterMap fun u =>
      if ({ s with ctx := { s.ctx with str := .m, words := b.words } }.wordFor chg u).isSome then none
      else (s.cl.me.cur.get ({} : MCur) u).op.bind fun i => match i with
        | .drn .. | .mwait _ => some (usesM i)
        | _ => none
  | _ => []

/-- What the bundle reads and writes in the repetition about to issue, whatever the guards of its syllables hold (R134;
DESIGN CHOICE, log 84). -/
def State.issueUses (s : State) (st : Str) (b : Bun) : List Uses :=
  (if st = .m ∧ s.cl.m.rep ≠ 0 then [] else s.usesHere st b) ++ s.stickyUses b

/-- A syllable of the X stream other than the common set's. -/
def engineX : Instr → Bool
  | .copy .. | .cvt .. | .xpose .. | .cmpr .. | .expd .. | .decode .. | .send .. | .recv .. | .ramoAdd .. | .ramoAnd ..
  | .ramoOr .. | .ramoXor .. | .ramoMin .. | .ramoMax .. | .ramoMinu .. | .ramoMaxu .. | .ramoSwap .. | .ramoCas ..
  | .shw .. | .xcfg .. | .ldhcw .. | .ldpln .. | .ldpair .. => true
  | _ => false

/-- Order of the causes of an X bundle (R291): the stages, the engine's causes by position, the common set's. -/
def rankX (i : Instr) (t : Trap) : Nat :=
  if rank163 t.cause ≤ 1 then rank163 t.cause else if engineX i then 2 else rank163 t.cause

def rankOf (st : Str) (i : Instr) (t : Trap) : Nat :=
  match st with
  | .x => rankX i t
  | _ => rank163 t.cause

/-- The context in which the bundle at the stream's pc issues. -/
def State.enter (s : State) (st : Str) (b : Bun) (later : SMap Nat) (ret : BitVec 4) : State :=
  { s with ctx := { str := st, addr := (s.cl.str st).pc, len := b.len, words := b.words, later := later, ret := ret, satte := s.ctx.satte } }

/-- The repetitions of a V instruction still to come after this one (R117). -/
def Bun.repsLeft (b : Bun) (t : StreamSt) : Bool :=
  match b.parts with
  | [(_, .vInstruction _ r _ _)] => decide (t.rep < r.toNat)
  | _ => false

/-- A bundle whose parts have all run retires: results marked, the next repetition or the next bundle chosen; the PCIe read of a
FENCE.S of C has served its bundle (R162, R309). -/
def State.finish (s : State) (st : Str) (b : Bun) (ws : List (Nat × Nat)) : State :=
  let s1 := s.updStrm fun t => t.mark s.cyc ws
  match st with
  | .v =>
    if b.repsLeft s1.cl.v then (s1.updStrm fun t => { t with rep := t.rep + 1 }).retire true else s1.retire false
  | .m => s1.retire (s1.cl.m.rep != 0)
  | .c => ({ s1 with cl := { s1.cl with pcie := 0 } } : State).retire false
  | .x => s1.retire false

/-- One stream in one cycle. The checks of R124 that the syllables make themselves come with their issue, once no operand is
awaited (DESIGN CHOICE, log 85). -/
def State.issue (s : State) (st : Str) (later : SMap Nat) (ret : BitVec 4) : Ran :=
  let t := s.cl.str st
  if !t.live s.cyc then .done s
  else match s.decoded st with
  | .error x => .trap x
  | .ok b =>
    if flowClash (b.parts.map (·.2)) || usesClash (s.usesHere st b) then .trap (s.fetchTrap st .illegalBundle)
    else if !((s.issueUses st b).all (t.clear s.cyc)) then .done s
    else
      let s0 := s.enter st b later ret
      let held := (b.parts ++ b.words).filter fun x => s.guard (guardOf x.2)
      let ws := ((if st = .m ∧ t.rep ≠ 0 then [] else held.map fun x => usesOf st x.2) ++ s.stickyUses b).flatMap (·.writes)
      match runParts (rankOf st) (b.parts.map fun x => { pos := x.1, ins := x.2, run := exec x.2 }) s0 none none with
      | .done s1 => .done (s1.finish st b ws)
      | .wait s1 => .wait (s0.keepWait s1)
      | r => r

/-- The streams of one cycle in the order of R41: the state after those that retired or waited, the causes of those that
trapped, the counters after each stream. -/
structure CycRun where
  s     : State
  traps : List Trap := []
  stop  : Option Out := none
  sems  : List (SMap (BitVec 8)) := []

def CycRun.next (r : CycRun) (st : Str) (later : SMap Nat) (ret : BitVec 4) : CycRun :=
  match r.stop with
  | some _ => r
  | none =>
    match r.s.issue st later ret with
    | .done s => { r with s := s, sems := r.sems ++ [s.cl.sem] }
    | .wait s => { r with s := s, sems := r.sems ++ [s.cl.sem] }
    | .trap t => { r with traps := r.traps ++ [t], sems := r.sems ++ [r.s.cl.sem] }
    | .stop o => { r with stop := some o }

def State.runStreams (s : State) (later : Nat → SMap Nat) (ret : BitVec 4) : CycRun :=
  ((((({ s := { s with ctx := { s.ctx with satte := some s.cl.me.satte } } } : CycRun).next .c (later 0) ret).next .m (later 1) ret).next .x (later 2) ret).next .v (later 3) ret)

/-- Counts beyond any release: no overflow is met while the grants of a cycle are being found. -/
def noOverflow : SMap Nat := (List.range 16).map fun n => (n, 2 ^ 20)

/-- Banks that a BRET of V takes back in this cycle (R209). -/
def State.returning (s : State) : BitVec 4 :=
  if s.cl.ve.lent = 0 then 0
  else match s.issue .v noOverflow 0 with
  | .done s1 => s.cl.ve.lent &&& ~~~s1.cl.ve.lent
  | _ => 0

/-- Units of releases made in the cycle: by the streams, and by engine completions. -/
def Cluster.released (c : Cluster) (n : Nat) : Nat :=
  relSum n c.semP + (c.engP.filter fun e => e.1 == n).length

/-- A release of the cycle passes 255 for some semaphore. -/
def Cluster.overflows (c : Cluster) : Bool :=
  (List.range 16).any fun n => decide ((c.sem.get 0 n).toNat + c.released n > 255)

/-- The engine release that passes 255 (R143). Where several on one semaphore do so together, the completion that stands first in
engP names the bundle of the record (DESIGN CHOICE, log 98). -/
def Cluster.engOverflow (c : Cluster) : Option (Nat × BitVec 17) :=
  c.engP.find? fun e => decide ((c.sem.get 0 e.1).toNat + c.released e.1 > 255)

/-- The causes of the cycle in the order of R41: those of the streams, and of M the engine release that passes 255, after M's own. -/
def CycRun.causes (r : CycRun) : List Trap :=
  r.traps.filter (fun t => decide (t.str.num ≤ 1))
    ++ (r.s.cl.engOverflow.map fun e => ({ str := .m, cause := Cause.semOverflow.code, baddr := e.2 } : Trap)).toList
    ++ r.traps.filter fun t => decide (1 < t.str.num)

/-- Units that the streams after each stream are granted in the cycle. -/
def CycRun.grantsAfter (r : CycRun) (k : Nat) : SMap Nat :=
  (List.range 16).map fun n =>
    (n, ((r.sems.getD k []).get 0 n).toNat - (r.s.cl.sem.get 0 n).toNat)

/-- The freezes under which the cluster's engines stop as well (R28, R30). -/
def Freeze.hard (f : Freeze) : Bool := f.fault || f.memErr || f.snap || f.out || f.save

/-- One more clock cycle in which the task was frozen (R31, R32). -/
def Cluster.frozenClock (c : Cluster) : Cluster :=
  { c with frzcyc := c.frzcyc + 1, ovrcyc := if c.frz.overrun then c.ovrcyc + 1 else c.ovrcyc
           xclk := if c.frz.hard then c.xclk else c.xclk + 1 }

/-- The end of a logical cycle: releases added, k and SEEDK written, ISWAP in force, results landed. -/
def Cluster.endCycle (c : Cluster) : Cluster :=
  let sem := (List.range 16).foldl (fun (m : SMap (BitVec 8)) n =>
    m.set 0 n (.ofNat 8 ((c.sem.get 0 n).toNat + c.released n))) c.sem
  let k := c.kP.foldl (fun (m : SMap Word64) w => m.set 0 w.1 w.2) c.k
  let seedk := c.seedP.foldl (fun (x : BitVec 256) w =>
    (x &&& ~~~((BitVec.ofNat 256 (2 ^ 64 - 1)) <<< (64 * w.1))) ||| (((w.2.setWidth 256 : BitVec 256)) <<< (64 * w.1))) c.seedk
  let c1 := { c with sem := sem, semP := [], engP := [], k := k, kP := [], seedk := seedk, seedP := []
                     swapped := c.swapped != c.swapP, swapP := false
                     taskcyc := c.taskcyc + 1, xclk := c.xclk + 1, quantum := c.quantum + 1 }
  { c1.landAll with setNow := [] }

/-- The causes of a cycle taken in the order of R41: no bundle of the cycle has an effect, and the task freezes. -/
def State.faultCycle (s : State) (l : List Trap) : State :=
  let s1 := l.foldl (fun s t => s.takeFault t) s
  { s1 with ctx := {}, cl :=
      { ({ s1.cl with frz := { s1.cl.frz with overrun := false } } : Cluster).frozenClock with fltNow := none } }

/-- The streams of the cycle, with the semaphore units that they are granted known to releases (R143). -/
def State.tryStreams (s : State) : CycRun :=
  let ret := s.returning
  let r0 := s.runStreams (fun _ => noOverflow) ret
  if r0.s.cl.overflows || !r0.traps.isEmpty then s.runStreams r0.grantsAfter ret else r0

/-- A fault p of this clock cycle, met outside the streams' issue, with the causes r of the cycle: the stream first in the order of R41
is primary, and within one stream the causes of issue come before p, an engine release that passes 255 after it (R243). -/
def State.joinCauses (s : State) (p : Trap) (r : CycRun) : State :=
  match r.causes with
  | t :: l =>
    if t.str.num < p.str.num ∨ (t.str = p.str ∧ r.traps.contains t) then l.foldl (fun s t => s.takeFault t) (s.rePrime p t)
    else r.causes.foldl (fun s t => s.takeFault t) s
  | [] => s

/-- The clock cycle in which the cluster in focus froze for the fault p: `live` says that the streams would have issued. A cycle
that waits for late work overruns as well (R31), and its streams' causes come when it executes (R35). -/
def State.freezeCycle (s : State) (p : Trap) (live : Bool) : State :=
  let r := s.tryStreams
  let s1 := if !live then s
    else if r.s.cl.late then { s with cl := { s.cl with frz := { s.cl.frz with overrun := true } } }
    else s.joinCauses p r
  { s1 with ctx := {}, cl := { s1.cl.frozenClock with fltNow := none } }

/-- A clock cycle of an overrun: the due cycle, whose streams come out as r, does not execute (R35). -/
def State.overrunClock (s : State) (r : CycRun) : State :=
  { s with ctx := {}, cl := ({ s.cl with
      frz := { s.cl.frz with overrun := true }, pcie := if r.s.cl.pcie = 0 then s.cl.pcie else r.s.cl.pcie } : Cluster).frozenClock }

/-- One logical cycle of the cluster in focus, its engines having done their work of the cycle. One that meets late work does not
execute: whatever else it meets, it meets when that work is there (R35). DEDUCED (log 28). -/
def State.logicalCycle (s : State) : Out :=
  let r := s.tryStreams
  match r.stop with
  | some o => o
  | none =>
    if r.s.cl.late then
      .next (s.overrunClock r)
    else if !r.causes.isEmpty then .next (s.faultCycle r.causes)
    else
      .next { r.s with ctx := {}, cl := { r.s.cl.endCycle with frz := { r.s.cl.frz with overrun := false } } }

end Sys2Proof.Machine
end

