-- ==== Sys2Proof/Machine/Turn.lean ====
section
/-! DEFINITION. The turn of a cluster in a clock cycle: its engines' work of the cycle, the events that are due, then one
logical cycle of its streams, or one clock cycle of a freeze (01 R27 to R31; 08 R241; 10 R274;
23 R442, R443). -/
namespace Sys2Proof.Machine

/-- Completions of the engines due in the present cycle, in a fixed order. -/
def State.engineDue (s : State) : Option Instr :=
  let e := s.cl.me
  let t := s.cyc
  if e.drs.any (·.due t) then some .drainComplete
  else if e.aclrs.any (fun j => decide (j.due ≤ t)) then some .aclrComplete
  else if e.rstats.any (fun j => decide (j.due ≤ t)) then some .rstatComplete
  else if (match e.nld with | some j => j.due t | none => false) then some .nldComplete
  else if e.cblds.any (fun j => decide (j.due ≤ t)) then some .cbldComplete
  else if e.passDue then some .passEnd
  else if s.peUnitDue t then some .peBlock
  else if (match s.cl.pe.job with | some j => j.fin && decide (j.at_ ≤ t) | none => false) then some .peComplete
  else none

/-- Events that also come while a held tick stops the streams: retirement, the copy engine, barriers, a fence's read. -/
def State.outerDue (s : State) : Option Instr :=
  if s.retireDue then some .taskRetire
  else match s.copyDue with
  | some i => some i
  | none => match s.barrierDue with
    | some i => some i
    | none => if s.cl.pcie = 1 then some .fenceSPcieReadComplete else none

/-- The cluster's turn has passed. -/
def State.passTurn (s : State) : State := { s with turns := s.turns.tail }

/-! Throttling (R441 to R443). -/

/-- The physical cluster under the cluster in focus. -/
def State.physNow (s : State) : Nat := (s.die s.curDie).physOf s.curCl

/-- Sub-bundles of a level in slot positions (R442, R122). -/
def subBundles (lvl : Nat) : List (List Nat) := if lvl = 1 then [[2, 4, 0], [1, 3]] else [[2], [0], [1], [3], [4]]

/-- Positions of the slots present in the HCW that V is about to issue. -/
def State.slotsPresent (s : State) : List Nat :=
  match s.decoded .v with
  | .ok { parts := [(_, .vInstruction h _ _ _)], .. } =>
    (match decodeSlots (s.hcw h.toNat) with
     | .ok l => l.map (·.pos)
     | .error _ => [])
  | _ => []

/-- v of R443: clock cycles of the issue that V makes in this logical cycle, whose streams come out as r, V the last of them; 1 when it
makes none: a waiting VC slot makes the whole issue wait (R442). -/
def State.vClocks (s : State) (lvl : Nat) (r : State) : Nat :=
  if r.ctx.str ≠ .v ∨ r.ctx.wait then 1
  else
    let l := s.slotsPresent
    Nat.max 1 ((subBundles lvl).filter fun b => b.any l.contains).length

/-- m of R443: a pair operation in flight advances in every cycle up to its completion, the last costs of its units included. -/
def State.mClocks (s : State) (lvl : Nat) : Nat :=
  if (s.cl.me.pass.any fun p => p.phase == 2) || s.cl.pe.job.isSome then 2 ^ lvl else 1

/-- Clock cycles of the logical cycle about to run, its engines having done their work of the cycle. One that cannot complete, for
a fault or an overrun, is not split. -/
def State.splitLen (s : State) : Nat :=
  let lvl := ((s.die s.curDie).physSt s.physNow).thr.toNat
  if lvl = 0 then 1
  else
    let r := s.tryStreams
    if r.s.cl.late || !r.causes.isEmpty then 1 else Nat.max (s.vClocks lvl r.s) (s.mClocks lvl)

/-- A clock cycle of a split logical cycle that is not its last; `n` are still to come. -/
def State.splitClock (s : State) (n : Nat) : State :=
  let s1 := s.updDie s.curDie fun d =>
    d.setPhys s.physNow { d.physSt s.physNow with thrcyc := (d.physSt s.physNow).thrcyc + 1 }
  let c : Cluster := { s1.cl with splitLeft := n, frz := { s1.cl.frz with throttle := true } }
  { s1.passTurn with cl := c.frozenClock }

/-! The turn. -/

/-- The pair engine's arithmetic at the end of the cycle: a flag that it sets is one of that cycle, which is over (R168). -/
def State.actPe (s : State) : Out :=
  match exec .peBlock s with
  | .next s1 => .next { s1 with cl := { s1.cl with setNow := [] } }
  | o => o

/-! Pieces of SEND that land in the cycle (R286). -/

/-- The X bundle that is about to issue has a RECV of barrier n. -/
def State.recvs (s : State) (n : Nat) : Bool :=
  match s.decoded .x with
  | .ok b => b.parts.any fun p => match p.2 with
    | .recv rb _ _ => rb.toNat == n
    | _ => false
  | .error _ => false

/-- Barrier that a piece of SEND is counted against. -/
def sendBarrier (m : Msg) : Nat := m.arg.toNat / 2 ^ 21 % 32

/-- A piece of SEND that has reached the cluster in focus and lands before its streams issue; one for a barrier that a RECV of the cycle
arms counts after it (R286). -/
def State.arrived (s : State) : Option Msg :=
  let l := s.net.filter fun m => m.typ == mSend && clKey m.ddie.toNat m.dcl.toNat == s.cur
  if l.isEmpty then none
  else match l.find? fun m => !s.recvs (sendBarrier m) with
  | some m => some m
  | none =>
    let r := s.tryStreams
    l.find? fun m => r.s.cl.late || !r.causes.isEmpty || r.s.cl.xb (sendBarrier m) == s.cl.xb (sendBarrier m)

/-- The cycle that is due meets late work: it does not execute, nor do the engines do their work of it, until that is there (R35). -/
def State.lateCycle (s : State) : Bool := s.cl.locked && s.tryStreams.s.cl.late

/-- Engines' work of the cycle, the completions due, the pieces that land, then the streams; a cycle that completes may end the
period. -/
def State.runCycle (s : State) : Out :=
  if s.lateCycle then
    match s.arrived with
    | some m => exec (.sendMessage m) { s with net := s.net.erase m }
    | none =>
      let s1 := s.passTurn
      .next ({ s1 with cl := { s1.cl with splitLeft := 0, frz := { s1.cl.frz with throttle := false } } }.overrunClock s.tryStreams)
  else match tickMatrix s.cyc s with
  | (s1, some t) =>
    .next ((s1.passTurn.takeFault t).freezeCycle t true)
  | (s1, none) =>
    match s1.engineDue with
    | some i => exec i s1
    | none => match s1.arrived with
    | some m => exec (.sendMessage m) { s1 with net := s1.net.erase m }
    | none =>
      let c := s1.cl
      let n := if c.splitLeft = 0 then s1.splitLen else 1
      if 2 ≤ n then .next (s1.splitClock (n - 1))
      else match ({ s1.passTurn with cl := { c with splitLeft := 0, frz := { c.frz with throttle := false } } } : State).logicalCycle with
      | .next s2 =>
        let s3 := { s2 with cl := { s2.cl with frz := { s2.cl.frz with held := s2.atEnd s2.cl } } }
        if s3.peActs s3.cyc then s3.actPe else .next s3
      | o => o

/-- The overrun of a cluster that another cause freezes too is over: what it waited for has come (R31), or, where it is switched out,
is a transfer of its own that the switch has stopped, which holds it no more than the switch does (R16, R17, R28; DEDUCED, log 31). -/
def State.overrunOver (s : State) : Bool :=
  let f := s.cl.frz
  !s.tryStreams.s.cl.late || (f.out && !(f.fault || f.memErr || f.snap || f.save) &&
    s.cl.xfers.any fun x => !x.2.done && decide (x.2.due.getD 0 ≤ s.cyc) && (!x.2.fin || x.2.out.isEmpty))

/-- The turn of the cluster in focus. -/
def State.turn (s : State) : Out :=
  if s.cl.task.isNone then .next s.passTurn
  else if s.cl.frz.hard then
    match s.cl.fltNow with
    | some (p, n) =>
      let z := s.cl.frz
      .next (s.passTurn.freezeCycle p
        (n == s.clk && !z.held && !z.snap && !z.out && !z.save && s.cl.heldF.isEmpty && decide (s.cl.splitLeft ≤ 1)))
    | none =>
      let c := s.cl
      .next { s.passTurn with cl :=
        ({ c with frz := { c.frz with overrun := c.frz.overrun && !s.overrunOver } } : Cluster).frozenClock }
  else match s.outerDue with
  | some i => exec i s
  | none =>
    if s.cl.frz.held then .next { s.passTurn with cl := s.cl.frozenClock }
    else match s.cl.splitLeft with
    | n + 2 => .next (s.splitClock (n + 1))
    | _ => s.runCycle

end Sys2Proof.Machine
end

