-- ==== Sys2Proof/Machine/Step.lean ====
section
/-! DEFINITION. One step of the machine: an input from outside, an event that is due, or the turn of a cluster; when every
cluster has had its turn, the clock advances (logs 9, 10). And the placing of one instruction where the next step fetches. -/
namespace Sys2Proof.Machine

/-! Events that are due beside the clusters' turns. Each is found by its own rule; the first found goes first. -/

/-- The event that one job is due. -/
def State.jobDue (s : State) (j : Job) : Option Instr :=
  let l := BitVec.ofNat 6 j.lead
  let n := BitVec.ofNat 6 j.slot
  match s.replayDue j with
  | some i => some i
  | none =>
    if s.releaseDue j then some (.commitRelease l n)
    else if s.stepDue j then some (.stepEnd l n)
    else if s.jobSaveDue j then some (.jobSave l n)
    else if s.issueDue j then some (.tickIssue l n)
    else if s.firstDue j then some (.firstTick l n)
    else s.taskDue j

/-- The retry that die d is due (R287). -/
def State.nackDue (s : State) (d : Nat) : Option Instr :=
  ((s.die d).reqs.find? (s.retryDue d)).map fun r => .nackRetry (.ofNat 6 d) r.seq

/-- Clusters that the state lists, and those with a restore asked for. -/
def State.keys (s : State) : List Nat :=
  s.cur :: s.park.map (·.1) ++ s.dies.flatMap fun e => e.2.pre.map fun p => clKey e.1 p.1

/-- The first event due among dies, clusters and jobs. -/
def State.localDue (s : State) : Option Instr :=
  (s.dies.findSome? fun e => (s.linkDue e.1).or ((s.nackDue e.1).or (s.powerDue e.1))).or
    (s.snapDue.or ((s.keys.findSome? s.preDue).or
      ((s.jobs.findSome? s.jobDue).or (s.dies.findSome? fun e => s.admitDue e.1))))

/-- Ticks act and the clock switches in one clock cycle, the switch first (R446). -/
def State.clockDue (s : State) : Option Instr :=
  if s.switchNow then some .freqSwitch
  else if s.rampDue then some .freqRamp
  else (s.jobs.find? s.tickActs).map fun j => .tickAct (.ofNat 6 j.lead) (.ofNat 6 j.slot)

/-- The next message that has reached its die, and those left: a piece of SEND whose cluster's turn is still to come lands in that
turn (R286). -/
def State.nextMsg (s : State) : Option (Msg × List Msg) :=
  (s.net.find? fun m => !(m.typ == mSend && s.turns.contains (clKey m.ddie.toNat m.dcl.toNat))).map fun m => (m, s.net.erase m)

/-- The event that is due, with the state that it leaves its source: a message and a flit are taken as they are served. -/
def State.moduleDue (s : State) : Option (Instr × State) :=
  match s.bootDue.or s.clockDue with
  | some i => some (i, s)
  | none =>
    match s.nextMsg with
    | some (m, l) => (msgEvent m).map fun i => (i, { s with net := l })
    | none =>
      match s.flitDue with
      | some w => some (.flitReceive (.ofNat 6 w.die) (.ofNat 2 w.link) w.flit true, { s with wire := s.wire.erase w })
      | none =>
        if s.hold.any (· ≤ s.clk) then some (.trafficHoldEnd, s) else s.localDue.map fun i => (i, s)

/-! The clock. -/

/-- Clusters that hold a task, by rising number. -/
def State.occupied (s : State) : List Nat :=
  let l : SMap Unit := (s.park.filter fun e => e.2.task.isSome).map fun e => (e.1, ())
  (if s.cl.task.isSome then SMap.insert s.cur () l else l).map (·.1)

/-- Module time after one clock cycle at FCUR (R417). The errors that each die has corrected in it are counted (R388): how many
there are is free (log 5). -/
def State.tickTime (s : State) : State :=
  let f := s.freq.fcur.toNat
  let n := (s.nsAcc + 1000) / f
  { s with dies := s.dies.map fun e => (e.1, { e.2 with cecnt := e.2.cecnt + Config.correctedErrors e.1 s.clk })
           clk := s.clk + 1, mtime := s.mtime + .ofNat 64 n, nsAcc := (s.nsAcc + 1000) % f
           opns := if s.boot.bstate = 5 then s.opns + n else s.opns }

/-- One clock cycle has passed; at its end the links take what it has left on their outputs (R412). -/
def State.tickClock (s : State) : State :=
  let s1 := s.sendDones.sendFlits.selectInvals.dieAnswers.tickTime.settleFreq
  { s1 with turns := s1.occupied }

/-- One step. DESIGN CHOICE (log 1). -/
def step (s : State) : Host.Outcome State Fault Refusal :=
  match s.inputs with
  | i :: l => exec i { s with inputs := l }
  | [] =>
    match s.moduleDue with
    | some (i, s1) => exec i s1
    | none =>
      match s.turns with
      | k :: _ => (s.focus k).turn
      | [] => .next s.tickClock

/-! An instruction placed for the next step. -/

/-- What stands at a stream's pc so that w is fetched as an instruction of that stream: its stream and its syllables. A
syllable begins its bundle; a word of an M sub-unit follows the header that mentions it, with its second syllable where its
operation has one. -/
def fetchForm (nbits w : Nat) : Str × List Nat :=
  if nbits ≤ 16 then (.v, [w % 2 ^ 16])
  else
    let x := w % 2 ^ 31
    let st := ((decodeAny (w % 2 ^ 32)).bind streamOf).getD .c
    match st with
    | .m =>
      match (units.zipIdx.find? fun u => (decodeSub u.1 x 0).toOption.isSome) with
      | some (_, n) =>
        if w / 2 ^ 31 % 2 = 1 ∧ field w 30 25 = 0x10 then (.m, [w % 2 ^ 32])
        else (.m, [0xA0000000 + 2 ^ (24 - n), x] ++ if subLen (field w 30 25) = some 1 then [0x1E000000] else [])
      | none => (.m, [x + 2 ^ 31])
    | st => (st, [x + 2 ^ 31])

/-- The stream of r made ready at its pc; every other stream of the cluster has ended. -/
def Cluster.only (c : Cluster) (r : Str) : Cluster :=
  let off (t : StreamSt) : StreamSt := { t with ended := true }
  let on (t : StreamSt) : StreamSt := { pc := t.pc, idx := t.idx, ended := false }
  let c1 : Cluster := { c with c := off c.c, m := off c.m, x := off c.x, v := off c.v }
  { c1.setStr r (on (c.str r)) with
    task := some { lead := 0, slot := 0, idx := 0 }, frz := {}, flt := {}, heldF := [], fltNow := none, splitLeft := 0 }

/-- The instruction w placed at the pc of its stream in the cluster in focus, whose turn is next, with nothing else due on
the module; a NOP bundle follows it (DESIGN CHOICE, log 27). -/
def State.withFetchWord (s : State) (nbits w : Nat) : State :=
  let (r, ws) := fetchForm nbits w
  let pc := (s.cl.str r).pc.toNat
  let s0 : State := { s with
    inputs := [], net := [], wire := [], hold := none, jobs := [], claims := [], dies := [], freq := {}
    boot := { s.boot with bstate := 0 }, park := [], turns := [s.cur], cl := s.cl.dropWork.only r, ctx := {}, bad := [] }
  if r = .v then s0.wrLE (s0.fetchAddr .v pc) 2 (ws.headD 0)
  else s0.wrBytes (s0.fetchAddr r pc) ((ws ++ [2 ^ 31]).flatMap fun x => bytesOf x 4)

end Sys2Proof.Machine
end

