-- ==== Sys2Proof/Safety.lean ====
section
/-! DEFINITION. What claims are stated in: the invariant that every step keeps, runs, what an instruction leaves unchanged,
and the shapes of results that many instructions share. -/
namespace Sys2Proof.Machine

/-- Memory is in its canonical form. -/
def State.memOk (s : State) : Prop := Memory.wf s.mem = true

/-- t is reached from s by some number of steps. -/
inductive Reaches (s : State) : State → Prop
  | refl : Reaches s s
  | step {t u : State} : Reaches s t → Machine.step t = .next u → Reaches s u

/-- Every byte of memory reads as before. -/
def SameMem (s t : State) : Prop := ∀ a, t.rd8 a = s.rd8 a

/-- Every byte of memory outside the n bytes at a reads as before. -/
def SameMemBut (a n : Nat) (s t : State) : Prop := ∀ x, x < a ∨ a + n ≤ x → t.rd8 x = s.rd8 x

/-- The result of a slot that is to land in lane l of group g, n cycles from now. -/
def State.laneLands (s : State) (n : Nat) (v : Word32) (fl : BitVec 6) (g l : Nat) : VPend :=
  { dest := .lane g (s.phys s.ctx.slot.vd.toNat) l, val := v, flags := fl, due := s.cyc + n }

/-- t is s with the results l added to those not yet visible: every register, flag and byte of memory is as before. -/
def AddsResults (s t : State) (l : List VPend) : Prop :=
  t = { s with cl := { s.cl with ve := { s.cl.ve with pend := s.cl.ve.pend ++ l } } }

/-- The slot operation i completes in every state: each lane where the slot acts is to receive f after n cycles. -/
def LaneResult (i : Instr) (n : Nat) (f : State → (g l : Nat) → VRes) : Prop :=
  ∀ s : State, ∃ t, exec i s = .next t ∧
    AddsResults s t (s.lanes.map fun x => s.laneLands n (.ofNat 32 (f s x.1 x.2).1) (f s x.1 x.2).2 x.1 x.2)

/-- The slot operation i completes in every state: element k of each lane where the slot acts is to receive, after n cycles,
f of the elements picked for k from va, vb and vc; the lane's flags are those of its elements (R165, R178). -/
def ElementResult (i : Instr) (n : Nat) (f : State → (g l k a b c : Nat) → VRes) : Prop :=
  ∀ s : State,
    let w := s.ew
    let e := 32 / w
    let sl := s.ctx.slot
    let el (g l k : Nat) : VRes :=
      f s g l k (elemOf w (s.srcA g l) (pick sl.swa.toNat e k)) (elemOf w (s.srcB g l) (pick sl.swb.toNat e k))
        (elemOf w (s.srcC g l) (pick sl.swc.toNat e k))
    ∃ (t : State) (v : Nat → Nat → Word32), exec i s = .next t ∧
      AddsResults s t (s.lanes.map fun x =>
        s.laneLands n (v x.1 x.2) ((List.range e).foldl (fun fl k => fl ||| (el x.1 x.2 k).2) 0) x.1 x.2) ∧
      ∀ g l k, k < e → elemOf w (v g l).toNat k = (el g l k).1 % 2 ^ w

/-- A shape that meets R273: a format below 12, zero reserved bits, at most 2^32 elements, its base a multiple of the
element's bytes, and, in the data scratchpad, every byte inside it. -/
def Shape.legal (sh : Shape) : Prop :=
  sh.fmt < 12 ∧ sh.mbz = false ∧ sh.count ≤ 2 ^ 32 ∧ (8 ≤ sh.bits → sh.base % (sh.bits / 8) = 0) ∧
    (sh.loc = true → sh.base < 2 ^ 21 ∧ 0 ≤ sh.loByte ∧ sh.hiByte < 2 ^ 21)

/-- The command i issues (R268): its channel gains a transfer that meets P, with the channel's next identifier, which DID
receives where DV is 1; memory, the other channels and the other registers are as before. -/
def State.Issues (s : State) (i : Instr) (ch : BitVec 2) (dv : BitVec 1) (did : BitVec 3) (bud : Word64)
    (P : Transfer → Prop) : Prop :=
  let c := s.cl.chan ch.toNat
  ∃ (t : State) (x : Transfer), exec i s = .next t ∧
    t.cl.chan ch.toNat = { c with nextId := c.nextId + 1, q := c.q ++ [x] } ∧
    (∀ n, n ≠ ch.toNat → t.cl.chan n = s.cl.chan n) ∧
    x.id = c.nextId ∧ x.op = i ∧ x.issue = s.cyc ∧ x.start = s.xnow ∧ x.baddr = s.ctx.addr ∧
    x.pos = s.ctx.pos ∧ x.cfg = s.cl.xe.cfg ∧ x.key = s.cl.seedk ∧
    x.due = (if s.cl.locked then some (s.cyc + bud.toNat) else none) ∧ x.cursor = 0 ∧ x.fin = false ∧ x.done = false ∧ P x ∧
    (∀ r < 8, t.cl.x.idx.get 0 r = if dv = 1 ∧ r = did.toNat then c.nextId.setWidth 64 else s.cl.x.idx.get 0 r) ∧
    SameMem s t ∧ t.cl.s = s.cl.s ∧ t.cl.p = s.cl.p ∧ t.cl.k = s.cl.k ∧ t.cl.ve = s.cl.ve ∧ t.cl.me = s.cl.me ∧
    t.cl.pe = s.cl.pe ∧ t.cl.sem = s.cl.sem ∧ t.cl.flt = s.cl.flt ∧ t.ctx = s.ctx

/-! Pieces of transfers (R274, R278). -/

/-- Nibble m of memory: the low one of a byte first (R49). -/
def State.nib (s : State) (m : Nat) : Nat := (s.rd8 (m / 2)).toNat / 16 ^ (m % 2) % 16

/-- The first nibble of element f of a transfer's shape. -/
def State.nibAt (s : State) (t : Transfer) (sh : Shape) (f : Nat) : Nat := 2 * s.elemAddr t sh f + sh.bitAt f / 4 % 2

/-- From s to z the n elements from f, which lie in one run, are set to val 0, val 1, …; every other nibble of memory is as before. -/
def State.Written (s z : State) (t : Transfer) (sh : Shape) (f n : Nat) (val : Nat → Nat) : Prop :=
  let w := sh.bits / 4
  let a := s.nibAt t sh f
  ∀ m, z.nib m = if a ≤ m ∧ m < a + n * w then val ((m - a) / w) / 16 ^ ((m - a) % w) % 16 else s.nib m

/-- The n elements from f lie at no negative address and on the die of the cluster in focus, or in host memory. -/
def State.Near (s : State) (t : Transfer) (sh : Shape) (f n : Nat) : Prop :=
  (sh.bits = 4 ∨ sh.bits = 8 ∨ sh.bits = 16 ∨ sh.bits = 32) ∧
    ∀ i < n, 0 ≤ sh.bitOf (sh.pos (f + i)) ∧ ∀ b < sh.width, s.offDie (s.elemAddr t sh (f + i) + b) = false

/-- Transfer t of channel ch has pieces to move; no page of it is held, no error, no missing route and no other transfer's write is in
its way. -/
structure State.Moves (s : State) (ch : Nat) (id : Word32) (t : Transfer) : Prop where
  here    : s.xferOf s.cur ch id = some t
  cur     : s.cur < 1024
  work    : t.done = false ∧ t.fin = false
  free    : t.held = [] ∧ t.heldW = []
  good    : s.bad = []
  won     : s.wonBy ch t = []
  there   : s.blocked t = false
  routed  : s.noRoute ch t = false

/-- The same, of a transfer that sends no message, whose least time is over. -/
def State.MovesHere (s : State) (ch : Nat) (id : Word32) (t : Transfer) : Prop :=
  s.Moves ch id t ∧ t.far = false ∧ t.start + t.least ≤ s.xnow

/-- A piece of transfer (ch, id) moves: z holds the transfer as t', and no register, no other engine's state and no fault record has
changed. -/
def State.PieceTo (s : State) (ch : BitVec 2) (id : Word32) (z : State) (t' : Transfer) : Prop :=
  exec (.transferPiece ch id) s = .next z ∧ z.xferOf s.cur ch.toNat id = some t' ∧ t'.done = false ∧
    (∀ n, n ≠ ch.toNat → z.cl.chan n = s.cl.chan n) ∧ z.cl.s = s.cl.s ∧ z.cl.p = s.cl.p ∧ z.cl.k = s.cl.k ∧ z.cl.x = s.cl.x ∧
    z.cl.ve = s.cl.ve ∧ z.cl.me = s.cl.me ∧ z.cl.pe = s.cl.pe ∧ z.cl.sem = s.cl.sem ∧ z.cl.flt = s.cl.flt ∧ z.ctx = s.ctx

/-- A piece of transfer (ch, id) raises x instead: nothing else changes. -/
def State.PieceTraps (s : State) (ch : BitVec 2) (id : Word32) (t : Transfer) (x : Trap) : Prop :=
  exec (.transferPiece ch id) s = .next ((s.putXfer ch.toNat t).takeFault x)

end Sys2Proof.Machine
end

