-- ==== Sys2Proof/Certificates/Slice0/Obligations.lean ====
section
/-! DEFINITION. Statements for the provers: what the rules of spec/ say that the machine and its instructions do. -/
open Sys2Proof Sys2Proof.Machine

/-! The control stream (04, 05). -/

/-- R148, in every state: each register operation writes its 64-bit value to rd when its guard holds. -/
def Obligations.RegisterArithmeticResults : Prop :=
  ∀ (s : State) (rd ra rb : BitVec 6) (g : BitVec 5), s.guard g = true →
    let a := s.sreg ra.toNat
    let b := s.sreg rb.toNat
    let gives (i : Instr) (v : Word64) : Prop := exec i s = .next (s.setS rd.toNat v)
    gives (.add rd ra rb g) (.ofNat 64 (a.toNat + b.toNat)) ∧
    gives (.sub rd ra rb g) (.ofInt 64 (a.toNat - b.toNat)) ∧
    gives (.min rd ra rb g) (if a.toInt ≤ b.toInt then a else b) ∧
    gives (.max rd ra rb g) (if a.toInt ≤ b.toInt then b else a) ∧
    gives (.and rd ra rb g) (a &&& b) ∧
    gives (.or rd ra rb g) (a ||| b) ∧
    gives (.xor rd ra rb g) (a ^^^ b) ∧
    gives (.andn rd ra rb g) (a &&& ~~~b) ∧
    gives (.shl rd ra rb g) (.ofNat 64 (a.toNat * 2 ^ (b.toNat % 64))) ∧
    gives (.shr rd ra rb g) (.ofNat 64 (a.toNat / 2 ^ (b.toNat % 64))) ∧
    gives (.sra rd ra rb g) (.ofInt 64 (a.toInt / (2 ^ (b.toNat % 64) : Nat))) ∧
    gives (.mul rd ra rb g) (.ofNat 64 (a.toNat * b.toNat)) ∧
    gives (.mulh rd ra rb g) (.ofInt 64 (a.toInt * b.toInt / (2 ^ 64 : Nat))) ∧
    gives (.mulhu rd ra rb g) (.ofNat 64 (a.toNat * b.toNat / 2 ^ 64)) ∧
    gives (.minu rd ra rb g) (if a.toNat ≤ b.toNat then a else b) ∧
    gives (.maxu rd ra rb g) (if a.toNat ≤ b.toNat then b else a)

/-- R149: the immediate operations, the immediate of majors 0x14, 0x16 and 0x17 being sign-extended from its width with
its extensions. -/
def Obligations.ImmediateArithmeticResults : Prop :=
  ∀ (s : State) (rd ra : BitVec 6) (imm : Imm 6) (n : BitVec 6) (g : BitVec 5), s.guard g = true →
    let a := s.sreg ra.toNat
    let b : Word64 := .ofInt 64 (toSigned (immWidth imm) (immRaw imm))
    let gives (i : Instr) (v : Word64) : Prop := exec i s = .next (s.setS rd.toNat v)
    gives (.andi rd ra imm g) (a &&& b) ∧
    gives (.ori rd ra imm g) (a ||| b) ∧
    gives (.xori rd ra imm g) (a ^^^ b) ∧
    gives (.muli rd ra imm g) (.ofNat 64 (a.toNat * b.toNat)) ∧
    gives (.shli rd ra n g) (.ofNat 64 (a.toNat * 2 ^ n.toNat)) ∧
    gives (.shri rd ra n g) (.ofNat 64 (a.toNat / 2 ^ n.toNat)) ∧
    gives (.srai rd ra n g) (.ofInt 64 (a.toInt / (2 ^ n.toNat : Nat))) ∧
    gives (.mini rd ra imm g) (if a.toInt ≤ b.toInt then a else b) ∧
    gives (.maxi rd ra imm g) (if a.toInt ≤ b.toInt then b else a) ∧
    gives (.minui rd ra imm g) (if a.toNat ≤ b.toNat then a else b) ∧
    gives (.maxui rd ra imm g) (if a.toNat ≤ b.toNat then b else a) ∧
    gives (.subfi rd ra imm g) (.ofInt 64 (b.toInt - a.toInt))

/-- What a write of a scalar register and of a predicate does (R132, R104): s0 and p0 discard it. -/
def Claims.ScalarRegisterWrites : Prop :=
  ∀ (s : State) (r : BitVec 6) (v : Word64) (j : BitVec 4) (b : Bool),
    s.setS 0 v = s ∧ s.sreg 0 = 0 ∧ s.setP 0 b = s ∧ s.preg 0 = true ∧
    (r ≠ 0 → (s.setS r.toNat v).sreg r.toNat = v ∧ ∀ q : BitVec 6, q ≠ r → (s.setS r.toNat v).sreg q.toNat = s.sreg q.toNat) ∧
    (j ≠ 0 → (s.setP j.toNat b).preg j.toNat = b ∧ ∀ q : BitVec 4, q ≠ j → (s.setP j.toNat b).preg q.toNat = s.preg q.toNat) ∧
    (∀ q : BitVec 4, (s.setS r.toNat v).preg q.toNat = s.preg q.toNat) ∧
    (∀ q : BitVec 6, (s.setP j.toNat b).sreg q.toNat = s.sreg q.toNat)

/-- R150 and R151: compares and predicate logic. -/
def Claims.CompareAndPredicateResults : Prop :=
  ∀ (s : State) (pd pa pb : BitVec 4) (ra rb : BitVec 6) (imm : Imm 6) (g : BitVec 5), s.guard g = true →
    let a := s.sreg ra.toNat
    let b := s.sreg rb.toNat
    let k : Word64 := .ofInt 64 (toSigned (immWidth imm) (immRaw imm))
    let test (x y : Word64) (cc : Nat) : Bool :=
      [x == y, x != y, decide (x.toInt < y.toInt), decide (y.toInt ≤ x.toInt), decide (x.toNat < y.toNat),
       decide (y.toNat ≤ x.toNat), (x &&& y) != 0, (x &&& y) == 0].getD cc false
    let gives (i : Instr) (v : Bool) : Prop := exec i s = .next (s.setP pd.toNat v)
    (∀ c : BitVec 4, c.toNat < 8 → gives (.cmp pd ra rb c g) (test a b c.toNat) ∧
      gives (.cmpi pd ra imm c g) (test a k c.toNat)) ∧
    gives (.pand pd pa pb g) (s.preg pa.toNat && s.preg pb.toNat) ∧
    gives (.por pd pa pb g) (s.preg pa.toNat || s.preg pb.toNat) ∧
    gives (.pxor pd pa pb g) (s.preg pa.toNat ^^ s.preg pb.toNat) ∧
    gives (.pandn pd pa pb g) (s.preg pa.toNat && !s.preg pb.toNat) ∧
    gives (.pnot pd pa g) (!s.preg pa.toNat) ∧
    (∃ v : Word64, exec (.pget ra g) s = .next (s.setS ra.toNat v) ∧
      ∀ j, v.getLsbD j = (decide (j < 16) && s.preg j)) ∧
    (∃ t, exec (.pput ra g) s = .next t ∧ (∀ j : BitVec 4, t.preg j.toNat = (j == 0 || a.getLsbD j.toNat)) ∧
      t = { s with cl := { s.cl with p := t.cl.p } })

/-- R104, R132, R150, R151: what register and predicate writes do, compares, predicate logic. -/
def Obligations.RegisterAndPredicateResults : Prop := Claims.ScalarRegisterWrites ∧ Claims.CompareAndPredicateResults

/-- R135: a guarded syllable whose guard is false has no effect. -/
def Obligations.FalseGuardHasNoEffect : Prop :=
  ∀ (s : State) (i : Instr), s.guard (guardOf i) = false → exec i s = .next s

/-- R138, R152, R153: where each branch sends its stream; a branch that is not taken changes nothing. -/
def Obligations.BranchTargets : Prop :=
  ∀ (s : State) (c : BitVec 3) (x y : BitVec 6) (imm : Imm 6) (o16 : BitVec 16) (o10 : BitVec 10) (t : List BTest)
    (g : BitVec 5), s.ctx.str ≠ .v →
    let goes (i : Instr) (s1 : State) (target : Int) : Prop :=
      ∃ a : BitVec 17, exec i s = .next { s1 with ctx := { s1.ctx with next := some a } } ∧ a.toNat < 2 ^ 16 ∧
        ((a.toNat : Int) - target) % (2 ^ 16 : Nat) = 0
    let base : Int := s.ctx.addr.toNat
    let link := s.setS 63 (.ofNat 64 ((s.ctx.addr.toNat + s.ctx.len) % 2 ^ 16))
    let k : Word64 := .ofInt 64 (toSigned (immWidth imm) (immRaw imm))
    let test (p q : Word64) : Bool :=
      [p == q, p != q, decide (p.toInt < q.toInt), decide (q.toInt ≤ p.toInt), decide (p.toNat < q.toNat),
       decide (q.toNat ≤ p.toNat)].getD c.toNat false
    goes (.br o16) s (base + o16.toInt) ∧
    (c.toNat < 6 → if test (s.reg x) k then goes (.bxi c x imm o10) s (base + o10.toInt)
      else exec (.bxi c x imm o10) s = .next s) ∧
    (c.toNat < 6 → if test (s.reg x) (s.reg y) then goes (.bxx c x y o10) s (base + o10.toInt)
      else exec (.bxx c x y o10) s = .next s) ∧
    (match t.find? fun e => s.preg e.p.toNat ^^ (e.inv == 1) with
      | some e => goes (.btree t) s (base + e.off.toInt)
      | none => exec (.btree t) s = .next s) ∧
    (s.guard g = true → goes (.brc o16 g) s (base + o16.toInt) ∧ goes (.jal o16 g) link (base + o16.toInt) ∧
      goes (.jalr x o10 g) link ((s.sreg x.toNat).toNat + o10.toInt))

/-- R139, R212: LOOP and VLOOP, whose end offset is not 0 (R106), set their level, transfer control for a count of 0, and stop for
a body inside their own bundle. -/
def Claims.LoopSetup : Prop :=
  ∀ (s : State) (l : BitVec 1) (r : BitVec 6) (e : BitVec 10) (n : Imm 13) (src : VLoopSrc) (e8 : BitVec 8), e ≠ 0 → e8 ≠ 0 →
    n.ext.length ≤ 2 →
    let st := s.ctx.str
    let sets (i : Instr) (off cnt : Nat) : Prop :=
      let t := s.updStrm fun t => t.setLevel l.toNat
        { lc := .ofNat 32 cnt, ls := pcWrap st (s.ctx.addr.toNat + s.ctx.len), le := pcWrap st (s.ctx.addr.toNat + off) }
      if off ≤ s.ctx.len then exec i s = .next (s.trapped (s.trapOf .illegalBundle))
      else exec i s = .next (if cnt = 0 then { t with ctx := { t.ctx with next := some (pcWrap st (s.ctx.addr.toNat + off)) } } else t)
    sets (.loopReg l r e) e.toNat ((s.reg r).toNat % 2 ^ 32) ∧
    sets (.loopImm l n e) e.toNat (immRaw n) ∧
    sets (.vloop l src e8) e8.toNat
      (match src with
        | .imm k => k.toNat
        | .kreg k => (s.kreg k.toNat).toNat % 2 ^ 32)

/-- R141, R158: LRD returns the committed value; LWR and VLWR write an inactive level at once and an active one's shadow. -/
def Claims.LoopRegisterAccess : Prop :=
  ∀ (s : State) (r : BitVec 6) (l : BitVec 3) (k : BitVec 5), l.toNat < 6 →
    let level (t : State) : LoopLevel := if l.toNat < 3 then t.strm.l0 else t.strm.l1
    let other (t : State) : LoopLevel := if l.toNat < 3 then t.strm.l1 else t.strm.l0
    let x := level s
    let addr (v : Word64) : BitVec 17 := .ofNat 17 (if s.ctx.str = .v then v.toNat else v.toNat % 2 ^ 16)
    let writes (i : Instr) (v : Word64) : Prop :=
      ∃ t, exec i s = .next t ∧ other t = other s ∧ level t =
        (match l.toNat % 3, x.lc == 0 with
          | 0, true => { x with lc := v.setWidth 32 }
          | 1, true => { x with ls := addr v }
          | _, true => { x with le := addr v }
          | 0, false => { x with plc := some (v.setWidth 32) }
          | 1, false => { x with pls := some (addr v) }
          | _, false => { x with ple := some (addr v) }) ∧
        t = s.updStrm fun u => { u with l0 := t.strm.l0, l1 := t.strm.l1 }
    exec (.lrd r l) s = .next (s.setS r.toNat
      (match l.toNat % 3 with
        | 0 => x.lc.setWidth 64
        | 1 => x.ls.setWidth 64
        | _ => x.le.setWidth 64)) ∧
    writes (.lwr r l) (s.sreg r.toNat) ∧ writes (.vlwr l k) (s.kreg k.toNat)

/-- R139, R141, R158, R212: loops set up, and their registers read and written. -/
def Obligations.LoopInstructionResults : Prop := Claims.LoopSetup ∧ Claims.LoopRegisterAccess

/-- R140: the loop-end event at the retirement of a bundle that neither ended nor branched, and none at that of one that did;
level 1 is examined first, and level 0 only where level 1 does not branch back. -/
def Obligations.LoopEndEvent : Prop :=
  ∀ s : State,
    let x := s.strm
    let seq := pcWrap s.ctx.str (s.ctx.addr.toNat + s.ctx.len)
    let t := (s.retire false).strm
    let atEnd (y : LoopLevel) : Prop := y.lc ≠ 0 ∧ y.le = seq
    let cnt (y : LoopLevel) : Word32 := y.plc.getD y.lc
    let after (y : LoopLevel) : LoopLevel :=
      { lc := if 1 < (cnt y).toNat then cnt y - 1 else 0, ls := y.pls.getD y.ls, le := y.ple.getD y.le }
    ((s.ctx.fin = true ∨ s.ctx.next ≠ none) → t.l1 = x.l1 ∧ t.l0 = x.l0) ∧
    (s.ctx.fin = false → s.ctx.next = none →
      (atEnd x.l1 → 1 < (cnt x.l1).toNat → t.l1 = after x.l1 ∧ t.l0 = x.l0 ∧ t.pc = x.l1.pls.getD x.l1.ls) ∧
      (atEnd x.l1 → (cnt x.l1).toNat ≤ 1 → t.l1 = after x.l1) ∧
      (¬ atEnd x.l1 → t.l1 = x.l1) ∧
      (¬ (atEnd x.l1 ∧ 1 < (cnt x.l1).toNat) → atEnd x.l0 →
        t.l0 = after x.l0 ∧ t.pc = if 1 < (cnt x.l0).toNat then x.l0.pls.getD x.l0.ls else seq) ∧
      (¬ (atEnd x.l1 ∧ 1 < (cnt x.l1).toNat) → ¬ atEnd x.l0 → t.l0 = x.l0 ∧ t.pc = seq))

/-- R154: a load whose address is aligned and in range, and reads no bad granule, writes the extended bytes to rd. -/
def Claims.LoadResults : Prop :=
  ∀ (s : State) (rd ra : BitVec 6) (off : Imm 5) (g : BitVec 5), s.guard g = true →
    let ea (size : Nat) : Nat :=
      (.ofInt 64 ((s.sreg ra.toNat).toNat + toSigned (immWidth off) (immRaw off) * size) : Word64).toNat
    let gives (i : Instr) (size : Nat) (signed : Bool) : Prop :=
      ea size % size = 0 → ea size + size ≤ 2 ^ 21 → s.badRead (s.spad (ea size)) size = none →
        let v := s.rdLE (s.spad (ea size)) size
        exec i s = .next (s.setS rd.toNat (if signed then .ofInt 64 (toSigned (8 * size) v) else .ofNat 64 v))
    gives (.ldb rd ra off g) 1 true ∧ gives (.ldbu rd ra off g) 1 false ∧ gives (.ldh rd ra off g) 2 true ∧
    gives (.ldhu rd ra off g) 2 false ∧ gives (.ldw rd ra off g) 4 true ∧ gives (.ldwu rd ra off g) 4 false ∧
    gives (.ldd rd ra off g) 8 false

/-- R154: a store whose address is aligned and in range changes exactly its bytes of memory. -/
def Claims.StoreResults : Prop :=
  ∀ (s : State) (rs ra : BitVec 6) (off : Imm 5) (g : BitVec 5), s.guard g = true →
    let ea (size : Nat) : Nat :=
      (.ofInt 64 ((s.sreg ra.toNat).toNat + toSigned (immWidth off) (immRaw off) * size) : Word64).toNat
    let gives (i : Instr) (size : Nat) : Prop :=
      ea size % size = 0 → ea size + size ≤ 2 ^ 21 → s.badWrite (s.spad (ea size)) size = none →
        let a := s.spad (ea size)
        ∃ t, exec i s = .next t ∧ t.rdLE a size = (s.sreg rs.toNat).toNat % 2 ^ (8 * size) ∧ SameMemBut a size s t ∧
          t = { s with mem := t.mem, bad := t.bad }
    gives (.stb rs ra off g) 1 ∧ gives (.sth rs ra off g) 2 ∧ gives (.stw rs ra off g) 4 ∧ gives (.std rs ra off g) 8

/-- R154: scalar loads and stores.
Where the spec is open it states the model's own reading (log 6). -/
def Obligations.LoadAndStoreResults : Prop := Claims.LoadResults ∧ Claims.StoreResults

/-- R155: the scratchpad atomics: the new value in memory, the old one in rd, sign-extended.
Where the spec is open it states the model's own reading (log 6). -/
def Obligations.ScratchpadAtomicResults : Prop :=
  ∀ (s : State) (rd ra rb : BitVec 6) (wf : BitVec 1),
    let n := if wf = 0 then 4 else 8
    let w := 8 * n
    let ea := (s.sreg ra.toNat).toNat
    let a := s.spad ea
    let old := s.rdLE a n
    let b := (s.sreg rb.toNat).toNat % 2 ^ w
    let c := (s.sreg rd.toNat).toNat % 2 ^ w
    ea % n = 0 → ea + n ≤ 2 ^ 21 → s.badRead a n = none →
      let gives (i : Instr) (new : Nat) : Prop :=
        ∃ t, exec i s = .next (t.setS rd.toNat (.ofInt 64 (toSigned w old))) ∧ t.rdLE a n = new ∧ SameMemBut a n s t ∧
          t = { s with mem := t.mem, bad := t.bad }
      gives (.amoadd rd ra rb wf) ((old + b) % 2 ^ w) ∧ gives (.amoand rd ra rb wf) (Nat.land old b) ∧
      gives (.amoor rd ra rb wf) (Nat.lor old b) ∧ gives (.amoxor rd ra rb wf) (Nat.xor old b) ∧
      gives (.amomin rd ra rb wf) (if toSigned w old ≤ toSigned w b then old else b) ∧
      gives (.amomax rd ra rb wf) (if toSigned w old ≤ toSigned w b then b else old) ∧
      gives (.amominu rd ra rb wf) (if old ≤ b then old else b) ∧ gives (.amomaxu rd ra rb wf) (if old ≤ b then b else old) ∧
      gives (.amoswap rd ra rb wf) b ∧ gives (.amocas rd ra rb wf) (if old = c then b else old)

/-- R154, R155, R163, R190 to R195: a misaligned or out-of-range access takes its exception, in the VL slot that of the first group, and
of a per-lane atomic the first lane, that meets it, alignment before range.
Where the spec is open it states the model's own reading (log 33). -/
def Obligations.AccessTraps : Prop :=
  ∀ (s : State) (rd ra rb : BitVec 6) (off : Imm 5) (g : BitVec 5) (wf : BitVec 1), s.guard g = true →
    let at_ := (s.sreg ra.toNat).toNat
    let width : Nat := if wf = 0 then 4 else 8
    let ea (size : Nat) : Nat :=
      (.ofInt 64 ((s.sreg ra.toNat).toNat + toSigned (immWidth off) (immRaw off) * size) : Word64).toNat
    let traps (i : Instr) (a size : Nat) : Prop :=
      (a % size ≠ 0 → exec i s = .next (s.trapped (s.trapOf .misaligned 0 a))) ∧
      (a % size = 0 → 2 ^ 21 < a + size → exec i s = .next (s.trapped (s.trapOf .spadRange 0 a)))
    traps (.ldb rd ra off g) (ea 1) 1 ∧ traps (.ldbu rd ra off g) (ea 1) 1 ∧ traps (.ldh rd ra off g) (ea 2) 2 ∧
    traps (.ldhu rd ra off g) (ea 2) 2 ∧ traps (.ldw rd ra off g) (ea 4) 4 ∧ traps (.ldwu rd ra off g) (ea 4) 4 ∧
    traps (.ldd rd ra off g) (ea 8) 8 ∧
    traps (.stb rd ra off g) (ea 1) 1 ∧ traps (.sth rd ra off g) (ea 2) 2 ∧ traps (.stw rd ra off g) (ea 4) 4 ∧
    traps (.std rd ra off g) (ea 8) 8 ∧
    traps (.amoadd rd ra rb wf) at_ width ∧ traps (.amoand rd ra rb wf) at_ width ∧ traps (.amoor rd ra rb wf) at_ width ∧
    traps (.amoxor rd ra rb wf) at_ width ∧ traps (.amomin rd ra rb wf) at_ width ∧ traps (.amomax rd ra rb wf) at_ width ∧
    traps (.amominu rd ra rb wf) at_ width ∧ traps (.amomaxu rd ra rb wf) at_ width ∧
    traps (.amoswap rd ra rb wf) at_ width ∧ traps (.amocas rd ra rb wf) at_ width ∧
    (let vea (scale n : Nat) : Nat := ofInt 32 ((s.baseOf n (s.ctx.slot.vb.toNat % 16) : Int) + toSigned 7 s.immN * scale)
     let lane (i : Instr) (c : Cause) (n a : Nat) : Prop := exec i s = .next (s.trapped { s.trapOf c 0 a with lane := n })
     let slot (i : Instr) (scale : Nat) (aligned : Bool) (last : Nat → Nat) : Prop := ∀ l n r, s.groups = l ++ n :: r →
       (aligned = true → (∀ m ∈ l, vea scale m % 4 = 0) → vea scale n % 4 ≠ 0 → lane i .misaligned (16 * n) (vea scale n)) ∧
       ((aligned = true → ∀ m ∈ s.groups, vea scale m % 4 = 0) → (∀ m ∈ l, last (vea scale m) ≤ 2 ^ 21) → 2 ^ 21 < last (vea scale n) →
         lane i .spadRange (16 * n) (vea scale n))
     let tile (a : Nat) : Nat := a / 4096 * 4096 + 4096
     let each (i : Instr) : Prop := ∀ l x r, s.lanes = l ++ x :: r →
       let a (y : Nat × Nat) : Nat := (s.baseOf y.1 (s.ctx.slot.vb.toNat % 16) + s.srcA y.1 y.2) % 2 ^ 32
       ((∀ y ∈ l, a y % 4 = 0) → a x % 4 ≠ 0 → lane i .misaligned (16 * x.1 + x.2) (a x)) ∧
       ((∀ y ∈ s.lanes, a y % 4 = 0) → (∀ y ∈ l, a y + 4 ≤ 2 ^ 21) → 2 ^ 21 < a x + 4 → lane i .spadRange (16 * x.1 + x.2) (a x))
     slot .vld 64 true (· + 64) ∧ slot .vlds 4 true (· + 4) ∧ slot .vldu 1 false (· + 64) ∧ slot .vldr 0 true tile ∧
     slot .vldc 0 true tile ∧ slot .vst 64 true (· + 64) ∧ slot .vstu 1 false (· + 64) ∧ slot .vstr 0 true tile ∧
     slot .vstc 0 true tile ∧ each .vamoAdd ∧ each .vamoAnd ∧ each .vamoOr ∧ each .vamoXor ∧ each .vamoMin ∧ each .vamoMax ∧
     each .vamoMinu ∧ each .vamoMaxu ∧ each .vamoSwap ∧ each .vamoCas)

/-- R32, R168, R219, R248, R270, R383: what each word of the cluster control block reads. -/
def Claims.ClusterWords (s : State) : Prop :=
  let c := s.cl
  let e := c.me
  let f := c.flt
  let w (o : Nat) : Nat := s.creg64 0 o
  let one (b : Bool) : Nat := if b then 1 else 0
  (∀ blk o, s.creg32 blk o = s.creg64 blk (o / 8 * 8) / (if o % 8 = 0 then 1 else 2 ^ 32) % 2 ^ 32) ∧
  w 0x00 = c.taskcyc.toNat ∧ w 0x08 = c.frzcyc.toNat ∧ w 0x10 = c.ovrcyc.toNat ∧ w 0x18 = c.slicecnt.toNat ∧ w 0x20 = one c.swapped ∧
  w 0x28 = 2 ^ 8 * c.ve.rpos.toNat + c.ve.flags.toNat ∧
  (e.pass = none → w 0x30 = 2 ^ 52 * (c.m.rep % 2 ^ 12)) ∧
  (∀ p, e.pass = some p → p.phase < 4 → p.setup < 2 ^ 25 → p.outer < 2 ^ 7 → p.kstep < 2 ^ 17 →
    w 0x30 = 2 ^ 52 * (c.m.rep % 2 ^ 12) + 2 ^ 50 * p.phase + 2 ^ 25 * p.setup + 2 ^ 17 * p.outer + p.kstep) ∧
  w 0x38 = 2 ^ 8 * one e.satte + e.flags.toNat +
    2 ^ 32 * (2 ^ 16 * (e.odone % 256) + 2 ^ 15 * one e.stopped + 2 ^ 14 * one e.pass.isSome + e.nset % 512) ∧
  w 0x40 = 8 * one c.pe.lfull + 4 * one c.pe.ptab + 2 * one c.pe.psat + one c.pe.job.isSome ∧
  w 0x48 = c.pe.tests.toNat ∧ w 0x50 = c.pe.pairs.toNat ∧ (c.pe.job = none → w 0x58 = 0) ∧
  (∀ n < 4, w (0x80 + 16 * n) = (c.chan n).wmark.toNat + 2 ^ 32 * (c.chan n).nextId.toNat ∧ w (0x88 + 16 * n) = (cposOf c n).toNat) ∧
  w 0xC0 = c.xe.flags.toNat ∧
  (∀ n < 2, w (0xD0 + 8 * n) = (c.xe.cfill.get 0 (2 * n)).toNat % 2 ^ 21 + 2 ^ 32 * ((c.xe.cfill.get 0 (2 * n + 1)).toNat % 2 ^ 21)) ∧
  (∀ n < 32, w (0x100 + 8 * n) = 2 ^ 62 * (match (c.xb n).state with
    | .idle => 0
    | .armed => 1
    | .zero => 2
    | .error => 3) + (c.xb n).rem.toNat) ∧
  w 0x200 = 2 ^ 56 * f.cause.toNat + 2 ^ 48 * f.detail.toNat + 2 ^ 44 * f.str.toNat + 2 ^ 40 * f.pos.toNat + 2 ^ 32 * f.lane.toNat +
    2 ^ 16 * f.code.toNat + 2 * one f.uvs + one f.valid ∧
  w 0x208 = f.sec.toNat ∧ w 0x210 = f.ftcyc.toNat ∧ w 0x218 = 2 ^ 48 * f.cpc.toNat + 2 ^ 32 * f.mpc.toNat + 2 ^ 16 * f.xpc.toNat ∧
  w 0x220 = 2 ^ 32 * f.vrep.toNat + f.vpc.toNat ∧ w 0x228 = f.baddr.toNat ∧ w 0x230 = f.mstep.toNat ∧ w 0x238 = f.faddr.toNat ∧
  w 0x240 = 2 ^ 34 * one f.xv + 2 ^ 32 * f.ch.toNat + f.id.toNat ∧ w 0x248 = f.wm10.toNat ∧ w 0x250 = f.wm32.toNat ∧
  (∀ n < 4, w (0x258 + 8 * n) = (f.cpos.get 0 n).toNat) ∧ w 0x278 = f.pecur.toNat ∧ w 0x280 = f.mtime.toNat

/-- R14, R355, R363, R366, R368, R371, R375, R380, R388, R391, R395, R400, R421, R422, R431, R439, R440, R445, R447, R454: what the words
of the die control block read on the task's die. -/
def Claims.DieWords (s : State) : Prop :=
  let d := s.curDie
  let x := s.die d
  let w (o : Nat) : Nat := s.creg64 1 o
  let one (b : Bool) : Nat := if b then 1 else 0
  (∀ k < 2, w (0x100 + 8 * k) = ofBytes ((List.range 8).map fun i => x.clmap.get 0 (8 * k + i))) ∧ w 0x110 = x.defmask.toNat ∧
  w 0x200 = 2 ^ 10 * x.jout.toNat + 2 ^ 9 * one x.jres + 2 ^ 8 * one x.jreq + x.jslot.toNat ∧
  w 0x300 = 2 ^ 16 * x.invva.toNat ∧
  w 0x308 = 2 ^ 31 * one x.invbusy + 2 ^ 30 * one x.invall + 2 ^ 16 * x.invq.toNat + 2 * x.invkind.toNat ∧
  w 0x320 = x.ckbase.toNat ∧ w 0x330 = x.commit.length ∧ w 0x338 = x.replays.toNat ∧ w 0x340 = x.cecnt.toNat ∧
  w 0x348 = x.uecnt.toNat ∧ w 0x350 = x.evlost.toNat ∧
  (∀ j < 4, let l := x.link j
    w (0x500 + 0x20 * j) = 2 ^ 30 * l.state.toNat + 2 ^ 8 * linkPeer d j + l.width.toNat ∧ w (0x508 + 0x20 * j) = l.crc.toNat ∧
    w (0x510 + 0x20 * j) = l.retry.toNat ∧ w (0x518 + 0x20 * j) = l.retrain.toNat) ∧
  (d = 0 ∨ d = 32 →
    (let p := if d = 0 then s.port0 else s.port1
     let first : Prop := if d = 0 then s.port0.trained = true else s.port0.trained = false ∧ s.port1.trained = true
     w 0x600 = 2 ^ 36 * p.pwbase.toNat ∧ w 0x608 = p.tkalign.toNat ∧ w 0x610 = 2 ^ 12 * p.evbase.toNat ∧
     w 0x618 = 2 ^ 31 * one p.even + p.evlog2n.toNat + 2 ^ 32 * p.evtail.toNat ∧ w 0x628 = p.topo.toNat ∧
     (first → w 0x620 = p.evhead.toNat + 2 ^ 32) ∧ (¬ first → w 0x620 = p.evhead.toNat)) ∧
    w 0x700 = 2 ^ 28 * s.boot.bstate.toNat + 2 ^ 16 * s.boot.berr.toNat ∧ w 0x708 = s.boot.imgaddr.toNat ∧
    w 0x710 = s.boot.imglen.toNat ∧ w 0x720 = s.boot.attnonce.toNat ∧ w 0x728 = s.boot.attout.toNat ∧
    w 0x730 = 2 * one s.boot.atterr + one s.boot.attdone) ∧
  (∀ p < 18, let y := x.physSt p
    w (0x800 + 0x10 * p) = 2 ^ 16 * y.imeas.toNat + 2 ^ 8 * y.temp.toNat + 4 * one (s.ballast d p) + y.thr.toNat ∧
    w (0x808 + 0x10 * p) = y.thrcyc.toNat) ∧
  (∀ j < 9, let y := x.dom j
    w (0xA00 + 0x10 * j) = 2 ^ 16 * y.snapcnt.toNat + y.voff.toNat +
      2 ^ 32 * (2 ^ 31 * one y.snap + 2 ^ 30 * one y.bsat + 2 ^ 16 * y.vup.toNat + y.vlow.toNat)) ∧
  (d = 0 → w 0xB00 = 2 ^ 16 * s.freq.vnom.toNat + s.freq.fmhz.toNat +
      2 ^ 32 * (2 ^ 31 * one s.freq.ramp + 2 ^ 30 * one s.freq.pend + 2 ^ 16 * s.freq.vcur.toNat + s.freq.fcur.toNat) ∧
    w 0xB08 = s.freq.fchg.toNat ∧ w 0xB10 = 2 ^ 12 * s.gaddr.toNat + one s.goven) ∧
  (∀ n < 16, let p := x.preempt n
    w (0xC00 + 0x40 * n) = 2 ^ 7 * one p.busy + 2 ^ 6 * one p.port + 2 ^ 4 * p.out.toNat + 2 * one p.rst + one p.req ∧
    w (0xC08 + 0x40 * n) = p.addr.toNat) ∧
  (∀ n < 64, (s.job? d n = none → w (0x1000 + 8 * n) = 0) ∧ ∀ j, s.job? d n = some j → w (0x1000 + 8 * n) =
    2 ^ 63 + 2 ^ 62 * one j.locked + 2 ^ 48 * (j.queue % 256) + 2 ^ 32 * j.index.toNat + j.tag.toNat) ∧
  (∀ n < 256, let q := x.queue n
    let a := 0x10000 + 0x40 * n
    w a = q.qbase.toNat ∧
    w (a + 8) = 2 ^ 31 * one q.en + 2 ^ 30 * one q.ien + 2 ^ 6 * q.wgt.toNat + 2 ^ 4 * q.pri.toNat + q.log2n.toNat + 2 ^ 32 * q.qtail.toNat ∧
    w (a + 0x10) = q.qhead.toNat + 2 ^ 32 * (4 * one q.werr + 2 * one q.terr + one q.eerr) ∧ w (a + 0x18) = q.qcbase.toNat ∧
    w (a + 0x20) = q.qctail.toNat + 2 ^ 32 * q.qchead.toNat ∧ w (a + 0x28) = 2 ^ 12 * q.qxroot.toNat ∧ w (a + 0x30) = q.qivec.toNat)

/-- R133, R156, R168, R219, R248, R270: control, parameter and seed registers: reads of blocks 0 and 1; a write of a flag register
clears the flags written as 1 that the cycle has not set, one of MSTAT also sets SATTE, and one of any other word does nothing. The
words of the blocks read as the rules of their registers say; which value an open field has there is the model's (logs 96, 104). -/
def Obligations.ControlRegisterAccess : Prop :=
  ∀ (s : State) (r : BitVec 6) (blk : BitVec 3) (w : BitVec 13) (k : BitVec 5) (j : BitVec 2),
    let v := s.sreg r.toNat
    let kept (off i : Nat) : Bool := !v.getLsbD i || (s.cl.setNow.get 0 off).testBit i
    (blk.toNat ≤ 1 → exec (.crr r blk w) s = .next (s.setS r.toNat (.ofNat 64 (s.creg32 blk.toNat (4 * w.toNat))))) ∧
    (blk.toNat ≤ 1 → w.toNat % 2 = 0 →
      exec (.crrd r blk w) s = .next (s.setS r.toNat (.ofNat 64 (s.creg64 blk.toNat (4 * w.toNat))))) ∧
    (blk.toNat = 1 → exec (.crw r blk w) s = .next s) ∧
    (blk.toNat = 0 → w.toNat ≠ 10 → w.toNat ≠ 14 → w.toNat ≠ 16 → w.toNat ≠ 48 → exec (.crw r blk w) s = .next s) ∧
    (blk.toNat = 0 → w.toNat = 10 → ∃ t, exec (.crw r blk w) s = .next t ∧
      (∀ i < 6, t.cl.ve.flags.getLsbD i = (s.cl.ve.flags.getLsbD i && kept 0x28 i)) ∧
      t = { s with cl := { s.cl with ve := { s.cl.ve with flags := t.cl.ve.flags } } }) ∧
    (blk.toNat = 0 → w.toNat = 14 → ∃ t, exec (.crw r blk w) s = .next t ∧
      (∀ i < 6, t.cl.me.flags.getLsbD i = (s.cl.me.flags.getLsbD i && kept 0x38 i)) ∧
      t = { s with cl := { s.cl with me := { s.cl.me with satte := v.getLsbD 8, flags := t.cl.me.flags } } }) ∧
    (blk.toNat = 0 → w.toNat = 16 → exec (.crw r blk w) s = .next { s with cl := { s.cl with pe := { s.cl.pe with
      lfull := s.cl.pe.lfull && kept 0x40 3, ptab := s.cl.pe.ptab && kept 0x40 2, psat := s.cl.pe.psat && kept 0x40 1 } } }) ∧
    (blk.toNat = 0 → w.toNat = 48 → ∃ t, exec (.crw r blk w) s = .next t ∧
      (∀ i < 6, t.cl.xe.flags.getLsbD i = (s.cl.xe.flags.getLsbD i && kept 0xC0 i)) ∧
      t = { s with cl := { s.cl with xe := { s.cl.xe with flags := t.cl.xe.flags } } }) ∧
    exec (.krd r k) s = .next (s.setS r.toNat (s.kreg k.toNat)) ∧
    exec (.kwr r k) s = .next { s with cl := { s.cl with kP := s.cl.kP ++ [(k.toNat, v)] } } ∧
    exec (.seedr r j) s = .next (s.setS r.toNat (s.cl.seedk.extractLsb' (64 * j.toNat) 64)) ∧
    exec (.seedw r j) s = .next { s with cl := { s.cl with seedP := s.cl.seedP ++ [(j.toNat, v)] } } ∧
    Claims.ClusterWords s ∧ Claims.DieWords s

/-- R137: IMOV and IADD write one register, modulo 2^64, with no flag and no trap; nothing else of the state changes. -/
def Obligations.ImmediateMoveResults : Prop :=
  ∀ (s : State) (rd ra : BitVec 6) (i19 : Imm 19) (i13 : Imm 13),
    let moves (i : Instr) (v : Word64) : Prop :=
      ∃ t, exec i s = .next t ∧
        (if s.ctx.str = .c ∧ rd = 0 then t = s
         else t.reg rd = (if s.ctx.str = .c ∨ rd.toNat < 8 then v else t.reg rd) ∧ ∀ r, r ≠ rd → t.reg r = s.reg r) ∧
        (if s.ctx.str = .c then t = { s with cl := { s.cl with s := t.cl.s } } else t = s.updStrm fun u => { u with idx := t.strm.idx })
    moves (.imov rd i19) (.ofInt 64 (toSigned (immWidth i19) (immRaw i19))) ∧
    moves (.iadd rd ra i13) (.ofInt 64 ((s.reg ra).toNat + toSigned (immWidth i13) (immRaw i13)))

/-- R142, R143, R214: SEMW and VSEMW take n units where the counter holds them, and else wait; SEMP and VSEMP release n, with
SEM_OVERFLOW past 255, the units granted to later streams in the cycle having been taken first. -/
def Claims.SemaphoreResults : Prop :=
  ∀ (s : State) (m : BitVec 4) (n : BitVec 8),
    let v := (s.cl.sem.get 0 m.toNat).toNat
    let owed := ((s.cl.semP.filter fun r => r.sem == m.toNat).map (·.n)).sum
    let takes (i : Instr) : Prop :=
      (n.toNat ≤ v → ∃ t, exec i s = .next t ∧ (t.cl.sem.get 0 m.toNat).toNat = v - n.toNat ∧
        (∀ k, k ≠ m.toNat → t.cl.sem.get 0 k = s.cl.sem.get 0 k) ∧ t = { s with cl := { s.cl with sem := t.cl.sem } }) ∧
      (v < n.toNat → exec i s = .next s.waits)
    let gives (i : Instr) : Prop :=
      (v + owed + n.toNat - s.ctx.later.get 0 m.toNat ≤ 255 → exec i s =
        .next { s with cl := { s.cl with semP := s.cl.semP ++ [{ str := s.ctx.str, sem := m.toNat, n := n.toNat }] } }) ∧
      (255 < v + owed + n.toNat - s.ctx.later.get 0 m.toNat → exec i s = .next (s.trapped (s.trapOf .semOverflow)))
    takes (.semw m n) ∧ takes (.vsemw m n) ∧ gives (.semp m n) ∧ gives (.vsemp m n)

/-- R35, R144, R162: GATE and VGATE wait before their target cycle; from it on, a gate of class 0 takes one unit, one of class 1
retires when the transfers issued before it have completed, one of class 2 when its barrier is seen ZERO. One that is not ready waits
in shared mode; in locked mode it raises TIMING_MISS, or overruns where the work that it waits for is late. -/
def Claims.GateResults : Prop :=
  ∀ (s : State) (c : BitVec 3) (n : BitVec 5) (off : Imm 17) (o10 : BitVec 10),
    let retires (i : Instr) (delay : Nat) : Prop :=
      let t := s.captured (s.since + delay)
      (s.cyc < t → exec i s = .next (s.waits (some t))) ∧
      (t ≤ s.cyc →
        (c.toNat = 0 → 1 ≤ s.semVal n.toNat → exec i s = .next (s.setSem n.toNat (s.semVal n.toNat - 1))) ∧
        (c.toNat = 0 → s.semVal n.toNat = 0 → s.cl.locked = true → exec i s = .next (s.trapped (s.trapOf .timingMiss))) ∧
        (c.toNat = 0 → s.semVal n.toNat = 0 → s.cl.locked = false → exec i s = .next s.waits) ∧
        (c.toNat = 1 → (∀ x ∈ (s.cl.chan n.toNat).q, x.issue < s.since → x.done = true) → exec i s = .next s) ∧
        (∀ x ∈ (s.cl.chan n.toNat).q, c.toNat = 1 → x.issue < s.since → x.done = false →
          (s.cl.locked = false → exec i s = .next s.waits) ∧
          (∀ d, s.cl.locked = true → x.due = some d → t < d → exec i s = .next (s.trapped (s.trapOf .timingMiss))) ∧
          (s.cl.locked = true → (∀ y ∈ (s.cl.chan n.toNat).q, y.issue < s.since → y.done = false → y.due.getD 0 ≤ t) →
            exec i s = .next s.overruns)) ∧
        (c.toNat = 2 → (s.cl.xb n.toNat).state ≠ .error → s.xbZero n.toNat = false →
          (s.cl.locked = false → exec i s = .next s.waits) ∧
          (s.cl.locked = true → ((s.cl.xb n.toNat).state = .idle ∨ t < (s.cl.xb n.toNat).due.getD 0) →
            exec i s = .next (s.trapped (s.trapOf .timingMiss))) ∧
          (s.cl.locked = true → (s.cl.xb n.toNat).state ≠ .idle → (s.cl.xb n.toNat).due.getD 0 ≤ t → exec i s = .next s.overruns)) ∧
        (c.toNat = 2 → s.xbZero n.toNat = true → exec i s = .next s) ∧
        (c.toNat = 2 → (s.cl.xb n.toNat).state = .error → exec i s = .next (s.trapped (s.trapOf .xbOverrun))))
    retires (.gate c n off) (immU off).toNat ∧ retires (.vgate c n o10) o10.toNat

/-- R142 to R144, R162, R214: semaphores and gates.
What a gate of class 0 or 2 does in a cycle after its target cycle is the model's choice (log 86). -/
def Obligations.SemaphoreAndGateResults : Prop := Claims.SemaphoreResults ∧ Claims.GateResults

/-- R159, R160, R289, R309: completion waits and fences retire when what they wait for is complete; TESTX does not wait. -/
def Claims.CompletionWaitResults : Prop :=
  ∀ (s : State) (c : BitVec 2) (r : BitVec 6) (pd : BitVec 4) (xb : BitVec 5),
    let id : Word32 := (s.sreg r.toNat).setWidth 32
    let done (x : Word32) : Prop := ((s.cl.chan c.toNat).wmark - x).toNat < 2 ^ 31
    let engineIdle : Prop := s.cl.me.pass = none ∧ s.cl.me.nld = none ∧ s.cl.me.cblds = [] ∧ s.cl.me.aclrs = [] ∧
      s.cl.me.rstats = [] ∧ s.cl.me.drs = [] ∧ s.cl.pe.job = none
    let complete (scope : Nat) : Prop := ∀ ch < 4, ∀ x ∈ (s.cl.chan ch).q, x.issue < s.since → x.scope ≤ scope → x.done = true
    (done id → exec (.waitx c r) s = .next s) ∧
    (¬ done id → s.cl.locked = false → exec (.waitx c r) s = .next s.waits) ∧
    (done id → exec (.testx c r pd) s = .next (s.setP pd.toNat true)) ∧
    (¬ done id → s.cl.locked = false → exec (.testx c r pd) s = .next (s.setP pd.toNat false)) ∧
    (done ((s.reg r).setWidth 32) → exec (.xwait c r) s = .next s) ∧
    (s.xbZero xb.toNat = true → exec (.xwaitb xb) s = .next s) ∧
    (engineIdle → complete 0 → exec .fenceT s = .next s) ∧
    (engineIdle → complete 1 → exec .fenceD s = .next s) ∧
    (engineIdle → complete 2 → exec .fenceM s = .next s) ∧
    (engineIdle → complete 3 → s.cl.pcie = 2 → exec .fenceS s = .next s)

/-- R145: CHECK retires where the named task of the checking task's die image has retired, and raises CHECK_FAIL where not. -/
def Claims.CheckResults : Prop :=
  ∀ (s : State) (l : BitVec 4) (o : BitVec 12) (r : TaskRef), s.cl.task = some r →
    let retired : Prop := ∃ j ∈ s.jobs, j.lead = r.lead ∧ j.slot = r.slot ∧ ∃ t ∈ j.tasks,
      t.die = s.curDie ∧ t.ord = o.toNat ∧ t.lcl = l.toNat ∧ t.stage = .retired ∧
        (if j.locked then t.retPer < j.period else t.retClk < s.clk)
    (retired → exec (.check l o) s = .next s) ∧ (¬ retired → exec (.check l o) s = .next (s.trapped (s.trapOf .checkFail)))

/-- R145, R159, R160, R289, R309: completion waits, fences, TESTX and CHECK.
Where the spec is open it states the model's own reading (logs 34, 74). -/
def Obligations.CompletionAndCheckResults : Prop := Claims.CompletionWaitResults ∧ Claims.CheckResults

/-- R136, R146, R161, R216: NOP has no effect; END and VEND end their stream; ISWAP toggles what the next cycle fetches from. MARK,
VMARK and IFENCE retire at once, for accesses are performed in the order of their issue (the model's choice, log 6). -/
def Claims.ImmediateSyllables : Prop :=
  ∀ s : State,
    exec .nop s = .next s ∧ exec .mark s = .next s ∧ exec .vmark s = .next s ∧ exec .ifence s = .next s ∧
    exec .endStream s = .next { s with ctx := { s.ctx with fin := true } } ∧
    exec .vend s = .next { s with ctx := { s.ctx with fin := true } } ∧
    exec .iswap s = .next { s with cl := { s.cl with swapP := !s.cl.swapP } }

/-- R147, R216: BREAK, SYSCALL and VBRK take their exception with the code in the record; marked served, they act as NOP. -/
def Claims.TrapSyllables : Prop :=
  ∀ (s : State) (c : BitVec 16),
    let takes (i : Instr) (cause : Nat) : Prop :=
      (s.strm.served = true → exec i s = .next s) ∧
      (s.strm.served = false → ∃ t, exec i s = .next t ∧ (t.ctx.trap.map fun x => (x.cause, x.code)) = some (cause, c.toNat) ∧
        (s.cl.flt.valid = false → t.cl.flt.valid = true ∧ t.cl.flt.cause = .ofNat 8 cause ∧ t.cl.flt.code = c ∧
          t.cl.flt.baddr = s.ctx.addr ∧ t.cl.frz.fault = true))
    takes (.brk c) 0x17 ∧ takes (.syscall c) 0x18 ∧ takes (.vbrk c) 0x17

/-- R136, R146, R147, R161, R216: the syllables that take an exception, and those that act at once.
Where the spec is open it states the model's own reading (log 6). -/
def Obligations.TrapAndImmediateSyllables : Prop := Claims.TrapSyllables ∧ Claims.ImmediateSyllables

/-! The vector stream (06, 07). -/

/-- R178, R181: the integer operations of the VA slot, by element. -/
def Claims.VectorIntegerResults : Prop :=
  let sg (s : State) (x : Nat) : Int := toSigned s.ew x
  let imm (s : State) : Int := toSigned 7 s.immN
  ElementResult .vaAdd 2 (fun s _ _ _ a b _ => narrowRes true s.satOn s.ew (sg s a + sg s b)) ∧
  ElementResult .addu 2 (fun s _ _ _ a b _ => narrowRes false s.satOn s.ew (a + b)) ∧
  ElementResult .vaSub 2 (fun s _ _ _ a b _ => narrowRes true s.satOn s.ew (sg s a - sg s b)) ∧
  ElementResult .subu 2 (fun s _ _ _ a b _ => narrowRes false s.satOn s.ew ((a : Int) - b)) ∧
  ElementResult .vaMin 2 (fun s _ _ _ a b _ => (if sg s a ≤ sg s b then a else b, 0)) ∧
  ElementResult .vaMinu 2 (fun _ _ _ _ a b _ => (min a b, 0)) ∧
  ElementResult .vaMax 2 (fun s _ _ _ a b _ => (if sg s b ≤ sg s a then a else b, 0)) ∧
  ElementResult .vaMaxu 2 (fun _ _ _ _ a b _ => (max a b, 0)) ∧
  ElementResult .abs 2 (fun s _ _ _ a _ _ => narrowRes true s.satOn s.ew (sg s a).natAbs) ∧
  ElementResult .neg 2 (fun s _ _ _ a _ _ => narrowRes true s.satOn s.ew (-sg s a)) ∧
  ElementResult .vaAnd 2 (fun _ _ _ _ a b _ => (Nat.land a b, 0)) ∧
  ElementResult .vaOr 2 (fun _ _ _ _ a b _ => (Nat.lor a b, 0)) ∧
  ElementResult .vaXor 2 (fun _ _ _ _ a b _ => (Nat.xor a b, 0)) ∧
  ElementResult .vaAndn 2 (fun s _ _ _ a b _ => (Nat.land a (2 ^ s.ew - 1 - b), 0)) ∧
  ElementResult .vaShl 2 (fun s _ _ _ a b _ => (a * 2 ^ (b % s.ew), 0)) ∧
  ElementResult .vaShr 2 (fun s _ _ _ a b _ => (a / 2 ^ (b % s.ew), 0)) ∧
  ElementResult .vaSra 2 (fun s _ _ _ a b _ => (ofInt s.ew (sg s a / (2 ^ (b % s.ew) : Nat)), 0)) ∧
  ElementResult .vaShli 2 (fun s _ _ _ a _ _ => (a * 2 ^ (s.immN % 32 % s.ew), 0)) ∧
  ElementResult .vaShri 2 (fun s _ _ _ a _ _ => (a / 2 ^ (s.immN % 32 % s.ew), 0)) ∧
  ElementResult .vaSrai 2 (fun s _ _ _ a _ _ => (ofInt s.ew (sg s a / (2 ^ (s.immN % 32 % s.ew) : Nat)), 0)) ∧
  ElementResult .addi 2 (fun s _ _ _ a _ _ => narrowRes true s.satOn s.ew (sg s a + imm s)) ∧
  ElementResult .movi 2 (fun s _ _ _ _ _ _ => (ofInt s.ew (imm s), 0)) ∧
  ElementResult .vaCmp 2 (fun s _ _ _ a b _ =>
    (if [decide (a = b), decide (a ≠ b), decide (sg s a < sg s b), decide (sg s b ≤ sg s a), decide (a < b)].getD
      (s.immN % 8) (decide (b ≤ a)) then 2 ^ s.ew - 1 else 0, 0)) ∧
  ElementResult .qshr 2 (fun s _ _ _ a _ _ =>
    narrowRes true s.satOn s.ew (shiftRound (sg s a) (s.immN % 32) s.rnd 0)) ∧
  ElementResult .mov 2 (fun _ _ _ _ a _ _ => (a, 0)) ∧
  ElementResult .sel 2 (fun _ _ _ _ a b c => (if c ≠ 0 then a else b, 0))

/-- R182, R187: the floating-point operations of VA and VB, by element, on values of the slot's format. -/
def Claims.VectorFloatResults : Prop :=
  let fm (s : State) : Nat := s.ctx.slot.fmt.toNat
  let wd (s : State) (x : Nat) : Nat := widen (fm s) x
  let bits (s : State) : Nat := fmtBits (fm s)
  let two (op : Nat → RMode → Nat → Bool → Nat → Nat → FRes) (i : Instr) : Prop :=
    ElementResult i 4 (fun s _ _ _ a b _ => fres (op (bits s) s.rnd 0 s.satOn (wd s a) (wd s b)))
  let fused (i : Instr) (np nc : Bool) : Prop :=
    ElementResult i 4 (fun s _ _ _ a b c => fres (ffma (bits s) s.rnd 0 s.satOn np nc (wd s a) (wd s b) (wd s c)))
  two fadd .fadd ∧ two fsub .fsub ∧ two fmul .vaFmul ∧ two fmul .vbFmul ∧
  ElementResult .fmin 4 (fun s _ _ _ a b _ => fres (fminmax (bits s) false (wd s a) (wd s b))) ∧
  ElementResult .fmax 4 (fun s _ _ _ a b _ => fres (fminmax (bits s) true (wd s a) (wd s b))) ∧
  ElementResult .fabs 2 (fun s _ _ _ a _ _ => (a % 2 ^ (s.ew - 1), 0)) ∧
  ElementResult .fneg 2 (fun s _ _ _ a _ _ => (Nat.xor a (2 ^ (s.ew - 1)), 0)) ∧
  ElementResult .fcmp 4 (fun s _ _ _ a b _ =>
    let o := fcompare (wd s a) (wd s b)
    (if [decide (o = .eq), decide (o ≠ .eq), decide (o = .lt), decide (o = .lt ∨ o = .eq)].getD (s.immN % 8) (decide (o = .un))
      then 2 ^ s.ew - 1 else 0, flags6 false (cmpFlags (wd s a) (wd s b)))) ∧
  fused .fma false false ∧ fused .fms false true ∧ fused .fnma true false ∧ fused .fnms true true

/-- R183, R204, R206: conversions, special functions and random words. -/
def Claims.VectorConversionResults : Prop :=
  let at_ (s : State) : Nat := s.immN % 32
  let special (i : Instr) (fn : SpFn) : Prop :=
    ElementResult i 8 (fun s g l k a _ _ =>
      fres (spFn fn (fmtBits s.ctx.slot.fmt.toNat) s.rnd (if s.rnd = .sr then s.vxWord g l k else 0) s.satOn
        (widen s.ctx.slot.fmt.toNat a)))
  ElementResult .cvtif 4 (fun s _ _ _ a _ _ => fres (fromFixed 23 s.rnd 0 false (toSigned 32 a) 0)) ∧
  ElementResult .cvtuf 4 (fun s _ _ _ a _ _ => fres (fromFixed 23 s.rnd 0 false a 0)) ∧
  ElementResult .cvtfi 4 (fun s _ _ _ a _ _ => fres (toFixed true 32 0 s.rnd 0 a)) ∧
  ElementResult .cvtfu 4 (fun s _ _ _ a _ _ => fres (toFixed false 32 0 s.rnd 0 a)) ∧
  ElementResult .cvtqf 4 (fun s _ _ _ a _ _ => fres (fromFixed 23 s.rnd 0 false (toSigned 32 a) (at_ s))) ∧
  ElementResult .cvtfq 4 (fun s _ _ _ a _ _ => fres (toFixed true 32 (at_ s) s.rnd 0 a)) ∧
  special .exp2 .exp2 ∧ special .log2 .log2 ∧ special .rcp .rcp ∧ special .rsqrt .rsqrt ∧
  LaneResult .rand 6 (fun s g l =>
    let w := s.vxWord g l 0
    (if s.immN % 2 = 1 then (roundTo 23 .rne 0 false false (w / 256) (-24)).bits else w, 0)) ∧
  LaneResult .cvtfb 4 (fun s g l =>
    let u (k : Nat) : Nat := if s.rnd = .sr then s.vxWord g l k else 0
    let r0 := fnarrow 7 s.rnd (u 0) s.satOn (s.srcA g l)
    let r1 := fnarrow 7 s.rnd (u 1) s.satOn (s.srcB g l)
    (r0.bits + 2 ^ 16 * r1.bits, flags6 false (r0.flags ||| r1.flags))) ∧
  LaneResult .cvtbf 4 (fun s g l => (widenBF (elemOf 16 (s.srcA g l) (pick s.ctx.slot.swa.toNat 2 (s.immN % 2))), 0)) ∧
  LaneResult .fcvtq 4 (fun s g l =>
    fres (toFixed true 32 (at_ s) s.rnd (if s.rnd = .sr then s.vxWord g l 0 else 0) (s.srcA g l))) ∧
  LaneResult .cbd 4 (fun s g l =>
    let entry (k : Nat) : Nat :=
      ((s.cl.me.cb.get {} (s.immN / 4 % 4)).entries.get 0 (s.srcA g l / 2 ^ (4 * (2 * (s.immN % 4) + k)) % 16)).toNat
    (entry 0 + entry 1 * 2 ^ 16, 0))

/-- R182, R183, R187, R204, R206: floating point, conversions, special functions and random words.
Where the spec is open it states the model's own reading (logs 7, 16, 18, 19). -/
def Obligations.VectorFloatAndConversionResults : Prop := Claims.VectorFloatResults ∧ Claims.VectorConversionResults

/-- R185, R186, R188: the multiplies of VB. -/
def Claims.VectorMultiplyResults : Prop :=
  let sg (s : State) (x : Nat) : Int := toSigned s.ew x
  ElementResult .vbMul 3 (fun s _ _ _ a b _ => narrowRes true s.satOn s.ew (sg s a * sg s b)) ∧
  ElementResult .mulu 3 (fun s _ _ _ a b _ => narrowRes false s.satOn s.ew (a * b)) ∧
  ElementResult .vbMulh 3 (fun s _ _ _ a b _ => (ofInt s.ew (sg s a * sg s b / (2 ^ s.ew : Nat)), 0)) ∧
  ElementResult .vbMulhu 3 (fun s _ _ _ a b _ => (a * b / 2 ^ s.ew, 0)) ∧
  ElementResult .mad 3 (fun s _ _ _ a b c => narrowRes true s.satOn s.ew (sg s a * sg s b + sg s c)) ∧
  ElementResult .madu 3 (fun s _ _ _ a b c => narrowRes false s.satOn s.ew (a * b + c)) ∧
  ElementResult .mulq 3 (fun s _ _ _ a b _ =>
    narrowRes true s.satOn s.ew (shiftRound (sg s a * sg s b) (s.immN % 32) s.rnd 0)) ∧
  ElementResult .madq 3 (fun s _ _ _ a b c => narrowRes true s.satOn s.ew
    (shiftRound (sg s a * sg s b + sg s c * (2 ^ (s.immN % 32) : Nat)) (s.immN % 32) s.rnd 0)) ∧
  LaneResult .dot 3 (fun s g l => narrowRes true s.satOn 32 (toSigned 32 (s.srcC g l) +
    ((List.range (32 / s.ew)).map fun k =>
      sg s (elemOf s.ew (s.srcA g l) (pick s.ctx.slot.swa.toNat (32 / s.ew) k)) *
      sg s (elemOf s.ew (s.srcB g l) (pick s.ctx.slot.swb.toNat (32 / s.ew) k))).sum)) ∧
  LaneResult .dotu 3 (fun s g l => narrowRes false s.satOn 32 ((s.srcC g l +
    ((List.range (32 / s.ew)).map fun k =>
      elemOf s.ew (s.srcA g l) (pick s.ctx.slot.swa.toNat (32 / s.ew) k) *
      elemOf s.ew (s.srcB g l) (pick s.ctx.slot.swb.toNat (32 / s.ew) k)).sum : Nat))) ∧
  LaneResult .fdot2 5 (fun s g l =>
    let el (sw x k : Nat) : Nat := widenBF (elemOf 16 x (pick sw 2 k))
    let p (k : Nat) : FRes :=
      fmul 23 .rne 0 false (el s.ctx.slot.swa.toNat (s.srcA g l) k) (el s.ctx.slot.swb.toNat (s.srcB g l) k)
    let t := treeSum [(p 0).bits, (p 1).bits]
    let r := fadd 23 s.rnd 0 s.satOn t.bits (s.srcC g l)
    (r.bits, flags6 false (r.flags ||| t.flags ||| (p 0).flags ||| (p 1).flags)))

/-- R178, R181, R185, R186, R188: integer operations and multiplies by element.
Where the spec is open it states the model's own reading (logs 16, 17). -/
def Obligations.VectorIntegerAndMultiplyResults : Prop := Claims.VectorIntegerResults ∧ Claims.VectorMultiplyResults

/-- R184: masks, stage predicates, base registers and RPOS. -/
def Claims.VectorControlSlotResults : Prop :=
  (∀ s : State, ∃ t, exec .mset s = .next t ∧ AddsResults s t (s.lanes.map fun x =>
    { dest := .mask x.1 (s.immN % 8) x.2, val := (if s.srcA x.1 x.2 = 0 then 0 else 1), due := s.cyc + 1 })) ∧
  LaneResult .mget 2 (fun s g l => (if (s.maskOf g (s.immN % 8)).testBit l then 2 ^ 32 - 1 else 0, 0)) ∧
  (∀ s : State, ∃ t, exec .qset s = .next t ∧ AddsResults s t (s.groups.flatMap fun g =>
    [{ dest := .q g, val := .ofNat 32 (s.srcA g 0 % 256), due := s.cyc + 1 },
     { dest := .qin g, val := .ofNat 32 (s.srcA g 0 / 256 % 2), due := s.cyc + 1 }])) ∧
  LaneResult .qget 2 (fun s g _ => (s.qOf g + if s.cl.ve.qin.toNat.testBit g then 256 else 0, 0)) ∧
  (∀ s : State, ∃ t, exec .bwr s = .next t ∧ AddsResults s t (s.groups.map fun g =>
    { dest := .base g (s.immN % 16), val := .ofNat 32 (s.srcA g 0), due := s.cyc + 1 })) ∧
  LaneResult .brd 2 (fun s g _ => (s.baseOf g (s.immN % 16), 0)) ∧
  (∀ s : State, ∃ t, exec .rpw s = .next t ∧ AddsResults s t (if s.ctx.gen = 0 then [] else
    [{ dest := .rpos, val := .ofNat 32 (s.immN % 32), due := s.cyc + 1 }]))

/-- R199, R200, R203: permutes and moves.
Where the spec is open it states the model's own reading (log 16). -/
def Obligations.VectorPermuteResults : Prop :=
  let amount (s : State) (g l : Nat) : Nat := if s.immN / 64 % 2 = 1 then s.immN % 64 else s.srcC g l % 64
  let pair (s : State) (g l : Nat) : Nat := s.srcA g l * 2 ^ 32 + s.srcB g l
  let e (s : State) : Nat := 32 / s.ew
  LaneResult .perm 3 (fun s g l =>
    let c := s.srcC g l % 32
    (if c < 16 then s.srcA g c else s.srcB g (c - 16), 0)) ∧
  LaneResult .lrot 2 (fun s g l => (s.srcA g ((l + s.immN % 16) % 16), 0)) ∧
  LaneResult .fshl 2 (fun s g l => (pair s g l * 2 ^ amount s g l % 2 ^ 64 / 2 ^ 32, 0)) ∧
  LaneResult .fshr 2 (fun s g l => (pair s g l / 2 ^ amount s g l % 2 ^ 32, 0)) ∧
  LaneResult .psum 4 (fun s g l => narrowRes true s.satOn 32
    (((List.range (l + 1)).filter (s.laneOn g)).map fun m => toSigned 32 (s.srcA g m)).sum) ∧
  LaneResult .clz 2 (fun s g l => (32 - (if s.srcA g l = 0 then 0 else Nat.log2 (s.srcA g l) + 1), 0)) ∧
  LaneResult .popc 2 (fun s g l => (((List.range 32).filter (s.srcA g l).testBit).length, 0)) ∧
  LaneResult .exte 2 (fun s g l =>
    let x := elemOf s.ew (s.srcA g l) (pick s.ctx.slot.swa.toNat (e s) (s.immN % 8))
    (if s.immN / 8 % 2 = 1 then ofInt 32 (toSigned s.ew x) else x, 0)) ∧
  LaneResult .inse 2 (fun s g l =>
    let sg := decide (s.immN / 8 % 2 = 1)
    let n := narrowRes sg s.satOn s.ew (if sg then toSigned 32 (s.srcA g l) else s.srcA g l)
    (joinElems s.ew (fun j => if j = s.immN % 8 then n.1 else elemOf s.ew (s.srcC g l) (pick s.ctx.slot.swc.toNat (e s) j)) (e s),
      n.2)) ∧
  LaneResult .xcopy 6 (fun s g l => (s.srcA ((g + s.immN % 8) % 8) l, 0)) ∧
  LaneResult .xbc 6 (fun s _ l => (s.srcA (s.immN % 8) l, 0))

/-- R201, R202: the reductions within a group and across the groups. -/
def Obligations.VectorReductionResults : Prop :=
  let inGroup (s : State) (id g : Nat) : List Nat := (List.range 16).map fun l => if s.laneOn g l then s.srcA g l else id
  let across (s : State) (id : Nat) : List Nat := (List.range 8).map fun g => if s.laneOn g 0 then s.srcA g 0 else id
  let red (i j : Instr) (n m id : Nat) (f : State → List Nat → VRes) : Prop :=
    LaneResult i n (fun s g _ => f s (inGroup s id g)) ∧ LaneResult j m (fun s _ _ => f s (across s id))
  let least (lt : Nat → Nat → Bool) (l : List Nat) (id : Nat) : VRes := (l.foldl (fun a b => if lt b a then b else a) id, 0)
  red .redAdd .xredAdd 4 8 0 (fun s l => narrowRes true s.satOn 32 (l.map (toSigned 32)).sum) ∧
  red .redMin .xredMin 4 8 (2 ^ 31 - 1) (fun _ l => least (fun a b => toSigned 32 a < toSigned 32 b) l (2 ^ 31 - 1)) ∧
  red .redMax .xredMax 4 8 (2 ^ 31) (fun _ l => least (fun a b => toSigned 32 b < toSigned 32 a) l (2 ^ 31)) ∧
  red .redMinu .xredMinu 4 8 (2 ^ 32 - 1) (fun _ l => least (fun a b => a < b) l (2 ^ 32 - 1)) ∧
  red .redMaxu .xredMaxu 4 8 0 (fun _ l => least (fun a b => b < a) l 0) ∧
  red .redAnd .xredAnd 4 8 (2 ^ 32 - 1) (fun _ l => (l.foldl Nat.land (2 ^ 32 - 1), 0)) ∧
  red .redOr .xredOr 4 8 0 (fun _ l => (l.foldl Nat.lor 0, 0)) ∧
  red .redXor .xredXor 4 8 0 (fun _ l => (l.foldl Nat.xor 0, 0)) ∧
  red .redFadd .xredFadd 6 10 0 (fun _ l => fres (treeSum l)) ∧
  red .redFmin .xredFmin 6 10 0x7F800000 (fun _ l => RedOp.fmin.apply false l) ∧
  red .redFmax .xredFmax 6 10 0xFF800000 (fun _ l => RedOp.fmax.apply false l)

/-- R190 to R193: loads whose enabled groups are aligned and in range, and whose lanes meet no bad granule.
Where the spec is open it states the model's own reading (log 6). -/
def Obligations.VectorLoadResults : Prop :=
  ∀ s : State,
    let ea (scale g : Nat) : Nat := ofInt 32 ((s.baseOf g (s.ctx.slot.vb.toNat % 16) : Int) + toSigned 7 s.immN * scale)
    let tile (a i j : Nat) : Nat := a / 4096 * 4096 + 128 * (i % 32) + 4 * (j % 32)
    let n : Int := toSigned 7 s.immN
    let loads (i : Instr) (scale : Nat) (ok : Nat → Prop) (addr : Nat → Nat → Nat) : Prop :=
      (∀ g, s.groupOn g = true → ok (ea scale g)) →
      (∀ g l, s.laneOn g l = true → s.badRead (s.spad (addr (ea scale g) l)) 4 = none) →
      ∃ t, exec i s = .next t ∧ AddsResults s t (s.lanes.map fun x =>
        s.laneLands 5 (.ofNat 32 (s.rdLE (s.spad (addr (ea scale x.1) x.2)) 4)) 0 x.1 x.2)
    let inTile (a : Nat) : Prop := a % 4 = 0 ∧ a / 4096 * 4096 + 4096 ≤ 2 ^ 21
    loads .vld 64 (fun a => a % 4 = 0 ∧ a + 64 ≤ 2 ^ 21) (fun a l => a + 4 * l) ∧
    loads .vlds 4 (fun a => a % 4 = 0 ∧ a + 4 ≤ 2 ^ 21) (fun a _ => a) ∧
    loads .vldu 1 (fun a => a + 64 ≤ 2 ^ 21) (fun a l => a + 4 * l) ∧
    loads .vldr 0 inTile (fun a l => tile a (ofInt 5 ((a / 128 % 32 : Nat) + n)) (a / 4 % 32 + l)) ∧
    loads .vldc 0 inTile (fun a l => tile a (a / 128 % 32 + l) (ofInt 5 ((a / 4 % 32 : Nat) + n)))

/-- R191 to R195: stores and per-lane atomics act lane by lane, in ascending engine lane, at the addresses of R191, R192,
R193 and R195; memory outside the accessed words is unchanged. -/
def Claims.VectorStoreResults : Prop :=
  ∀ s : State,
    let ea (scale g : Nat) : Nat := ofInt 32 ((s.baseOf g (s.ctx.slot.vb.toNat % 16) : Int) + toSigned 7 s.immN * scale)
    let tile (a i j : Nat) : Nat := a / 4096 * 4096 + 128 * (i % 32) + 4 * (j % 32)
    let n : Int := toSigned 7 s.immN
    let stores (i : Instr) (scale : Nat) (ok : Nat → Prop) (addr : Nat → Nat → Nat) (len : Nat → Nat → Nat) : Prop :=
      let at_ (x : Nat × Nat) : Nat := s.spad (addr (ea scale x.1) x.2)
      (∀ g, s.groupOn g = true → ok (ea scale g)) →
      (∀ g l, s.laneOn g l = true → s.badWrite (at_ (g, l)) (len g l) = none) →
      ∃ t, exec i s = .next t ∧
        t = s.lanes.foldl (fun u x => u.store (at_ x) ((bytesOf (s.srcA x.1 x.2) 4).take (len x.1 x.2))) s ∧
        ∀ a, (∀ x ∈ s.lanes, a < at_ x ∨ at_ x + len x.1 x.2 ≤ a) → t.rd8 a = s.rd8 a
    let inTile (a : Nat) : Prop := a % 4 = 0 ∧ a / 4096 * 4096 + 4096 ≤ 2 ^ 21
    stores .vst 64 (fun a => a % 4 = 0 ∧ a + 64 ≤ 2 ^ 21) (fun a l => a + 4 * l) (fun _ _ => 4) ∧
    stores .vstr 0 inTile (fun a l => tile a (ofInt 5 ((a / 128 % 32 : Nat) + n)) (a / 4 % 32 + l)) (fun _ _ => 4) ∧
    stores .vstc 0 inTile (fun a l => tile a (a / 128 % 32 + l) (ofInt 5 ((a / 4 % 32 : Nat) + n))) (fun _ _ => 4) ∧
    stores .vstu 1 (fun a => a + 64 ≤ 2 ^ 21) (fun a l => a + 4 * l)
      (fun g l => min 4 (min (s.srcC g 0 % 128) 64 - 4 * l))

def Claims.VectorAtomicResults : Prop :=
  ∀ s : State,
    let ea (x : Nat × Nat) : Nat := (s.baseOf x.1 (s.ctx.slot.vb.toNat % 16) + s.srcA x.1 x.2) % 2 ^ 32
    let vd := s.ctx.slot.vd.toNat
    let acts (i : Instr) (new : (old c d : Nat) → Nat) : Prop :=
      (∀ x ∈ s.lanes, ea x % 4 = 0 ∧ ea x + 4 ≤ 2 ^ 21 ∧ s.badRead (s.spad (ea x)) 4 = none) →
      ∃ (t : State) (mem : Nat → State), exec i s = .next (t.pendAdd 9 (s.lanes.zipIdx.map fun e =>
          (.lane e.1.1 (s.phys vd) e.1.2, .ofNat 32 ((mem e.2).rdLE (s.spad (ea e.1)) 4), 0))) ∧
        mem 0 = s ∧ t = mem s.lanes.length ∧
        (∀ k x, s.lanes[k]? = some x → mem (k + 1) = (mem k).store (s.spad (ea x))
          (bytesOf (new ((mem k).rdLE (s.spad (ea x)) 4) (s.srcC x.1 x.2) (s.vlane x.1 vd x.2)) 4)) ∧
        ∀ a, (∀ x ∈ s.lanes, a < s.spad (ea x) ∨ s.spad (ea x) + 4 ≤ a) → t.rd8 a = s.rd8 a
    let sg (x : Nat) : Int := toSigned 32 x
    acts .vamoAdd (fun o c _ => o + c) ∧ acts .vamoAnd (fun o c _ => Nat.land o c) ∧ acts .vamoOr (fun o c _ => Nat.lor o c) ∧
    acts .vamoXor (fun o c _ => Nat.xor o c) ∧ acts .vamoMin (fun o c _ => if sg o ≤ sg c then o else c) ∧
    acts .vamoMax (fun o c _ => if sg o ≤ sg c then c else o) ∧ acts .vamoMinu (fun o c _ => min o c) ∧
    acts .vamoMaxu (fun o c _ => max o c) ∧ acts .vamoSwap (fun _ c _ => c) ∧
    acts .vamoCas (fun o c d => if o = d then c else o)

/-- R190 to R195: vector stores and atomics.
Where the spec is open it states the model's own reading (log 6). -/
def Obligations.VectorStoreAndAtomicResults : Prop := Claims.VectorStoreResults ∧ Claims.VectorAtomicResults

/-- R208, R209, R213, R215: the VC slot's branches, bank loans and row statistics. -/
def Claims.VectorControlResults : Prop :=
  ∀ (s : State) (o17 : BitVec 17) (j : BitVec 3) (cnd : BitVec 2) (o13 : BitVec 13) (k : BitVec 2) (vd : BitVec 6),
    let lent := s.cl.ve.lent.toNat
    let on (t : State) (b : BitVec 4) : State := { t with cl := { t.cl with ve := { t.cl.ve with lent := b } } }
    let goes (i : Instr) (off : Int) : Prop := ∃ a : BitVec 17,
      exec i s = .next { s with ctx := { s.ctx with next := some a } } ∧
      ((a.toNat : Int) - (s.ctx.addr.toNat + off)) % (2 ^ (if s.ctx.str = .v then 17 else 16) : Nat) = 0
    let met : Prop := match cnd.toNat with
      | 0 => ∃ g < 8, s.groupOn g = true ∧ s.maskOf g j.toNat ≠ 0
      | 1 => ∀ g < 8, s.groupOn g = true → s.maskOf g j.toNat = 0xFFFF
      | _ => ∀ g < 8, s.groupOn g = true → s.maskOf g j.toNat = 0
    goes (.vbr o17) o17.toInt ∧
    (met → goes (.vbrm j cnd o13) o13.toInt) ∧ (¬ met → exec (.vbrm j cnd o13) s = .next s) ∧
    (lent.testBit k.toNat = false → s.bankPending k.toNat = false →
      ∃ b : BitVec 4, exec (.blend k) s = .next (on s b) ∧ ∀ n, b.toNat.testBit n = (lent.testBit n || decide (n = k.toNat))) ∧
    (lent.testBit k.toNat = true → bankBusy s.cl.me k.toNat s.cyc = false →
      ∃ b : BitVec 4, exec (.bret k) s = .next (on s b) ∧ ∀ n, b.toNat.testBit n = (lent.testBit n && decide (n ≠ k.toNat))) ∧
    (lent.testBit k.toNat = true → bankBusy s.cl.me k.toNat s.cyc = true → exec (.bret k) s = .next s.waits) ∧
    (lent.testBit k.toNat = true ∨ s.bankPending k.toNat = true →
      exec (.blend k) s = .next (s.trapped (s.trapOf .illegalBundle))) ∧
    (lent.testBit k.toNat = false → exec (.bret k) s = .next (s.trapped (s.trapOf .illegalBundle))) ∧
    (∀ r q, s.cl.ve.rsq = r :: q → r.ready = true → s.lentReg vd.toNat = false → s.lentReg (vd.toNat + 1) = false →
      s.lentReg (vd.toNat + 2) = false → ∃ t, exec (.statrx vd) s = .next t ∧ t.cl.ve.rsq = q ∧
        t.cl.ve.pend = s.cl.ve.pend ++ (engineLanes.flatMap fun x =>
          [r.mx, r.sum, r.ssq].zipIdx.map fun e =>
            { dest := .lane x.1 (s.phys (vd.toNat + e.2)) x.2
              val := if 16 * x.1 + x.2 < r.rows then SMap.get 0 e.1 (16 * x.1 + x.2) else 0
              due := s.cyc + 2 }) ∧
        t = { s with cl := { s.cl with ve := { s.cl.ve with rsq := q, pend := t.cl.ve.pend } } })

/-- R184, R208, R209, R213, R215: masks, predicates, bases, and the VC slot.
Where the spec is open it states the model's own reading (log 78). -/
def Obligations.VectorControlAndMaskResults : Prop := Claims.VectorControlSlotResults ∧ Claims.VectorControlResults

/-! The matrix stream and the pair engine (08, 09). -/

/-- R221 to R223, R228, R240, R261: the header words that bind or configure: the sub-unit's current operation is set, and what
the word names is bound, or is to be written at the end of the repetition (R220). -/
def Claims.MatrixBindingResults : Prop :=
  ∀ (s : State) (u : SubUnit) (xr : BitVec 6) (rm1 : BitVec 8) (fmt : BitVec 4) (rnd cb : BitVec 2) (pitch : BitVec 16)
    (sel : BitVec 5) (src : CfgSrc) (off : BitVec 1),
    let e := s.cl.me
    let gives (k : Nat) (i : Instr) (base addr : Nat) (f : MEng → MEng) : Prop := exec i s = .next { s with
      cl := { s.cl with me := f { e with cur := e.cur.set {} k { op := some i, base := base, addr := addr } } } }
    let x := (s.reg xr).toNat
    let v : Word64 := match src with
      | .reg r => s.reg r
      | .imm n => .ofInt 64 n.toInt
    let bound (kind fm rd c : Nat) : WestBind :=
      { kind := kind, base := x, eps := 0, rows := rm1.toNat + 1, pitch := if pitch = 0 then 65536 else pitch.toNat
        fmt := fm, rnd := rd, cb := c, skw := e.skw }
    let west (kind fm rd c : Nat) (m : MEng) : MEng := { m with west := some (bound kind fm rd c) }
    let v32 : Word32 := v.setWidth 32
    exec (.midle u) s = .next { s with cl := { s.cl with me := { e with cur := e.cur.set {} u.num {} } } } ∧
    gives 0 (.wcode xr rm1 pitch) x 0 (west 0 0 0 0) ∧
    gives 0 (.wcvt xr rm1 fmt rnd pitch) x 0 (west 1 fmt.toNat rnd.toNat 0) ∧
    gives 0 (.wc4 xr rm1 cb pitch) x 0 (west 2 0 0 cb.toNat) ∧
    ((sel = 0 → v32.toNat < 2 ^ 7 ∧ v32.toNat % 8 ≠ 0 ∧ v32.toNat / 8 % 8 ≤ v32.toNat % 8) →
      gives 2 (.mcfg sel src) v.toNat 0 fun m => { m with
        cfgP := m.cfgP ++ [(sel.toNat, if sel = 1 ∨ sel = 2 then v32 &&& 0x7F7F else v32)] }) ∧
    gives 5 (.pcfg sel src) v.toNat 0 (fun m => { m with pcfgP := m.pcfgP ++ [(sel.toNat, v)] }) ∧
    gives 6 (.skw xr off) 0 (if off = 1 then 0 else x) (fun m => { m with
      bindP := m.bindP ++ [(true, if off = 1 then none else some x)] }) ∧
    gives 6 (.skn xr off) 0 (if off = 1 then 0 else x) (fun m => { m with
      bindP := m.bindP ++ [(false, if off = 1 then none else some x)] })

/-- R218, R220, R228, R240, R246, R247, R261: at the end of a repetition each configuration register and skep binding takes the last
value that the repetition wrote to it, a PCFG register the bits that it has; the others stay, and nothing is left to write. -/
def Claims.ConfigurationCommitted : Prop :=
  ∀ s : State,
    let t := s.commitCfg
    let e := s.cl.me
    let width (n : Nat) : Nat := [32, 32, 32, 3, 64, 21, 21, 21, 18, 21, 21, 1].getD n 21
    let bound (west : Bool) (old new : Option Nat) : Prop :=
      ((∀ w ∈ e.bindP, w.1 ≠ west) → new = old) ∧
      ∀ a l b, e.bindP = a ++ (west, l) :: b → (∀ w ∈ b, w.1 ≠ west) → new = l
    (∀ n, ((∀ w ∈ e.cfgP, w.1 ≠ n) → t.mcf n = s.mcf n) ∧
      ∀ a v b, e.cfgP = a ++ (n, v) :: b → (∀ w ∈ b, w.1 ≠ n) → t.mcf n = v) ∧
    (∀ n, ((∀ w ∈ e.pcfgP, w.1 ≠ n) → t.cl.pe.cf n = s.cl.pe.cf n) ∧
      ∀ a v b, e.pcfgP = a ++ (n, v) :: b → (∀ w ∈ b, w.1 ≠ n) → t.cl.pe.cf n = v.toNat % 2 ^ width n) ∧
    bound true e.skw t.cl.me.skw ∧ bound false e.skn t.cl.me.skn ∧
    t = { s with cl := { s.cl with
      me := { e with cfg := t.cl.me.cfg, skw := t.cl.me.skw, skn := t.cl.me.skn, cfgP := [], pcfgP := [], bindP := [] }
      pe := { s.cl.pe with cfg := t.cl.pe.cfg } } }

/-- R225, R227, R229, R230, R233 to R239: the header words that start engine work, when their issue conditions hold and none of
their checks fails; MWAIT delivers PSTAT. -/
def Obligations.MatrixIssueResults : Prop :=
  ∀ (s : State) (xr : BitVec 6) (kind : BitVec 2) (fmt : BitVec 4) (rnd cb : BitVec 2) (nm1 km1 : BitVec 16) (ssel : BitVec 1)
    (stop : BitVec 2) (c0 c1 : BitVec 8) (r0 : BitVec 10) (rn : BitVec 7) (b : BitVec 4),
    let e := s.cl.me
    let x := (s.reg xr).toNat
    let cur (k : Nat) (i : Instr) (base addr : Nat) : MEng :=
      { e with cur := e.cur.set {} k { op := some i, base := base, addr := addr } }
    let gives (i : Instr) (m : MEng) : Prop := exec i s = .next { s with cl := { s.cl with me := m } }
    (let i : Instr := .nld xr kind fmt rnd cb nm1
     let w := kindWidth kind.toNat fmt.toNat
     e.nld = none → (w = 4 ∨ x % (w / 8) = 0) → lastByte x nm1.toNat w < 2 ^ 21 →
     (∀ o, kind ≠ 0 → e.skn = some o → o % 16 = 0 ∧ o + 16 + 8 * s.rdLE (s.spad o) 4 ≤ 2 ^ 21) →
     (kind = 1 → scaleOk (s.mcf 12) = true) →
     gives i { cur 1 i x 0 with nld := some { op := i, base := x, eps := 0, cfg := e.cfg, key := s.cl.seedk, skn := e.skn
                                              issue := s.cyc, baddr := s.ctx.addr } }) ∧
    (let i : Instr := .cbld xr cb ssel
     e.pass = none → e.nld = none → x % 2 = 0 → x ≤ 0x1FFFE0 → scaleOk (s.mcf (11 + ssel.toNat)) = true →
     gives i { cur 1 i x 0 with cblds := e.cblds ++ [{ cb := cb.toNat, issue := s.cyc, base := x, slen := e.cf 0
                                                       scale := s.mcf (11 + ssel.toNat), due := s.cyc + 4
                                                       baddr := s.ctx.addr }] }) ∧
    (let i : Instr := .pass stop c0 c1 xr km1
     e.pass = none → (∀ c ∈ s.passChecks (km1.toNat + 1) (c1.toNat - c0.toNat + 1) (x % 2 ^ 16), c.1 = false) →
     gives i { cur 2 i x (x % 2 ^ 16) with
       passes := e.passes + 1
       pass := some { id := e.passes + 1, cfg := e.cfg, key := s.cl.seedk, west := e.west, c0 := c0.toNat, c1 := c1.toNat
                      k := km1.toNat + 1, k0 := x % 2 ^ 16, stop := stop.toNat, issue := s.cyc, baddr := s.ctx.addr
                      start := s.cyc } }) ∧
    (mpeBusy s.cl s.cyc 3 = false → exec (.mwait xr) s = .next
      (({ s with cl := { s.cl with me := cur 2 (.mwait xr) 0 0 } } : State).setReg xr (.ofNat 64 (pstatOf s.cl)))) ∧
    (let i : Instr := .aclr b
     e.banksFree [b.toNat] = true →
     gives i { cur 3 i 0 b.toNat with aclrs := e.aclrs ++ [{ op := i, addr := b.toNat, issue := s.cyc, due := s.cyc + 16
                                                             baddr := s.ctx.addr }] }) ∧
    (let i : Instr := .rstat r0 rn c0 c1
     let n := rn.toNat + 1
     e.banksFree ((List.range 16).filter fun k => r0.toNat / 64 ≤ k ∧ k ≤ (r0.toNat + rn.toNat) / 64) = true →
     s.cl.ve.rsq.length < 4 → r0.toNat + n ≤ 1024 →
     exec i s = .next { s with cl := { s.cl with
       me := { cur 4 i 0 r0.toNat with
         rsId := e.rsId + 1
         rstats := e.rstats ++ [{ op := i, addr := r0.toNat, issue := s.cyc, id := e.rsId + 1, baddr := s.ctx.addr
                                  due := s.cyc + 6 + (n * (c1.toNat - c0.toNat + 1) + 1023) / 1024 }] }
       ve := { s.cl.ve with rsq := s.cl.ve.rsq ++ [{ id := e.rsId + 1, rows := n }] } } })

/-- R226: NSWP is major 0x17 with [24:0] zero; with no pass and no NLD in flight it exchanges the two planes at once: each byte of
one reads as that of the other did, every other byte as before; with one in flight it waits and moves nothing. -/
def Obligations.PlaneSwapResult : Prop :=
  ∀ s : State, s.memOk →
    (∀ w v, decodeSub .en w v = .ok .nswp ↔ majorOf w = 0x17 ∧ w % 2 ^ 25 = 0) ∧
    (s.cl.me.pass = none → s.cl.me.nld = none → ∃ t, exec .nswp s = .next t ∧ t.memOk ∧
      let a := winBase s.cur + offPlane
      let b := winBase s.cur + offShadow
      (∀ k < 65536, t.rd8 (a + k) = s.rd8 (b + k) ∧ t.rd8 (b + k) = s.rd8 (a + k)) ∧ SameMemBut a 131072 s t ∧
      t = { s with mem := t.mem, bad := t.bad, cl := { s.cl with me := { s.cl.me with cur := t.cl.me.cur } } }) ∧
    ((s.cl.me.pass ≠ none ∨ s.cl.me.nld ≠ none) → ∃ t, exec .nswp s = .next t ∧ t.ctx.wait = true ∧ t.mem = s.mem)

/-- R234 to R236: the drains: what a DRN or a DRV captures at its issue, SATTE as it stood at the start of the repetition; a drain of
a pass that has not ended starts at the pass's end. -/
def Claims.DrainIssueResults : Prop :=
  ∀ (s : State) (a : BitVec 6) (acc am pool se half : BitVec 1) (xr : BitVec 6) (sem : BitVec 4) (k : BitVec 2) (c0 : BitVec 8),
    let e := s.cl.me
    let x := (s.reg xr).toNat
    let adds (i : Instr) (addr : Nat) (word : Nat) : Prop := ∃ (t : State) (j : DrJob), exec i s = .next t ∧
      t = { s with cl := { s.cl with me := { e with
        cur := e.cur.set {} 3 { op := some i, base := 0, addr := addr }, drs := e.drs ++ [j] } } } ∧
      j.op = i ∧ j.addr = addr ∧ j.pass = e.passes ∧ j.issue = s.cyc ∧ j.satte = s.ctx.satte.getD e.satte ∧ j.row = 0 ∧ j.read = false ∧
      j.word = word ∧ (j.start = none ↔ ∃ p, e.pass = some p ∧ p.id = e.passes)
    (e.banksFree [a.toNat % 16] = true → (am = 1 → x % 4 = 0 ∧ x < if pool = 1 then 2 ^ 23 else 2 ^ 21) →
      adds (.drn a acc am pool xr se sem) a.toNat
        (if pool = 1 then s.cur / 16 * 2 ^ 45 + 0x4000000 + x else s.spad x)) ∧
    (s.cl.ve.lent.toNat.testBit k.toNat = true → s.ctx.ret.toNat.testBit k.toNat = false →
      adds (.drv k half c0) c0.toNat 0) ∧
    ((s.cl.ve.lent.toNat.testBit k.toNat = false ∨ s.ctx.ret.toNat.testBit k.toNat = true) →
      ∃ t, exec (.drv k half c0) s = .next t ∧ t.ctx.trap.map (·.cause) = some Cause.illegalBundle.code)

/-- R220: an operation whose issue condition does not hold waits. -/
def Claims.MatrixIssueWaits : Prop :=
  ∀ (s : State) (xr : BitVec 6) (kind : BitVec 2) (fmt : BitVec 4) (rnd cb stop : BitVec 2) (n : BitVec 16) (ss : BitVec 1)
    (c0 c1 : BitVec 8) (b : BitVec 4),
    let waits (i : Instr) : Prop := ∃ t, exec i s = .next t ∧ t.ctx.wait = true ∧ t.ctx.trap = s.ctx.trap
    (s.cl.me.nld.isSome → waits (.nld xr kind fmt rnd cb n) ∧ waits .nswp ∧ waits (.cbld xr cb ss)) ∧
    (s.cl.me.pass.isSome → waits (.pass stop c0 c1 xr n) ∧ waits .nswp ∧ waits (.cbld xr cb ss)) ∧
    (mpeBusy s.cl s.cyc 3 = true → waits (.mwait xr)) ∧
    (s.cl.me.bankBusy b.toNat = true → waits (.aclr b)) ∧
    (s.cl.pe.job.isSome → waits (.pcidx xr n) ∧ waits (.paclr xr n))

/-- R218, R220 to R223, R228, R240, R246, R247, R261: bindings, configuration, its taking effect, and operations that wait.
Where the spec is open it states the model's own reading (logs 37, 38). -/
def Obligations.MatrixBindingAndWaitResults : Prop :=
  Claims.MatrixBindingResults ∧ Claims.ConfigurationCommitted ∧ Claims.MatrixIssueWaits

/-- R245, R261 to R264: a PE operation that passes its checks, with no other in flight, becomes the engine's operation with
what it captures. -/
def Obligations.PairIssueResults : Prop :=
  ∀ (s : State) (xr : BitVec 6) (st : BitVec 1) (out : BitVec 2) (se : BitVec 1) (sem : BitVec 4) (nh : BitVec 18)
    (na nb : BitVec 12) (n : BitVec 16), s.cl.pe.job = none →
    let x := (s.reg xr).toNat
    let p := s.cl.pe
    let job (i : Instr) (v t : Nat) : PeJob :=
      { op := i, xr := .ofNat 64 v, cfg := p.cfg, issue := s.cyc, baddr := s.ctx.addr, at_ := t }
    let starts (i : Instr) (addr : Nat) (j : PeJob) : Prop := exec i s = .next { s with cl := { s.cl with
      me := { s.cl.me with cur := s.cl.me.cur.set {} 5 { op := some i, base := x, addr := addr } }, pe := { p with job := some j } } }
    let fits (o m size cnt : Nat) : Prop := o % m = 0 ∧ o + size * cnt ≤ 2 ^ 21
    (let i : Instr := .pcell xr st out se sem nh
     let h0 := x % 2 ^ 18
     let j : PeJob := { job i h0 (s.cyc + 20) with h := h0, level := 3 }
     (∀ c ∈ s.pcellChecks j h0 (nh.toNat + 1), c.1 = false) → starts i h0 (s.seek j.fuel j)) ∧
    (let i : Instr := .psets xr st out se sem na nb
     let j : PeJob := { job i x (s.cyc + 20) with level := 2 }
     (∀ c ∈ s.psetsChecks j (x % 2 ^ 32) (na.toNat + 1) (x / 2 ^ 32) (nb.toNat + 1), c.1 = false) →
      starts i (x % 2 ^ 32) { j with j := (s.candsFrom j 0 0).headD 0 }) ∧
    (fits (p.cf 6) 16 16 (x % 2 ^ 32 + n.toNat + 1) → fits (p.cf 10) 4 4 (x % 2 ^ 32 + n.toNat + 1) →
      starts (.pcidx xr n) (x % 2 ^ 32) (job (.pcidx xr n) (x % 2 ^ 32) (s.cyc + 4))) ∧
    (fits (p.cf 5) 32 32 (x % 2 ^ 32 + n.toNat + 1) →
      starts (.paclr xr n) (x % 2 ^ 32) (job (.paclr xr n) (x % 2 ^ 32) (s.cyc + 4)))

/-- R113 to R116, R220: a repetition of a header bundle issues what each sub-unit holds, in order (MWAIT last), each seeing what those before
it did; none having trapped or waited, configuration writes and bindings take effect and the repetition count advances.
Where the spec is open it states the model's own reading (logs 28, 39). -/
def Obligations.HeaderRepetition : Prop :=
  ∀ (s : State) (chg : BitVec 7) (rep : BitVec 12) (at_ : Nat → State), s.bankClash chg = false →
    at_ 0 = { s with ctx := { s.ctx with wait := false } } →
    (∀ k p, (s.headerParts chg)[k]? = some p →
      p.run { at_ k with ctx := { (at_ k).ctx with pos := p.pos, trap := none } } = .next (at_ (k + 1)) ∧
      (at_ (k + 1)).ctx.trap = none) →
    (at_ 7).ctx.wait = false →
    (s.headerParts chg).length = 7 ∧
    exec (.mhdr chg rep) s =
      .next ((at_ 7).commitCfg.updStrm fun t => { t with rep := if t.rep < rep.toNat then t.rep + 1 else 0 })

/-- R118, R121, R122, R170, R171: an issue of an HCW runs its present slots in order; none having trapped or waited, the
rotation and the shift of the stage predicates follow. An HCW that cannot be read raises MEM_UNCORR of DETAIL 1 (R387). -/
def Obligations.HcwIssue : Prop :=
  ∀ (s : State) (h : BitVec 9) (r : BitVec 3) (o st : BitVec 1) (l : List Slot) (at_ : Nat → State),
    let w := s.hcw h.toNat
    let table := s.badRead (winBase s.cur + offHcw + 32 * h.toNat) 32
    (∀ g, table = some g → ∃ t x, exec (.vInstruction h r o st) s = .next t ∧ t.ctx.trap = some x ∧
      x.cause = Cause.memUncorr.code ∧ x.detail = 1 ∧ x.faddr = 8 * g ∧ x.str = s.ctx.str ∧ t = { s.takeFault x with ctx := { s.ctx with trap := some x } }) ∧
    (table = none → decodeSlots w = .ok l → s.crossBad l = none →
    at_ 0 = { s with ctx := { s.ctx with gen := w.gen, wait := false, seen := some s.cl.ve.pend.length } } →
    (∀ k x, l[k]? = some x →
      slotMeaning x.ins { at_ k with ctx := { (at_ k).ctx with pos := x.pos, trap := none, slot := x.f } } = .next (at_ (k + 1)) ∧
      (at_ (k + 1)).ctx.trap = none) →
    (at_ l.length).ctx.wait = false →
    ∃ t, exec (.vInstruction h r o st) s = .next t ∧
      let u := at_ l.length
      t.cl.ve.rpos = (if o = 1 then u.cl.ve.rpos + 1 else u.cl.ve.rpos) ∧
      (∀ g < 8, (t.cl.ve.q.get 0xFF g).toNat = if st = 1
        then ((u.cl.ve.q.get 0xFF g).toNat * 2 + if u.cl.ve.qin.toNat.testBit g then 1 else 0) % 256
        else (u.cl.ve.q.get 0xFF g).toNat) ∧
      t = { u with cl := { u.cl with ve := { u.cl.ve with rpos := t.cl.ve.rpos, q := t.cl.ve.q } } })

/-- R113, R118: sub-slot words and slot operations run by exec do what their bundle's issue runs. -/
def Obligations.PartsRunThroughExec : Prop :=
  ∀ (s : State) (i : Instr) (f : SlotF) (u : SubUnit) (p w v : Nat),
    (decodeSlot p w = .ok (some (i, f)) → slotMeaning i s = exec i s) ∧
    (decodeVC w = .ok (some i) → slotMeaning i s = exec i s) ∧
    (decodeSub u w v = .ok i → wordMeaning i s = exec i s)

/-- R94, R225, R227, R231, R232, R237, R239: completions of the matrix engines: a pass hands its counters to the drains, a load ends, ACLR
clears its bank, CBLD sets the entries, codes and flags of its codebook, RSTAT the statistics of its rows; a codebook, or a first row of RSTAT, that
cannot be read is a memory-error freeze (R387). That ACLR, CBLD and RSTAT
read and write in the cycle of their completion is the model's choice (log 36). -/
def Obligations.MatrixCompletions : Prop :=
  ∀ s : State,
    let e := s.cl.me
    let stops (x : Trap) (g : Nat) (b : BitVec 17) : Prop := x.str = .m ∧ x.cause = Cause.memUncorr.code ∧ x.detail = 3 ∧
      x.faddr = 8 * g ∧ x.baddr = b ∧ x.memErr = true
    (∀ p, e.pass = some p → p.phase = 3 → (∀ j ∈ e.drs, j.read = true ∨ p.id ≤ j.pass) →
      ∃ t, exec .passEnd s = .next t ∧ t.cl.me.pass = none ∧ t.cl.me.dcnt = p.cnt ∧ t.cl.me.dbad = p.bad ∧ t.cl.me.dslen = some p.slen ∧
        t.cl.me.odone = (if p.packed then 1 else p.odone) ∧
        t.cl.me.stopped = p.stopped ∧ t.cl.me.nset = p.nset ∧ t.cl.me.drs.length = e.drs.length ∧
        (∀ (k : Nat) (j q : DrJob), e.drs[k]? = some j → t.cl.me.drs[k]? = some q →
          q.start = if j.pass = p.id ∧ j.start = none then some s.cyc else j.start) ∧
        t.mem = s.mem ∧ t.cl.ve = s.cl.ve ∧ t.cl.s = s.cl.s) ∧
    (∀ j, e.nld = some j → j.count ≤ j.pos → j.issue + 4 + (j.count + 255) / 256 ≤ s.cyc →
      exec .nldComplete s = .next { s with cl := { s.cl with me := { e with nld := none } } }) ∧
    (∀ j l, e.aclrs = j :: l → j.due ≤ s.cyc → ∃ t, exec .aclrComplete s = .next t ∧ t.cl.me.aclrs = l ∧
      (∀ row < 64, ∀ col < 256, t.rdLE (s.accAddr (j.addr % 16) row col) 4 = 0) ∧
      SameMemBut (s.accAddr (j.addr % 16) 0 0) 0x10000 s t ∧ t.cl.ve = s.cl.ve ∧ t.cl.s = s.cl.s) ∧
    (∀ j l, e.cblds = j :: l → j.due ≤ s.cyc → s.badRead (s.spad j.base) 32 = none → ∃ t, exec .cbldComplete s = .next t ∧
      t.cl.me.cblds = l ∧ (∀ k < 16,
        let b := t.cl.me.cb.get {} j.cb
        let x := s.rdLE (s.spad (j.base + 2 * k)) 2
        let y := toCode (j.slen.toNat % 8) (j.slen.toNat.testBit 6) j.scale .rne 0 (fval (x * 2 ^ 16))
        (b.entries.get 0 k).toNat = x ∧ b.codes.get 0 k = y.1 ∧ b.flags.toNat.testBit k = y.2) ∧
      (∀ k, k ≠ j.cb → t.cl.me.cb.get {} k = e.cb.get {} k) ∧
      t = { s with cl := { s.cl with me := { e with cblds := l, cb := t.cl.me.cb } } }) ∧
    (∀ j l g, e.cblds = j :: l → j.due ≤ s.cyc → s.badRead (s.spad j.base) 32 = some g →
      ∃ x, exec .cbldComplete s = .next (s.takeFault x) ∧ stops x g j.baddr) ∧
    (∀ j l r0 rn c0 c1 g, e.rstats = j :: l → j.due ≤ s.cyc → j.op = .rstat r0 rn c0 c1 →
      s.badRead (s.accAddr (j.addr / 64) (j.addr % 64) c0.toNat) (4 * (c1.toNat - c0.toNat + 1)) = some g →
      ∃ x, exec .rstatComplete s = .next (s.takeFault x) ∧ stops x g j.baddr) ∧
    (∀ j l r0 rn c0 c1, e.rstats = j :: l → j.due ≤ s.cyc → j.op = .rstat r0 rn c0 c1 →
      (∀ i ≤ rn.toNat, s.badRead (s.accAddr ((j.addr + i) / 64) ((j.addr + i) % 64) c0.toNat) (4 * (c1.toNat - c0.toNat + 1)) = none) →
      ∃ t, exec .rstatComplete s = .next t ∧ t.cl.me.rstats = l ∧ t.mem = s.mem ∧
        t.cl.ve.rsq.map (·.id) = s.cl.ve.rsq.map (·.id) ∧
        ∀ r ∈ t.cl.ve.rsq, r.id = j.id → r.ready = true ∧ ∀ i ≤ rn.toNat,
          let nc := c1.toNat - c0.toNat + 1
          let a (k : Nat) : Int := toSigned 32 (s.rdLE (s.accAddr ((j.addr + i) / 64) ((j.addr + i) % 64) (c0.toNat + k)) 4)
          let f (x : Int) : FRes := roundTo 23 .rne 0 false (decide (x < 0)) x.natAbs 0
          (∃ m < nc, (∀ k < nc, a k ≤ a m) ∧ r.mx.get 0 i = .ofNat 32 (f (a m)).bits) ∧
          r.sum.get 0 i = .ofNat 32 (treeSum ((List.range nc).map fun k => (f (a k)).bits)).bits ∧
          r.ssq.get 0 i = .ofNat 32 (treeSum ((List.range nc).map fun k => (f (a k * a k)).bits)).bits ∧
          ∀ k < nc, (f (a k)).flags.setWidth 6 &&& ~~~t.cl.me.flags = 0 ∧ (f (a k * a k)).flags.setWidth 6 &&& ~~~t.cl.me.flags = 0)

/-- R86, R235, R236, R241: what a drain writes in its cycle of reading, s + 16 for DRN and s + 4 for DRV: DRN every word of its bank,
Sat32 of the counter shifted by p − d, under ACC added to what the word held, and the largest magnitude; DRV the sixteen
registers of its bank in every lane. A saturation sets ACC_SAT. -/
def Claims.DrainRows : Prop :=
  ∀ (s : State) (j : DrJob) (x t : Nat), j.read = false → j.start = some x → j.row = 0 → j.mag = 0 → j.sat = false →
    let e := s.cl.me
    let slen := (e.dslen.getD 0x3F).toNat
    let v (r c : Nat) : Int :=
      if j.pass = 0 then 0 else (e.dcnt.get 0 (256 * r + c)).toInt * (2 ^ (slen % 8 - slen / 8 % 8) : Nat)
    let sat (y : Int) : Int := max (-(2 ^ 31 : Nat) : Int) (min ((2 ^ 31 - 1 : Nat) : Int) y)
    let b := j.addr % 16
    let sound : Prop := j.pass = 0 ∨ e.dbad = []
    let after (u : State) (q : DrJob) : Prop := u.cl.me.drs = [q] ∧
      u.cl.me.flags = (if q.sat then e.flags ||| 0x20 else e.flags) ∧ u.cl.s = s.cl.s ∧ u.cl.sem = s.cl.sem
    (∀ a acc am pool xr se sem, j.op = .drn a acc am pool xr se sem → x + 16 ≤ t →
      (acc = 1 → s.badRead (s.accAddr b 0 0) 0x10000 = none) → sound →
      let y (r c : Nat) : Int := v (64 * (j.addr / 16) + r) c + if acc = 1 then toSigned 32 (s.rdLE (s.accAddr b r c) 4) else 0
      ∃ (u : State) (q : DrJob), tickDrains t [j] [] s = (u, none) ∧ after u q ∧
        (∀ r < 64, ∀ c < 256, toSigned 32 (u.rdLE (s.accAddr b r c) 4) = sat (y r c) ∧ (sat (y r c)).natAbs ≤ q.mag) ∧
        (∃ r < 64, ∃ c < 256, q.mag = (sat (y r c)).natAbs) ∧
        (q.sat = true ↔ ∃ r < 64, ∃ c < 256, sat (y r c) ≠ y r c) ∧
        q = { j with row := 64, read := true, mag := q.mag, sat := q.sat } ∧
        SameMemBut (s.accAddr b 0 0) 0x10000 s u ∧ u.cl.ve = s.cl.ve) ∧
    (∀ k half c0, j.op = .drv k half c0 → x + 4 ≤ t → sound →
      let y (g l n : Nat) : Int := v (128 * half.toNat + 16 * g + l) ((j.addr + n) % 256)
      ∃ (u : State) (q : DrJob), tickDrains t [j] [] s = (u, none) ∧ after u q ∧
        (∀ g < 8, ∀ l < 16, ∀ n < 16, (u.cl.ve.v.get 0 (vkey g (16 * k.toNat + n) l)).toInt = sat (y g l n)) ∧
        (∀ i, (∀ g < 8, ∀ l < 16, ∀ n < 16, i ≠ vkey g (16 * k.toNat + n) l) → u.cl.ve.v.get 0 i = s.cl.ve.v.get 0 i) ∧
        (q.sat = true ↔ ∃ g < 8, ∃ l < 16, ∃ n < 16, sat (y g l n) ≠ y g l n) ∧
        q = { j with read := true, sat := q.sat } ∧ u.mem = s.mem)

/-- R235, R236: the completion of the first drain that is due: the magnitude merged at die or scratchpad scope, the semaphore
released, ACC_SATURATE where it saturated under SATTE. -/
def Claims.DrainCompletion : Prop :=
  ∀ (s : State) (j : DrJob) (l : List DrJob), s.cl.me.drs = j :: l → j.due s.cyc = true →
    (j.am = true → s.badWrite j.word 4 = none) →
    ∃ t, exec .drainComplete s = .next t ∧ t.cl.me.drs = l ∧
      t.cl.engP = s.cl.engP ++ (match j.op with
        | .drn _ _ _ _ _ se sem => if se = 1 then [(sem.toNat, j.baddr)] else []
        | _ => []) ∧
      t.cl.ve = s.cl.ve ∧ t.cl.s = s.cl.s ∧
      ((j.satte && j.sat) = false → t.cl.flt = s.cl.flt ∧ t.cl.frz = s.cl.frz ∧ (j.am = false → t.mem = s.mem) ∧
        (j.am = true → SameMemBut j.word 4 s t ∧
          t.rdLE j.word 4 = max (s.rdLE j.word 4) (roundTo 23 .raz 0 false false j.mag 0).bits % 2 ^ 32)) ∧
      ((j.satte && j.sat) = true → s.cl.flt.valid = false → t.cl.flt.valid = true ∧ t.cl.flt.baddr = j.baddr ∧
        t.cl.flt.cause.toNat = Cause.accSaturate.code ∧ t.cl.flt.mstep.toNat / 2 ^ 52 = j.rpt % 2 ^ 12 ∧ t.cl.frz.fault = true)

/-- R86, R234 to R236, R241: drains, at their issue, in their cycle of reading, and at their completion.
Where the spec is open it states the model's own reading (logs 36, 40). -/
def Obligations.DrainResults : Prop := Claims.DrainIssueResults ∧ Claims.DrainRows ∧ Claims.DrainCompletion

/-- R250, R255 to R257, R260, R262: the arithmetic of a pair: displacement, squared distance and cut-off; a kernel table's value;
what a passing pair adds to the lines of its particles, and the edge that it writes; the candidates of a block of PSETS, and
the counts of tests and of passes. -/
def Claims.PairArithmetic : Prop :=
  ∀ (s : State) (j : PeJob),
    (∀ a b : PRec,
      let δ (n x y : Nat) : Int :=
        let w : Int := (y : Int) - x
        if (j.cf 3).testBit n then (if w % (2 ^ 32 : Nat) < (2 ^ 31 : Nat) then w % (2 ^ 32 : Nat) else w % (2 ^ 32 : Nat) - (2 ^ 32 : Nat))
        else w
      let d (n x y : Nat) : Int := shiftRound (δ n x y * j.cf n) 32 .rne 0
      let dx := d 0 a.x b.x
      let dy := d 1 a.y b.y
      let dz := d 2 a.z b.z
      let sq := (dx ^ 2 + dy ^ 2 + dz ^ 2).toNat
      j.filter a b = ((dx, dy, dz), sq) ∧
      (j.passes a b = true ↔ sq < j.cf 4 ∧ a.skip = false ∧ b.skip = false)) ∧
    (∀ tab sq : Nat,
      let w := s.rdLE (s.pmem (0x18000 + 8 * tab)) 8
      let base := w / 2 ^ 50 % 2 ^ 14
      let n := w / 2 ^ 40 % 2 ^ 10 + 1
      let sh := w / 2 ^ 34 % 2 ^ 6
      let scl := w / 2 ^ 29 % 2 ^ 4
      let k := sq / 2 ^ sh
      let τ := sq % 2 ^ sh
      let T : Int := if 16 ≤ sh then (τ / 2 ^ (sh - 16) : Nat) else (τ * 2 ^ (16 - sh) : Nat)
      let ent (i : Nat) : Nat := s.rdLE (s.pmem (8 * (base + i))) 8
      let V0 : Int := toSigned 32 (ent k / 2 ^ 32)
      let S0 : Int := toSigned 32 (ent k % 2 ^ 32)
      let V1 : Int := toSigned 32 (ent (k + 1) / 2 ^ 32)
      let S1 : Int := toSigned 32 (ent (k + 1) % 2 ^ 32)
      let B : Int := (2 ^ 16 : Nat)
      let x : Int := if w.testBit 33
        then shiftRound (((2 * T ^ 3 - 3 * T ^ 2 * B + B ^ 3) * V0 + (T ^ 3 - 2 * T ^ 2 * B + T * B ^ 2) * S0 +
          (3 * T ^ 2 * B - 2 * T ^ 3) * V1 + (T ^ 3 - T ^ 2 * B) * S1) * (2 ^ scl : Nat)) 28 .rne 0
        else (V0 * B + T * S0) * (2 ^ (4 + scl) : Nat)
      (n < k + 2 → s.interp tab sq = (0, true, false)) ∧
      (k + 2 ≤ n → s.interp tab sq = (sat64 x, false, decide (sat64 x ≠ x)))) ∧
    (∀ (i y : Nat) (d : Int × Int × Int) (sq : Nat) (f : PFlags), i ≠ y →
      let ri := s.prec (j.cf 6) i
      let ry := s.prec (j.cf 6) y
      let map := s.rdLE (s.pmem (0x18080 + 2 * (16 * min ri.typ ry.typ + max ri.typ ry.typ))) 2
      let off : Int × Bool × Bool := (0, false, false)
      let g := if map.testBit 15 then s.interp (map % 16) sq else off
      let u := if map.testBit 14 then s.interp (map / 16 % 16) sq else off
      let raw (n : Nat) : Int := shiftRound (g.1 * [d.1, d.2.1, d.2.2].getD n 0) 16 .rne 0
      let uh := u.1 / 2
      let share (n : Nat) : Int := if n = min i y then u.1 - uh else uh
      let word (t : State) (n m : Nat) : Int := toSigned 64 (t.rdLE (s.spad (j.cf 5 + 32 * n + 8 * m)) 8)
      let gain (n : Nat) (neg : Bool) (m : Nat) : Int :=
        if m = 3 then share n else if neg then -sat64 (raw m) else sat64 (raw m)
      let both : Prop := j.half = true ∧ ry.fixed = false
      let r := pairAdds j i y d sq (s, f)
      (∀ m < 4, word r.1 i m = if ri.fixed then word s i m else sat64 (word s i m + gain i false m)) ∧
      (∀ m < 4, (both → word r.1 y m = sat64 (word s y m + gain y true m)) ∧ (¬ both → word r.1 y m = word s y m)) ∧
      (∀ a, (a < s.spad (j.cf 5 + 32 * i) ∨ s.spad (j.cf 5 + 32 * i) + 32 ≤ a) →
        (a < s.spad (j.cf 5 + 32 * y) ∨ s.spad (j.cf 5 + 32 * y) + 32 ≤ a) → r.1.rd8 a = s.rd8 a) ∧
      r.2.ptab = (f.ptab || g.2.1 || u.2.1) ∧ r.2.full = f.full ∧
      (r.2.sat = true ↔ f.sat = true ∨ g.2.2 = true ∨ u.2.2 = true ∨ (∃ m < 3, sat64 (raw m) ≠ raw m) ∨
        (ri.fixed = false ∧ ∃ m < 4, sat64 (word s i m + gain i false m) ≠ word s i m + gain i false m) ∨
        (both ∧ ∃ m < 4, sat64 (word s y m + gain y true m) ≠ word s y m + gain y true m))) ∧
    (∀ (i y sq : Nat) (f : PFlags),
      let o := s.spad (j.cf 9)
      let cap := s.rdLE o 4
      let cnt := s.rdLE (o + 4) 4
      let r := pairEdge j i y sq (s, f)
      r.1.rdLE (o + 4) 4 = (cnt + 1) % 2 ^ 32 ∧
      (cnt < cap → r.1.rdLE (o + 16 + 16 * cnt) 4 = i % 2 ^ 32 ∧ r.1.rdLE (o + 20 + 16 * cnt) 4 = y % 2 ^ 32 ∧
        r.1.rdLE (o + 24 + 16 * cnt) 8 = sq % 2 ^ 64 ∧ r.2 = f) ∧
      (cap ≤ cnt → r.2 = { f with full := true }) ∧
      ∀ a, (a < o + 4 ∨ o + 8 ≤ a) → (cap ≤ cnt ∨ a < o + 16 + 16 * cnt ∨ o + 32 + 16 * cnt ≤ a) → r.1.rd8 a = s.rd8 a) ∧
    (∀ xr st out se sem na nb, j.op = .psets xr st out se sem na nb →
      let a0 := j.xr.toNat % 2 ^ 32
      let b0 := j.xr.toNat / 2 ^ 32
      let i := a0 + j.i
      let inA (n : Nat) : Prop := a0 ≤ n ∧ n ≤ a0 + na.toNat
      let inB (n : Nat) : Prop := b0 ≤ n ∧ n ≤ b0 + nb.toNat
      ∃ l : List Nat, s.block j = (i, l.take 64) ∧ l.Pairwise (· < ·) ∧
        ∀ y, y ∈ l ↔ inB y ∧ b0 + j.j ≤ y ∧ y ≠ i ∧ ¬ (st = 0 ∧ y < i ∧ inB i ∧ inA y)) ∧
    (let p := s.passing j
     let r := s.prec (j.cf 6) (s.block j).1
     let z := (s.applyBlock j).1.cl.pe
     p.map (·.1) = ((s.block j).2.filter fun y => j.passes r (s.prec (j.cf 6) y)) ∧
     (∀ e ∈ p, e.2 = j.filter r (s.prec (j.cf 6) e.1)) ∧
     z.tests = s.cl.pe.tests + .ofNat 64 (s.block j).2.length ∧ z.pairs = s.cl.pe.pairs + .ofNat 64 p.length)

/-- R245, R256 to R260, R263, R457: the unit of the pair engine that is due: a block that meets no cause makes the adds and edges of
its passing pairs in order, and the cursor names the next; one that meets a cause raises it; a group of PCIDX or PACLR writes
its words; PAIR_SATURATE follows the block that saturated. -/
def Claims.PairUnits : Prop :=
  ∀ (s : State) (j : PeJob), s.cl.pe.job = some j →
    let on (t : State) (q : PeJob) : State := { t with cl := { t.cl with pe := { t.cl.pe with job := some q } } }
    let k0 := j.xr.toNat % 2 ^ 32 + j.i
    let n := j.groupLeft
    (j.trapAt = none → j.isIndex = false → j.fin = false → j.level = 0 → j.at_ ≤ s.cyc → s.hdrBad j = none →
      exec .peBlock s = .next (on s (s.seek j.fuel j))) ∧
    (j.trapAt = none → j.isIndex = false → j.fin = false → j.level = 2 → s.blockCause j = none → j.at_ + s.blockCost j ≤ s.cyc →
      let i := (s.block j).1
      let a := (s.passing j).foldl (fun x p =>
        let x1 := if j.forces then pairAdds j i p.1 p.2.1 p.2.2 x else x
        if j.list then pairEdge j i p.1 p.2.2 x1 else x1) (s, ({} : PFlags))
      let s1 : State := { a.1 with cl := { a.1.cl with pe := (s.applyBlock j).1.cl.pe } }
      let s2 : State := { s1 with cl := s1.cl.orP a.2.full a.2.ptab a.2.sat }
      let q := s2.nextBlock { j with at_ := j.at_ + s.blockCost j, sat := j.sat || a.2.sat }
      exec .peBlock s = .next (on s2
        (if q.sat && q.cf 11 == 0 && !q.fin then { q with sat := false, trapAt := some (j.at_ + s.blockCost j) } else q))) ∧
    (∀ x, j.trapAt = none → j.isIndex = false → j.fin = false → j.level = 2 → s.blockCause j = some x → j.at_ ≤ s.cyc →
      exec .peBlock s = .next (s.takeFault x)) ∧
    (∀ c, j.trapAt = some c → c ≤ s.cyc → s.cl.flt.valid = false → ∃ t, exec .peBlock s = .next t ∧
      t.cl.flt.valid = true ∧ t.cl.flt.cause.toNat = Cause.pairSaturate.code ∧ t.cl.flt.baddr = j.baddr ∧
      t.cl.frz.fault = true ∧ t.cl.pe.job = some { j with trapAt := none }) ∧
    (∀ xr m, j.op = .paclr xr m → j.trapAt = none → j.fin = false → j.groupCycle < s.cyc → j.i < j.indices →
      ∃ t, exec .peBlock s = .next t ∧
        (∀ k < 32 * n, t.rd8 (s.spad (j.cf 5 + 32 * k0) + k) = 0) ∧ SameMemBut (s.spad (j.cf 5 + 32 * k0)) (32 * n) s t) ∧
    (∀ xr m, j.op = .pcidx xr m → j.trapAt = none → j.fin = false → j.groupCycle < s.cyc → j.i < j.indices → s.bad = [] →
      (j.cf 10 + 4 * (k0 + n) ≤ j.cf 6 + 16 * k0 ∨ j.cf 6 + 16 * (k0 + n) ≤ j.cf 10 + 4 * k0) →
      let nx := j.cf 8 % 64 + 1
      let ny := j.cf 8 / 64 % 64 + 1
      let nz := j.cf 8 / 4096 % 64 + 1
      ∃ t, exec .peBlock s = .next t ∧ SameMemBut (s.spad (j.cf 10 + 4 * k0)) (4 * n) s t ∧ ∀ k < n,
        let o := s.spad (j.cf 6 + 16 * (k0 + k))
        t.rdLE (s.spad (j.cf 10 + 4 * (k0 + k))) 4 = s.rdLE o 4 * nx / 2 ^ 32 +
          nx * (s.rdLE (o + 4) 4 * ny / 2 ^ 32 + ny * (s.rdLE (o + 8) 4 * nz / 2 ^ 32))) ∧
    (j.fin = true → j.at_ ≤ s.cyc → ∃ t, exec .peComplete s = .next t ∧
      t.cl.pe.job = none ∧ t.cl.engP = s.cl.engP ++ (match j.sem with
        | some n => [(n, j.baddr)]
        | none => []) ∧
      ((j.sat = false ∨ j.cf 11 ≠ 0) → t.mem = s.mem ∧ t.cl.flt = s.cl.flt ∧ t.cl.frz = s.cl.frz) ∧
      (j.sat = true → j.cf 11 = 0 → s.cl.flt.valid = false →
        t.cl.flt.cause.toNat = Cause.pairSaturate.code ∧ t.cl.flt.pecur = 0 ∧ t.cl.frz.fault = true))

/-- R245, R250, R255 to R260, R262, R263, R457: the pair engine's arithmetic, units and completion.
Where the spec is open it states the model's own reading (log 6). -/
def Obligations.PairUnitResults : Prop := Claims.PairArithmetic ∧ Claims.PairUnits

/-- R168, R173, R174, R176: when results land, each place - a register's lane, a mask's bit, a group's stage predicates, its QIN, a
base register, RPOS - holds what the last result for it that was due says, and every other place what it held; the flags of
all that landed are set, and results not yet due are kept. -/
def Obligations.ResultsLand : Prop :=
  ∀ s : State,
    let due (p : VPend) : Prop := p.due ≤ s.cyc
    let place (d : VDest) : Prop := match d with
      | .lane g n l => g < 8 ∧ n < 64 ∧ l < 16
      | .mask g j l => g < 8 ∧ j < 8 ∧ l < 16
      | .q g | .qin g => g < 8
      | .base g j => g < 8 ∧ j < 16
      | .rpos => True
    let holds (e : VEng) (d : VDest) : Nat := match d with
      | .lane g n l => (e.v.get 0 (vkey g n l)).toNat
      | .mask g j l => if (e.m.get 0xFFFF (8 * g + j)).toNat.testBit l then 1 else 0
      | .q g => (e.q.get 0xFF g).toNat
      | .qin g => if e.qin.toNat.testBit g then 1 else 0
      | .base g j => (e.b.get 0 (16 * g + j)).toNat
      | .rpos => e.rpos.toNat
    let stands (d : VDest) (v : Word32) : Nat := match d with
      | .lane .. | .base .. => v.toNat
      | .mask .. | .qin .. => if v = 0 then 0 else 1
      | .q _ => v.toNat % 256
      | .rpos => v.toNat % 32
    ∃ t, exec .resultLand s = .next t ∧
      ((∀ p ∈ s.cl.ve.pend, due p → place p.dest) →
        (∀ d, place d → (∀ p ∈ s.cl.ve.pend, due p → p.dest ≠ d) → holds t.cl.ve d = holds s.cl.ve d) ∧
        ∀ a p b, s.cl.ve.pend = a ++ p :: b → due p → (∀ q ∈ b, due q → q.dest ≠ p.dest) →
          holds t.cl.ve p.dest = stands p.dest p.val) ∧
      (∀ p, p ∈ t.cl.ve.pend ↔ p ∈ s.cl.ve.pend ∧ ¬ due p) ∧
      (∀ p ∈ s.cl.ve.pend, due p → p.flags &&& ~~~t.cl.ve.flags = 0) ∧ s.cl.ve.flags &&& ~~~t.cl.ve.flags = 0 ∧
      t.mem = s.mem ∧ t.cl.s = s.cl.s ∧ t.cl.me = s.cl.me


/-! The stream array (03; 08 R225, R231). -/

/-- R74 to R84, R88 to R90, R231: a pass in its streaming phase, `at_ n` after n cycle words. It streams the cycles of R83; its counters
then hold what R84 gives, its other counters 0. Interleaved and with early stop, it looks at its selected rows after each outer
index but the last, and ends when R88 and R90 settle all of them. -/
def Claims.PassCounts : Prop :=
  ∀ (p : PassSt) (at_ : Nat → PassSt) (now : Nat → Nat), p.phase = 2 → p.outer = 0 → p.kstep = 0 → p.cnt = [] → 1 ≤ p.k →
    p.rows ≤ 256 → p.c0 ≤ p.c1 → p.c1 < 256 → at_ 0 = p → (∀ n, at_ (n + 1) = (at_ n).advance (now n)) →
    let slen := (p.c 0 0x3F).toNat
    let P := slen % 8
    let D := slen / 8 % 8
    let xb := slen.testBit 6
    let scr (w : Word32) (n : Nat) : Nat := (w.toNat % 128 + w.toNat / 256 % 128 * n) % 128 % 2 ^ P
    let lev (b : Byte) : Nat := b.toNat % 128
    let neg (b : Byte) : Bool := decide (128 ≤ b.toNat)
    let zero (b : Byte) : Bool := if xb then lev b == 2 ^ (P - 1) else lev b == 0
    let x (r k : Nat) : Byte := p.wcode.get 0 (65536 * r + k)
    let y (k c : Nat) : Byte := p.ncode.get 0 (256 * k + c)
    let one (r c o i : Nat) (a b : Byte) : Int :=
      let bx := decide (Nat.xor (bitRev i P) (scr (p.c 1 0) r) < lev a)
      let by_ := decide (Nat.xor (bitRev o P) (scr (p.c 2 0) c) < lev b)
      if xb then (if bx = by_ then 1 else -1) else if bx && by_ then (if neg a = neg b then 1 else -1) else 0
    let sum (n : Nat) (f : Nat → Int) : Int := ((List.range n).map f).sum
    let cell (r c outers : Nat) : Int := sum outers fun o => sum p.k fun k =>
      if zero (x r k) || zero (y k c) then 0 else sum (2 ^ P) fun i => one r c o i (x r k) (y k c)
    let active (c : Nat) : Prop := p.c0 ≤ c ∧ c ≤ p.c1
    let counts (q : PassSt) (outers : Nat) : Prop :=
      (∀ r < p.rows, ∀ c, active c → q.cnt.get 0 (256 * r + c) = .ofInt 32 (cell r c outers)) ∧
      ∀ i, (∀ r < p.rows, ∀ c, active c → i ≠ 256 * r + c) → q.cnt.get 0 i = 0
    let words (terms : Nat) : Nat := (p.k + terms - 1) / terms
    let packed : Prop := P + D ≤ 7
    let cycles : Nat := if P + D ≤ 7 then words (128 / 2 ^ (P + D)) else 2 ^ D * words (128 / 2 ^ P)
    let settled (q : PassSt) (o r : Nat) : Prop :=
      let v (c : Nat) : Int := (q.cnt.get 0 (256 * r + c)).toInt
      let bound : Int := (((List.range p.k).filter fun k => !zero (x r k)).length * (if xb then 2 ^ P else 2 ^ P - 1) * (2 ^ D - o) : Nat)
      let nonNeg : Prop := xb = false ∧ ∀ k < p.k, (zero (x r k) = true ∨ neg (x r k) = false) ∧
        ∀ c, active c → zero (y k c) = true ∨ neg (y k c) = false
      ∃ lo : Int, (nonNeg → lo = 0) ∧ (¬ nonNeg → lo = -bound) ∧
        if p.stop = 1 then ∃ top, active top ∧ ∀ c, active c → c ≠ top → bound - lo < v top - v c
        else (∃ c, active c ∧ (p.c 3 0).toInt < v c + lo) ∨ ∀ c, active c → v c + bound ≤ (p.c 3 0).toInt
    ((packed ∨ p.stop = 0) → (∀ n < cycles, (at_ n).phase = 2) ∧ (at_ cycles).phase = 3 ∧ counts (at_ cycles) (2 ^ D)) ∧
    (¬ packed → ∀ o, 0 < o → o ≤ 2 ^ D → (∀ n < o * words (128 / 2 ^ P), (at_ n).phase = 2) →
      let q := at_ (o * words (128 / 2 ^ P))
      counts q o ∧ q.odone = o ∧ (o = 2 ^ D → q.phase = 3) ∧
      ((p.stop = 1 ∨ p.stop = 2) → o < 2 ^ D →
        let selected (r : Nat) : Prop := r < p.rows ∧ (p.c (18 + r / 32) 0xFFFFFFFF).toNat.testBit (r % 32) = true
        (q.stopped = true ↔ ∀ r, selected r → settled q o r) ∧ q.phase = (if q.stopped then 3 else 2) ∧
        ∃ l : List Nat, l.Pairwise (· < ·) ∧ (∀ r, r ∈ l ↔ selected r ∧ settled q o r) ∧ q.nset = l.length))

/-- R75, R224, R229, R231: the setup of a pass: in cycle t it has handled the elements below 512·(t − issue − 3), one after another,
west elements row by row and then the north region; the first that fails stops it there, and after 4 + ⌈(R + NC)·K / 512⌉
cycles it streams. A raw code is taken as it stands; each code must be one of the pass's p and mode. -/
def Claims.PassSetup : Prop :=
  ∀ (s : State) (p : PassSt) (t e : Nat) (at_ : Nat → PassSt × State),
    let total := (p.rows + (p.c1 - p.c0 + 1)) * p.k
    let n := min total (512 * (t - p.issue - 3)) - p.setup
    let goes (k : Nat) : Prop := ∃ q u, (at_ k).2.setupElem (at_ k).1 (p.setup + k) = .ok (q, u) ∧
      at_ (k + 1) = ({ q with setup := p.setup + k + 1 }, u)
    let slen := (p.c 0 0x3F).toNat
    let legal (b : Byte) : Prop := b.toNat % 128 < 2 ^ (slen % 8) ∧ (slen.testBit 6 = true → b.toNat < 128)
    let fails (r : Except Trap (PassSt × State)) : Prop := ∃ x, r = .error x ∧ x.str = .m ∧
      x.cause = Cause.illegalCode.code ∧ x.baddr = p.baddr
    let west := p.rows * p.k
    let r := e / p.k
    let k := e % p.k
    (s.cl.me.pass = some p → p.phase = 1 → at_ 0 = (p, s) →
      ((∀ m < n, goes m) → tickPass t s = ((at_ n).2.setPass
        (if p.setup + n = total ∧ p.issue + 4 + (total + 511) / 512 ≤ t then { (at_ n).1 with phase := 2, start := t } else (at_ n).1), none)) ∧
      ∀ m < n, ∀ x, (∀ i < m, goes i) → (at_ m).2.setupElem (at_ m).1 (p.setup + m) = .error x →
        tickPass t s = ((at_ m).2.setPass (at_ m).1, some x)) ∧
    (∀ b, p.west = some b → e < west →
      let pos := b.eps + r * b.pitch + k
      let idx := ((p.c 13 0).toNat + b.eps + r * (p.c 14 0).toNat + k) % 2 ^ 32
      let raw := s.rd8 (s.spad (b.base + pos))
      (b.kind = 0 → s.bad = [] → (legal raw → s.setupElem p e = .ok ({ p with wcode := p.wcode.set 0 (r * 65536 + k) raw }, s)) ∧
        (¬ legal raw → fails (s.setupElem p e))) ∧
      (∀ y u, s.convElem true (p.conv b) b.base pos idx b.skw (s.nldFirst p b.skw) p.baddr = .ok (y, u) →
        (legal y → s.setupElem p e = .ok ({ p with wcode := p.wcode.set 0 (r * 65536 + k) y }, u)) ∧
        (¬ legal y → fails (s.setupElem p e))) ∧
      ∀ x, s.convElem true (p.conv b) b.base pos idx b.skw (s.nldFirst p b.skw) p.baddr = .error x → s.setupElem p e = .error x) ∧
    (west ≤ e → s.bad = [] →
      let nc := p.c1 - p.c0 + 1
      let kn := (e - west) / nc
      let i := (e - west) % nc
      let y := s.rd8 (winBase s.cur + offPlane + (p.k0 + kn) * nc + i)
      (legal y → s.setupElem p e = .ok ({ p with ncode := p.ncode.set 0 (kn * 256 + p.c0 + i) y }, s)) ∧
      (¬ legal y → fails (s.setupElem p e)))

/-- R91 to R95: the code of an element at an edge, and where an outlier goes: its entry is appended to the list bound, or SKEP_FULL
stops the operation at that element where the list is full or none is bound; an entry that waits for an earlier operation on the
list is kept for it. -/
def Claims.EdgeConversion : Prop :=
  (∀ (p : Nat) (xb : Bool) (scale : Word32) (mode : RMode) (u : Nat) (v : FVal) (ms : Nat) (es : Int),
    fval scale.toNat = .fin false ms es →
    let code := toCode p xb scale mode u v
    let none_ : Byte × Bool := (if xb then .ofNat 8 (2 ^ (p - 1)) else 0, true)
    match v with
    | .fin neg m e =>
      let mag := roundMag mode u (m * ms) (e + es)
      let half : Int := roundMag mode u (m * ms) (e + es - 1)
      let q : Int := (if neg then -half else half) + (2 ^ (p - 1) : Nat)
      (xb = false → 2 ^ p ≤ mag → code = none_) ∧ (xb = false → mag = 0 → code = (0, false)) ∧
      (xb = false → mag < 2 ^ p → mag ≠ 0 → code = (.ofNat 8 (mag + if neg then 128 else 0), false)) ∧
      (xb = true → (q < 0 ∨ (2 ^ p : Nat) ≤ q) → code = none_) ∧
      (xb = true → 0 ≤ q → q < (2 ^ p : Nat) → code = (.ofNat 8 q.toNat, false))
    | _ => code = none_) ∧
  ∀ (s : State) (west : Bool) (c : Conv) (base pos idx : Nat) (list : Option Nat) (baddr : BitVec 17), s.bad = [] →
    let e := s.cl.me
    let b := e.cb.get {} c.cb
    let bits := s.spadElem base pos (kindWidth c.kind c.fmt)
    let u := if c.rnd = 2 then genWord c.key idx c.csid c.ctid else 0
    let t := toCode (c.slen.toNat % 8) (c.slen.toNat.testBit 6) c.scale (.ofBits c.rnd) u (elemVal c.fmt bits)
    let full (r : Except Trap (Byte × State)) : Prop := ∃ x, r = .error x ∧ x.str = .m ∧
      x.cause = Cause.skepFull.code ∧ x.baddr = baddr
    (c.kind = 0 → c.code e idx bits = (.ofNat 8 bits, none)) ∧
    (c.kind = 1 → c.code e idx bits = (t.1, if t.2 then some (outlierVal c.fmt bits) else none)) ∧
    (c.kind = 2 → c.code e idx bits =
      (b.codes.get 0 bits, if b.flags.toNat.testBit bits then some (widenBF (b.entries.get 0 bits).toNat) else none)) ∧
    (∀ y w, c.code e idx bits = (y, none) → s.convElem west c base pos idx list w baddr = .ok (y, s)) ∧
    (∀ y v, c.code e idx bits = (y, some v) →
      (∀ w, list = none → full (s.convElem west c base pos idx list w baddr)) ∧
      ∀ o, list = some o →
        let a := s.spad o
        let cap := s.rdLE a 4
        let cnt := s.rdLE (s.spad (o + 4)) 4
        (∀ w, cap ≤ cnt → full (s.convElem west c base pos idx list w baddr)) ∧
        (let n := cnt + s.ahead west list + (e.later.filter (·.1 == o)).length
         (cap ≤ n → full (s.convElem west c base pos idx list true baddr)) ∧
         (n < cap → s.convElem west c base pos idx list true baddr = .ok (y, { s with cl := { s.cl with
            me := { e with later := e.later ++ [(o, idx, v, baddr)] } } }))) ∧
        (cnt < cap → ∃ z, s.convElem west c base pos idx list false baddr = .ok (y, z) ∧
          z.rdLE (a + 4) 4 = (cnt + 1) % 2 ^ 32 ∧ z.rdLE (a + 16 + 8 * cnt) 4 = idx % 2 ^ 32 ∧
          z.rdLE (a + 20 + 8 * cnt) 4 = v % 2 ^ 32 ∧
          ∀ x, (x < a + 4 ∨ a + 8 ≤ x) → (x < a + 16 + 8 * cnt ∨ a + 24 + 8 * cnt ≤ x) → z.rd8 x = s.rd8 x))

/-- R225: what an NLD does by cycle t: the positions below 256·(t − issue − 3), one after another: each element converted and its
code written to the shadow plane; a raw code as it stands; the first that fails stops the load there. -/
def Claims.ShadowLoad : Prop :=
  ∀ (s : State) (j : NldJob) (t : Nat) (at_ : Nat → State), s.cl.me.nld = some j →
    let n := min j.count (256 * (t - j.issue - 3)) - j.pos
    let plane := winBase s.cur + offShadow
    let conv (k : Nat) : Except Trap (Byte × State) :=
      (at_ k).convElem false j.conv j.base (j.eps + (j.pos + k)) (((j.cfg.get 0 15).toNat + j.eps + (j.pos + k)) % 2 ^ 32) j.skn
        ((at_ k).passFirst { j with pos := j.pos + k }) j.baddr
    let goes (k : Nat) : Prop := ∃ y u, conv k = .ok (y, u) ∧ u.badWrite (plane + (j.pos + k)) 1 = none ∧
      at_ (k + 1) = u.store (plane + (j.pos + k)) [y]
    let at_pos (u : State) (k : Nat) : State := u.updMe fun e => { e with nld := some { j with pos := j.pos + k } }
    (at_ 0 = s → (∀ k < n, goes k) → tickNld t s = (at_pos (at_ n) n, none)) ∧
    (at_ 0 = s → ∀ m < n, ∀ x, (∀ k < m, goes k) → conv m = .error x → tickNld t s = (at_pos (at_ m) m, some x)) ∧
    (∀ xr fmt rnd cb nm1, j.op = .nld xr 0 fmt rnd cb nm1 → s.bad = [] → j.base + j.eps + nm1.toNat < 2 ^ 21 →
      ∃ z, tickNld t s = (z, none) ∧ z.cl.me.nld = some { j with pos := j.pos + n } ∧
        (∀ k, j.pos ≤ k → k < j.pos + n → z.rd8 (plane + k) = s.rd8 (s.spad (j.base + j.eps + k))) ∧
        SameMemBut (plane + j.pos) n s z)

/-- R387, R448: a pass in its streaming phase streams its next cycle word when it is due, and stops there with a memory-error freeze where
a counter that the word adds to cannot be read; a DRN so at the first of its rows. FADDR names the counter as log 108 says. -/
def Claims.CounterErrors : Prop :=
  ∀ (s : State) (t : Nat),
    let e := s.cl.me
    let stops (x : Trap) (g : Nat) (b : BitVec 17) : Prop := x.str = .m ∧ x.cause = Cause.memUncorr.code ∧ x.detail = 3 ∧
      x.baddr = b ∧ x.memErr = true ∧ x.faddr = (winBase s.cur + counterOff g) / 8 * 8
    (∀ p, e.pass = some p → p.phase = 2 → p.outer * p.words + p.kstep < t - p.start →
      let hit (g : Nat) : Prop := g / 128 < p.rows ∧ p.c0 ≤ 2 * (g % 128) + 1 ∧ 2 * (g % 128) ≤ p.c1
      ((∀ g ∈ p.bad, ¬ hit g) → tickPass t s = (s.setPass (p.advance t), none)) ∧
      (∀ g, p.bad = [g] → hit g → ∃ x, tickPass t s = (s, some x) ∧ stops x g p.baddr)) ∧
    ∀ (j : DrJob) (l : List DrJob) x a acc am pool xr se sem g, j.read = false → j.start = some x → j.row = 0 → x + 16 ≤ t → j.pass ≠ 0 →
      j.op = .drn a acc am pool xr se sem → e.dbad = [g] → g / 128 = 64 * (j.addr / 16) →
      ∃ z, tickDrains t (j :: l) [] s = (s.updMe fun e => { e with drs := j :: l }, some z) ∧ stops z (0x8000 + g) j.baddr

/-- R74 to R84, R88 to R95, R225, R229, R231: the passes of the stream array, and the conversion of what they and the loads read.
Where the spec is open it states the model's own reading (logs 87 to 91, 108). -/
def Obligations.StreamArrayResults : Prop :=
  Claims.PassCounts ∧ Claims.PassSetup ∧ Claims.EdgeConversion ∧ Claims.ShadowLoad ∧ Claims.CounterErrors


/-! The copy stream (10). -/

/-- R268 to R283, R291: a command whose shapes are legal, whose pages translate and whose channel has room issues; with a
translation cause it raises it, and with no room it waits.
Where the spec is open it states the model's own reading (logs 41, 44). -/
def Obligations.TransferIssueResults : Prop :=
  ∀ (s : State) (c : BitVec 2) (rd rs : BitVec 4) (rnd : BitVec 2) (sat v : BitVec 1) (did : BitVec 3) (k : BitVec 2)
    (x : BitVec 6) (u6 : Imm 6) (u7 : Imm 7) (u8 : Imm 8) (u9 : Imm 9) (u11 : Imm 11), s.ctx.str = .x →
    let wd := s.shapeW rd.toNat
    let ws := s.shapeW rs.toNat
    let d := shapeOf wd
    let a := shapeOf ws
    let issues (i : Instr) (bud : Word64) (src dst : List Shape) (b : Nat) (P : Transfer → Prop) : Prop :=
      (∀ f, s.sides src dst = .error f →
        exec i s = .next (s.trapped (s.trapOf f.1.cause f.1.detail (f.1.at_.getD f.2)))) ∧
      (∀ ps pd, s.sides src dst = .ok (ps, pd) → (distinctPages (ps ++ pd)).length ≤ 128 →
        let room : Prop := (s.cl.chan c.toNat).inFlight < 16 ∧ s.overPinned ((distinctPages (ps ++ pd)).map (·.2)) = false
        (room → s.Issues i c v did bud fun t =>
          t.least = (s.leastTime b (ps ++ pd)).1 ∧ t.scope = (s.leastTime b (ps ++ pd)).2 ∧ P t) ∧
        (¬ room → exec i s = .next s.waits))
    let copies (i : Instr) (bud : Word64) : Prop :=
      issues i bud [a] [d] (max (a.bytes a.count) (d.bytes d.count)) fun t => t.src = ws ∧ t.dst = wd
    let reads (i : Instr) (bud : Word64) : Prop :=
      issues i bud [a] [d] (a.bytes a.count) fun t => t.src = ws ∧ t.dst = wd
    let off := (s.reg x).toNat
    let loads (i : Instr) (unit size : Nat) : Prop :=
      a.legal → a.fmt = 3 → off % unit = 0 → a.count % unit = 0 → off + a.count ≤ size →
        issues i (immU u7) [a] [] a.count fun t => t.src = ws ∧ t.xr.toNat = off
    let g := s.xcf (6 + k.toNat)
    let t0 := off % 4096
    let tiles (i : Instr) (src dst : List Shape) (P : Transfer → Prop) : Prop :=
      a.legal → a.bits = 32 → a.count % 1024 = 0 → ¬ (crgnTiles g = 1 ∧ crgnLen g = 0) →
        t0 + a.count / 1024 ≤ crgnTiles g → crgnBase g + crgnLen g ≤ 2 ^ 21 →
        issues i (immU u6) src dst (4096 * (a.count / 1024)) fun t => t.xr.toNat = t0 ∧ P t
    (a.legal → d.legal → a.count = d.count → a.bits = d.bits → copies (.copy c rd rs v did u11) (immU u11)) ∧
    (a.legal → d.legal → (a.count ≠ d.count ∨ a.bits ≠ d.bits) →
      exec (.copy c rd rs v did u11) s = .next (s.trapped (s.trapOf .illegalCode))) ∧
    (a.legal → d.legal → a.bits = d.bits → d.e0 = a.e1 → d.e1 = a.e0 → d.e2 = a.e2 → d.e3 = a.e3 →
      copies (.xpose c rd rs v did u11) (immU u11)) ∧
    (a.legal → d.legal → a.count = d.count → a.fmt ≤ 9 → (d.fmt ≤ 9 ∨ d.fmt = 0xB ∧ ∀ q ∈ codeChecks s d, q.1 = false) →
      copies (.cvt c rd rs rnd sat v did u8) (immU u8)) ∧
    (a.legal → d.legal → a.fmt = 3 → (d.fmt = 9 ∨ d.fmt = 0xA) → reads (.decode c rd rs k v did u9) (immU u9)) ∧
    loads (.ldhcw c rs x v did u7) 32 0x4000 ∧ loads (.ldpln c rs x v did u7) 1 0x10000 ∧
    loads (.ldpair c rs x v did u7) 8 0x18280 ∧
    tiles (.cmpr c k rs x v did u6) [a] [] (fun t => t.src = ws) ∧
    tiles (.expd c k rs x v did u6) [] [a] (fun t => t.dst = ws)

/-- R284 to R286, R288: SEND and the remote atomics issue; RECV arms its barrier for N bytes, or is ILLEGAL_CODE.
Where the spec is open it states the model's own reading: a transfer starts in the copy engine's clock of log 44; log 41. -/
def Obligations.ExchangeIssueResults : Prop :=
  ∀ (s : State) (c : BitVec 2) (rs : BitVec 4) (x : BitVec 6) (v : BitVec 1) (did : BitVec 3) (u9 : Imm 9) (rb : BitVec 5)
    (u14 : Imm 14) (w nr : BitVec 1) (ra rv rr : BitVec 3) (u8 : Imm 8), s.ctx.str = .x →
    let room (l : List (Nat × Page)) : Prop := (distinctPages l).length ≤ 128 ∧ (s.cl.chan c.toNat).inFlight < 16 ∧
      s.overPinned ((distinctPages l).map (·.2)) = false
    let r := s.reg x
    let ws := s.shapeW rs.toNat
    let a := shapeOf ws
    let b := a.bytes a.count
    let n : Word32 := r.setWidth 32
    let va := (s.reg (ra.setWidth 6)).toNat
    let res := (s.reg (rr.setWidth 6)).toNat
    let size := if w = 0 then 4 else 8
    let atomic (i : Instr) : Prop := va % size = 0 → (nr = 0 → res % 8 = 0 ∧ res + 8 ≤ 2 ^ 21) →
      ∀ pd, s.checkPages (fun _ => .ramo (nr == 0)) [] [va] = .ok pd → room pd →
        s.Issues i c 0 0 (immU u8) fun t => t.xr.toNat = va ∧ t.xv = s.reg (rv.setWidth 6) ∧
          t.src = [s.reg (.ofNat 6 ((rv.toNat + 1) % 8))] ∧ (nr = 0 → t.xw.toNat = res) ∧
          t.least = (s.leastTime size pd).1 ∧ t.scope = (s.leastTime size pd).2
    (a.legal → r.toNat / 2 ^ 36 = 0 → r.toNat % 2 ^ 21 + b ≤ 2 ^ 21 → (s.die (r.toNat / 2 ^ 30 % 64)).present = true →
      (s.hops s.curDie (r.toNat / 2 ^ 30 % 64)).isSome = true →
      ∀ ps, s.sides [a] [] = .ok (ps, []) →
        let planned : Prop := ∃ e ∈ s.plan, e.slack = false ∧ e.cl = s.curCl ∧ e.ch = c.toNat ∧
          e.ddie = r.toNat / 2 ^ 30 % 64 ∧ e.dcl = r.toNat / 2 ^ 26 % 16
        (s.cl.locked = true → ¬ planned → (distinctPages ps).length ≤ 128 → exec (.send c rs x v did u9) s = .next (s.trapped (s.trapOf .timingMiss))) ∧
        ((s.cl.locked = true → planned) → room ps → s.Issues (.send c rs x v did u9) c v did (immU u9) fun t =>
          t.src = ws ∧ t.xr = r ∧
            let there := r.toNat / 2 ^ 30 % 64
            let far : Nat × Nat := if 16 * there + r.toNat / 2 ^ 26 % 16 = s.cur then (6 + (b + 63) / 64, 0)
              else if there = s.curDie then (20 + (b + 63) / 64, 1)
              else if s.cl.locked then (0, 2) else (6 + (b + 63) / 64 + 48 * (s.hops s.curDie there).getD 0, 2)
            t.least = max (s.leastTime b ps).1 far.1 ∧ t.scope = max (s.leastTime b ps).2 far.2)) ∧
    (n ≠ 0 → (s.cl.xb rb.toNat).state ≠ .armed → ∃ t, exec (.recv rb x u14) s = .next t ∧
      (t.cl.xb rb.toNat).state = .armed ∧ (t.cl.xb rb.toNat).rem = n ∧
      (t.cl.xb rb.toNat).due = some (s.cyc + (immU u14).toNat) ∧ (∀ k, k ≠ rb.toNat → t.cl.xb k = s.cl.xb k) ∧
      t = { s with cl := { s.cl with xe := { s.cl.xe with xb := t.cl.xe.xb } } }) ∧
    ((n = 0 ∨ (s.cl.xb rb.toNat).state = .armed) → exec (.recv rb x u14) s = .next (s.trapped (s.trapOf .illegalCode))) ∧
    atomic (.ramoAdd c w ra rv rr nr u8) ∧ atomic (.ramoAnd c w ra rv rr nr u8) ∧ atomic (.ramoOr c w ra rv rr nr u8) ∧
    atomic (.ramoXor c w ra rv rr nr u8) ∧ atomic (.ramoMin c w ra rv rr nr u8) ∧ atomic (.ramoMax c w ra rv rr nr u8) ∧
    atomic (.ramoMinu c w ra rv rr nr u8) ∧ atomic (.ramoMaxu c w ra rv rr nr u8) ∧
    atomic (.ramoSwap c w ra rv rr nr u8) ∧ atomic (.ramoCas c w ra rv rr nr u8)

/-- R277, R279, R289: SHW and XCFG write one register, XCFG refusing a value with ILLEGAL_CODE and a region descriptor
resetting its fill pointer; XNEXT reads the channel's next identifier and XFENCE retires when all before it are done.
Where the spec is open it states the model's own reading (logs 42, 43). -/
def Obligations.CopyRegisterResults : Prop :=
  ∀ (s : State) (k : BitVec 4) (w : BitVec 2) (x : BitVec 6) (r : BitVec 5) (c : BitVec 2), s.ctx.str = .x →
    let v := s.reg x
    let sel := r.toNat
    let n := if 6 ≤ sel ∧ sel ≤ 9 ∨ sel = 2 then v.toNat else v.toNat % 2 ^ 32
    let bad : Prop := (sel = 1 ∧ (n % 8 = 0 ∨ 128 ≤ n)) ∨ (sel = 5 ∧ n / 2 ^ 21 % 2 ^ 10 ≠ 0) ∨
      (6 ≤ sel ∧ sel ≤ 9 ∧ (n / 2 ^ 54 ≠ 0 ∨ n / 2 ^ 21 % 2 ^ 21 % 64 ≠ 0 ∨ n % 2 ^ 21 % 64 ≠ 0))
    let here := s.cl.chan c.toNat
    (∃ t, exec (.shw k w x) s = .next t ∧
      (∀ m, t.cl.xe.sh.get 0 m = if m = 4 * k.toNat + w.toNat then v else s.cl.xe.sh.get 0 m) ∧
      t = { s with cl := { s.cl with xe := { s.cl.xe with sh := t.cl.xe.sh } } }) ∧
    (bad → exec (.xcfg r x) s = .next (s.trapped (s.trapOf .illegalCode))) ∧
    (¬ bad → ∃ t, exec (.xcfg r x) s = .next t ∧ (t.xcf sel).toNat = n ∧ (∀ m, m ≠ sel → t.xcf m = s.xcf m) ∧
      (∀ m, t.cl.xe.cfill.get 0 m = if 6 ≤ sel ∧ sel ≤ 9 ∧ m = sel - 6
        then .ofNat 22 ((n % 2 ^ 21 + 4 * (n / 2 ^ 42 % 2 ^ 12 + 1) + 15) / 16 * 16) else s.cl.xe.cfill.get 0 m) ∧
      t = { s with cl := { s.cl with xe := { s.cl.xe with cfg := t.cl.xe.cfg, cfill := t.cl.xe.cfill } } }) ∧
    (x.toNat < 8 → (∀ t ∈ here.q, t.issue ≠ s.cyc) → ∃ t, exec (.xnext c x) s = .next t ∧
      (∀ m, t.cl.x.idx.get 0 m = if m = x.toNat then here.nextId.setWidth 64 else s.cl.x.idx.get 0 m) ∧
      t = { s with cl := { s.cl with x := t.cl.x } }) ∧
    (s.cl.x.wait = none → (∀ t ∈ here.q, t.issue ≠ s.cyc) →
      ((here.wmark - (here.nextId - 1)).toNat < 2 ^ 31 → exec (.xfence c) s = .next s) ∧
      (2 ^ 31 ≤ (here.wmark - (here.nextId - 1)).toNat → s.cl.locked = false → ∃ t, exec (.xfence c) s = .next t ∧
        t.ctx.wait = true ∧ t.cl.xe = s.cl.xe ∧ SameMem s t))


/-! Transfers after their issue, and the events of a cluster's own clock (01, 05, 10, 11). -/

/-- R272, R274, R278: a piece of a COPY, CVT or XPOSE: each element of the run receives what the command makes of its source element,
no other nibble of memory changes, and the cursor passes the run. An outlier of a CVT is appended first; one that finds no room raises
SKEP_FULL at its element. -/
def Claims.ElementPieces : Prop :=
  ∀ (s : State) (ch : BitVec 2) (id : Word32) (t : Transfer) (c : BitVec 2) (rd rs : BitVec 4) (rnd : BitVec 2) (sat v : BitVec 1)
    (did : BitVec 3) (u11 : Imm 11) (u8 : Imm 8), s.MovesHere ch.toNat id t →
    let a := t.sSrc
    let d := t.sDst
    let f := t.cursor
    let moves (m : State) (n : Nat) (val : Nat → Nat) (fl : BitVec 6) : Prop := ∃ z t', s.PieceTo ch id z t' ∧
      m.Written z t d f n val ∧ t'.cursor = f + n ∧ t'.fin = decide (d.count ≤ f + n) ∧ z.cl.xe.flags = s.cl.xe.flags ||| fl
    let run := Nat.min (d.runLen f) (a.runLen f)
    let across := f / d.e0 % d.e1 + a.e0 * (f % d.e0 + a.e1 * (f / d.e0 / d.e1))
    (t.op = .copy c rd rs v did u11 → 0 < run → s.Near t d f run → s.Near t a f run → a.bits = d.bits →
      moves s run (fun i => s.elemOf t a (f + i)) 0) ∧
    (t.op = .xpose c rd rs v did u11 → s.Near t d f 1 → s.Near t a across 1 → a.bits = d.bits →
      moves s 1 (fun _ => s.elemOf t a across) 0) ∧
    (t.op = .cvt c rd rs rnd sat v did u8 → 0 < run → s.Near t d f run → s.Near t a f run →
      let word (i : Nat) : Nat :=
        genWord t.key (d.logical (t.cf 2).toNat (f + i)) ((t.cf 3).setWidth 32) ((t.cf 4).setWidth 32)
      let el (i : Nat) : Nat := s.elemOf t a (f + i)
      let plain (i : Nat) : Nat × BitVec 6 := convertElem a.fmt d.fmt (.ofBits rnd.toNat) (sat == 1) (word i) (el i)
      let code (i : Nat) : Byte × Bool := toCode ((t.cf 1).toNat % 8) (bit (t.cf 1).toNat 6) ((t.cf 0).setWidth 32)
        (.ofBits rnd.toNat) (word i) (elemVal a.fmt (el i))
      (d.fmt ≠ 0xB → moves s run (fun i => (plain i).1) ((List.range run).foldl (fun x i => x ||| (plain i).2) 0)) ∧
      (d.fmt = 0xB → (∀ i < run, (code i).2 = true → f + i < t.app) → moves s run (fun i => (code i).1.toNat) 0) ∧
      (d.fmt = 0xB → (code 0).2 = true → t.app ≤ f →
        let put := s.skepAppend (skepOf (t.cf 5)) (d.logical (t.cf 2).toNat f) (outlierVal a.fmt (el 0))
        (∀ m, put = some m → run = 1 → moves m 1 (fun _ => (code 0).1.toNat) 0) ∧
        (put = none → ∃ z, exec (.transferPiece ch id) s = .next z ∧ (∀ b < 2 ^ 51, z.rd8 b = s.rd8 b) ∧
          z.cl.flt = (s.takeFault (t.trap ch.toNat .skepFull)).cl.flt)))

/-- R279, R280: the pieces of CMPR: its tile is gathered; the record of the tile, bitmap, nonzero words and padding, takes its space, or
raises SPAD_RANGE; it is written, 64 bytes at a time; and at last the table's word, with which the cursor passes the tile. -/
def Claims.CompressionPieces : Prop :=
  ∀ (s : State) (ch : BitVec 2) (id : Word32) (t : Transfer) (c k : BitVec 2) (rs : BitVec 4) (x : BitVec 6) (v : BitVec 1)
    (did : BitVec 3) (u : Imm 6), s.MovesHere ch.toNat id t → t.op = .cmpr c k rs x v did u →
    let a := t.sSrc
    let g := t.cf (6 + k.toNat)
    let base := crgnBase g
    let fill := (s.cl.xe.cfill.get 0 k.toNat).toNat
    let w := t.tile.length / 4
    let f := 1024 * t.cursor + w
    let n := Nat.min (a.runLen f) (1024 - w)
    let word (i : Nat) : Nat := ofBytes ((t.tile.drop (4 * i)).take 4)
    let table := base + 4 * (t.xr.toNat + t.cursor)
    (t.tfull = false → t.tile.length < 4096 → s.Near t a f n → ∃ z, s.PieceTo ch id z
      { t with tile := t.tile ++ ((List.range n).map fun i => s.elemOf t a (f + i)).flatMap fun y => bytesOf y 4 } ∧
        SameMem s z ∧ z.cl.xe.cfill = s.cl.xe.cfill) ∧
    (t.tfull = false → t.tile.length = 4096 → ∃ (map : Nat) (pad : Nat),
      let r := bytesOf map 128 ++ (((List.range 1024).map word).filter (· != 0)).flatMap (fun y => bytesOf y 4)
        ++ List.replicate pad 0
      (∀ i < 1024, map.testBit i = (word i != 0)) ∧ pad < 16 ∧ r.length % 16 = 0 ∧
      (base + crgnLen g < fill + r.length → s.PieceTraps ch id t (t.trap ch.toNat .spadRange 0 (fill + r.length - 1))) ∧
      (fill + r.length ≤ base + crgnLen g → ∃ z, s.PieceTo ch id z { t with tile := r, tput := 0, tat := fill, tfull := true } ∧
        SameMem s z ∧ ∀ j, z.cl.xe.cfill.get 0 j = if j = k.toNat then .ofNat 22 (fill + r.length) else s.cl.xe.cfill.get 0 j)) ∧
    (t.tfull = true → t.tput < t.tile.length → t.tat + t.tile.length ≤ 2 ^ 21 →
      let l := (t.tile.drop t.tput).take 64
      ∃ z t', s.PieceTo ch id z t' ∧ (∀ i < l.length, z.rd8 (s.spad (t.tat + t.tput) + i) = l.getD i 0) ∧
        SameMemBut (s.spad (t.tat + t.tput)) l.length s z ∧ t'.tput = t.tput + l.length ∧ t'.tile = t.tile ∧ t'.tat = t.tat ∧
        t'.tfull = true ∧ t'.cursor = t.cursor) ∧
    (t.tfull = true → t.tile.length ≤ t.tput → table + 4 ≤ 2 ^ 21 → ∃ z t', s.PieceTo ch id z t' ∧
      z.rdLE (s.spad table) 4 = (t.tat - base) % 2 ^ 32 ∧ SameMemBut (s.spad table) 4 s z ∧ t'.tile = [] ∧ t'.tfull = false ∧
      t'.cursor = t.cursor + 1 ∧ t'.fin = decide (a.count ≤ 1024 * (t.cursor + 1)))

/-- R279, R280: the pieces of EXPD: the table's word names the tile's record, none for a tile of zeros; the record is gathered, and one
that would reach beyond the region raises SPAD_RANGE; its bitmap says which words are zero; the tile is written, run by run. -/
def Claims.ExpansionPieces : Prop :=
  ∀ (s : State) (ch : BitVec 2) (id : Word32) (t : Transfer) (c k : BitVec 2) (rd : BitVec 4) (x : BitVec 6) (v : BitVec 1)
    (did : BitVec 3) (u : Imm 6), s.MovesHere ch.toNat id t → t.op = .expd c k rd x v did u →
    let d := t.sDst
    let g := t.cf (6 + k.toNat)
    let base := crgnBase g
    let lim := base + crgnLen g
    let o := s.rdLE (s.spad (base + 4 * (t.xr.toNat + t.cursor))) 4
    let map := ofBytes (t.tile.take 128)
    let size := if t.tile.length < 128 then 128 else (128 + 4 * popcount map 1024 + 15) / 16 * 16
    let f := 1024 * t.cursor + t.tput / 4
    let n := Nat.min (d.runLen f) (1024 - t.tput / 4)
    let traps (a : Nat) : Prop := s.PieceTraps ch id t (t.trap ch.toNat .spadRange 0 a)
    let gathers (t' : Transfer) : Prop := ∃ z, s.PieceTo ch id z t' ∧ SameMem s z
    (t.tfull = false → t.tat = 0 →
      (o = 0 → gathers { t with tile := List.replicate 4096 0, tput := 0, tfull := true }) ∧
      (o ≠ 0 → lim < base + o + 128 → traps (base + o + 127)) ∧
      (o ≠ 0 → base + o + 128 ≤ lim → gathers { t with tile := [], tat := base + o })) ∧
    (t.tfull = false → t.tat ≠ 0 →
      (lim < t.tat + size → traps (t.tat + size - 1)) ∧
      (t.tat + size ≤ lim → t.tile.length < size →
        gathers { t with tile := t.tile ++ s.rdBytes (s.spad (t.tat + t.tile.length)) (Nat.min 64 (size - t.tile.length)) }) ∧
      (t.tat + size ≤ lim → size ≤ t.tile.length → gathers { t with
        tile := (List.range 1024).flatMap fun w => if map.testBit w
          then bytesOf (ofBytes ((t.tile.drop (128 + 4 * popcount map w)).take 4)) 4 else [0, 0, 0, 0]
        tput := 0, tfull := true })) ∧
    (t.tfull = true → d.bits = 32 → t.tput < 4096 → 0 < n → s.Near t d f n → ∃ z t', s.PieceTo ch id z t' ∧
      s.Written z t d f n (fun i => ofBytes ((t.tile.drop (t.tput + 4 * i)).take 4)) ∧
      (t.tput + 4 * n < 4096 → t'.tput = t.tput + 4 * n ∧ t'.tile = t.tile ∧ t'.tfull = true ∧ t'.cursor = t.cursor) ∧
      (4096 ≤ t.tput + 4 * n → t'.tile = [] ∧ t'.tfull = false ∧ t'.tat = 0 ∧ t'.tput = 0 ∧ t'.cursor = t.cursor + 1 ∧
        t'.fin = decide (d.count ≤ 1024 * (t.cursor + 1))))

/-- R281, R282: the pieces of DECODE: the block is gathered; its header is checked, ILLEGAL_CODE where it is refused; symbols are written
from the cursor, up to one that cannot be decoded; and with the last one the CRC is compared. -/
def Claims.DecodePieces : Prop :=
  ∀ (s : State) (ch : BitVec 2) (id : Word32) (t : Transfer) (c : BitVec 2) (rd rs : BitVec 4) (cb : BitVec 2) (v : BitVec 1)
    (did : BitVec 3) (u : Imm 9), s.MovesHere ch.toNat id t → t.op = .decode c rd rs cb v did u →
    let a := t.sSrc
    let d := t.sDst
    let byte (i n : Nat) : Nat := ofBytes ((t.tile.drop i).take n)
    let len (k : Nat) : Nat := byte 12 8 / 16 ^ k % 16
    let share (k : Nat) : Nat := if len k = 0 then 0 else 2 ^ (12 - len k)
    let count := byte 8 4
    let plen := byte 20 4
    let good : Prop := 32 ≤ a.count ∧ byte 0 4 = 0x43454231 ∧ byte 4 1 = 1 ∧ byte 5 1 = cb.toNat ∧ byte 6 2 = 0 ∧
      1 ≤ count ∧ count ≤ 2 ^ 24 ∧ (∀ k < 16, len k ≤ 12) ∧ (∃ k < 16, len k ≠ 0) ∧
      ((List.range 16).map share).sum ≤ 2 ^ 12 ∧ 1 ≤ plen ∧ plen ≤ 2 ^ 24 ∧ 32 + plen ≤ a.count ∧ count ≤ d.count
    let n := a.runLen t.tile.length
    let m := Nat.min (d.runLen t.cursor) (count - t.cursor)
    (t.work = [] → t.tile.length < a.count → 0 < n → s.Near t a t.tile.length n → ∃ z, s.PieceTo ch id z
      { t with tile := t.tile ++ (List.range n).map fun i => .ofNat 8 (s.elemOf t a (t.tile.length + i)) } ∧ SameMem s z) ∧
    (t.work = [] → a.count ≤ t.tile.length →
      (¬ good → s.PieceTraps ch id t (t.trap ch.toNat .illegalCode)) ∧
      (good → ∃ z t', s.PieceTo ch id z t' ∧ SameMem s z ∧ t'.work = [0, 0xFFFFFFFF, 0] ∧ t'.tile = t.tile.take (32 + plen) ∧
        t'.cursor = t.cursor ∧
        t'.least = max (s.leastOver (max (a.bytes a.count) (d.bytes count)) t.homes).1 (s.xnow - t.start) + 4 + (count + 7) / 8)) ∧
    (∀ i crc nb, t.work = [i, crc, nb] → s.Near t d t.cursor m →
      let codes := canonCodes ((List.range 16).map len)
      let r := symbols (t.tile.drop 32) codes (codes.foldl (fun y e => max y e.1) 0) m i
      let y := crcSymbols r.1 (crc, nb)
      let e := t.cursor + r.1.length
      ∃ z t', s.PieceTo ch id z t' ∧ s.Written z t d t.cursor r.1.length (fun i => r.1.getD i 0) ∧ t'.cursor = e ∧
        t'.work = [r.2.1 % 8, y.1, y.2] ∧ t'.tile = t.tile.take 32 ++ t.tile.drop (32 + r.2.1 / 8) ∧
        t'.failed.map (·.2) = (match r.2.2 with
          | some x => some x
          | none => if e = count ∧ crcFinal y ≠ byte 24 4 then some 1 else none) ∧
        t'.fin = (t'.failed.isSome || decide (count ≤ e)))

/-- R169, R252, R283: a piece of LDHCW, LDPLN or LDPAIR: with the source bytes of the run the whole units at hand, of 32, 1 or 8 bytes,
land in the command's memory, in order from the cursor, and the bytes of a unit that is not whole are kept. -/
def Claims.MemoryLoadPieces : Prop :=
  ∀ (s : State) (ch : BitVec 2) (id : Word32) (t : Transfer) (c : BitVec 2) (rs : BitVec 4) (x : BitVec 6) (v : BitVec 1)
    (did : BitVec 3) (u : Imm 7), s.MovesHere ch.toNat id t →
    let a := t.sSrc
    let f := t.cursor + t.tile.length
    let n := a.runLen f
    let l : List Byte := t.tile ++ (List.range n).map fun i => .ofNat 8 (s.elemOf t a (f + i))
    let lands (unit size off : Nat) : Prop :=
      let b := l.length / unit * unit
      let dest := winBase s.cur + off + t.xr.toNat + t.cursor
      s.Near t a f n → t.xr.toNat + t.cursor + b ≤ size → ∃ z t', s.PieceTo ch id z t' ∧
        (∀ i < b, z.rd8 (dest + i) = l.getD i 0) ∧ SameMemBut dest b s z ∧ t'.tile = l.drop b ∧ t'.cursor = t.cursor + b ∧
        t'.fin = decide (a.count ≤ t.cursor + b)
    (t.op = .ldhcw c rs x v did u → lands 32 0x4000 0x60000) ∧
    (t.op = .ldpln c rs x v did u → lands 1 0x10000 0x50000) ∧
    (t.op = .ldpair c rs x v did u → lands 8 0x18280 0x70000)

/-- R274, R284, R285, R288, R404, R405, R407: a piece of SEND and a RAMO each leave as one message, which their die keeps until it is
answered: the packed bytes of the elements from the first not sent, for the receiving cluster's scratchpad and barrier; the operation,
its width, its operands and its target. In locked mode a piece takes only what its plan entry still carries. -/
def Claims.MessagePieces : Prop :=
  ∀ (s : State) (ch : BitVec 2) (id : Word32) (t : Transfer) (c : BitVec 2) (rs : BitVec 4) (x : BitVec 6) (v : BitVec 1)
    (did : BitVec 3) (u9 : Imm 9) (w nr : BitVec 1) (ra rv rr : BitVec 3) (u8 : Imm 8), s.Moves ch.toNat id t →
    let a := t.sSrc
    let seq := (s.die s.curDie).nextSeq
    let leaves (m : Msg) (piece : Nat) (t' : Transfer) : Prop :=
      let m := { m with sdie := .ofNat 6 s.curDie, scl := .ofNat 4 s.curCl, ch := ch, seq := seq }
      s.reqFree s.curDie m.ddie.toNat = true → ∃ z t1, s.PieceTo ch id z t1 ∧ SameMem s z ∧
        t1 = { t' with cursor := t1.cursor, out := t.out ++ [seq.toNat] } ∧
        (z.die s.curDie).reqs = (s.die s.curDie).reqs ++
          [{ seq := seq, msg := m, cl := s.curCl, ch := ch.toNat, id := t.id, piece := piece }] ∧
        (z.die s.curDie).nextSeq = seq + 1 ∧ (m.ddie.toNat = s.curDie → z.net = s.net ++ [m]) ∧
        (m.ddie.toNat ≠ s.curDie → ∀ j, s.nextHop s.curDie m.ddie.toNat = some j →
          ((z.die s.curDie).link j).out = ((s.die s.curDie).link j).out ++ [m])
    let size := a.bytes a.count
    let packed (i : Nat) : Byte :=
      if a.bits = 4 then .ofNat 8 (s.elemOf t a (2 * i) + if 2 * i + 1 < a.count then 16 * s.elemOf t a (2 * i + 1) else 0)
      else .ofNat 8 (s.elemOf t a (i / (a.bits / 8)) / 256 ^ (i % (a.bits / 8)))
    let sends (n : Nat) : Prop :=
      t.op = .send c rs x v did u9 → 0 < n → (∀ f < a.count, s.Near t a f 1) →
        leaves { typ := 6, ddie := .ofNat 6 (t.xr.toNat / 2 ^ 30 % 64), dcl := .ofNat 4 (t.xr.toNat / 2 ^ 26 % 16)
                 arg := .ofNat 64 (t.xr.toNat % 2 ^ 21 + t.asked + t.xr.toNat / 2 ^ 21 % 32 * 2 ^ 21)
                 data := (List.range n).map fun i => packed (t.asked + i) }
          t.asked { t with asked := t.asked + n, fin := decide (size ≤ t.asked + n) }
    let run := Nat.min (Nat.min 64 (t.sendRun t.asked)) (size - t.asked)
    let pa := t.tr.get 0 (t.xr.toNat / 65536) + t.xr.toNat % 65536
    let atomic (op : Nat) : Prop :=
      leaves { typ := 4, ddie := .ofNat 6 (pa / 2 ^ 45 % 64)
               arg := .ofNat 64 (pa % 2 ^ 52 + op * 2 ^ 52 + w.toNat * 2 ^ 56 + nr.toNat * 2 ^ 57)
               data := bytesOf t.xv.toNat 8 ++ if op = 9 then bytesOf (t.src.headD 0).toNat 8 else [] }
        0 { t with asked := 1, fin := true }
    (s.cl.locked = false → sends run) ∧
    (s.cl.locked = true → ∀ e, s.entryNow ch.toNat t = some e → sends (Nat.min run (s.entryLeft ch.toNat e))) ∧
    (t.op = .ramoAdd c w ra rv rr nr u8 → atomic 0) ∧ (t.op = .ramoAnd c w ra rv rr nr u8 → atomic 1) ∧
    (t.op = .ramoOr c w ra rv rr nr u8 → atomic 2) ∧ (t.op = .ramoXor c w ra rv rr nr u8 → atomic 3) ∧
    (t.op = .ramoMin c w ra rv rr nr u8 → atomic 4) ∧ (t.op = .ramoMax c w ra rv rr nr u8 → atomic 5) ∧
    (t.op = .ramoMinu c w ra rv rr nr u8 → atomic 6) ∧ (t.op = .ramoMaxu c w ra rv rr nr u8 → atomic 7) ∧
    (t.op = .ramoSwap c w ra rv rr nr u8 → atomic 8) ∧ (t.op = .ramoCas c w ra rv rr nr u8 → atomic 9)

/-- R34, R268, R276, R282: a transfer whose work and least time are over completes, in locked mode from its budget cycle on:
at the head of its channel it leaves it and the watermark advances, behind an unfinished one it is only marked; a DECODE that
failed raises DECODE_CHECKSUM instead; before that nothing happens. -/
def Claims.TransferCompletionResults : Prop :=
  ∀ (s : State) (ch : BitVec 2) (id : Word32) (t : Transfer), s.xferOf s.cur ch.toNat id = some t →
    let workOver : Prop := t.done = false ∧ t.fin = true ∧ t.heldW = [] ∧ t.out = [] ∧ t.start + t.least ≤ s.xnow
    let c := s.cl.chan ch.toNat
    let completes (i : Instr) : Prop :=
      (∀ l, t.failed = none → c.q = t :: l → (∀ y ∈ l, y.done = false ∧ y.id ≠ id) → ∃ z, exec i s = .next z ∧
        z.cl = s.cl.setChan ch.toNat { c with wmark := id, q := l } ∧ SameMem s z) ∧
      (∀ y l, t.failed = none → c.q = y :: l → y.done = false → y.id ≠ id → ∃ z, exec i s = .next z ∧ SameMem s z ∧
        (z.cl.chan ch.toNat).wmark = c.wmark ∧
        (z.cl.chan ch.toNat).q = c.q.map fun y => if y.id = id then { y with done := true } else y) ∧
      (∀ a b, t.failed = some (a, b) → exec i s = .next (s.takeFault (t.trap ch.toNat .decodeChecksum b)))
    (workOver → (s.cl.locked = true → ∃ d, t.due = some d ∧ d ≤ s.cyc) → completes (.transferComplete ch id)) ∧
    (workOver → s.cl.locked = true → (∃ d, t.due = some d ∧ d ≤ s.cyc) → completes (.budgetCycle ch id)) ∧
    (¬ workOver → exec (.transferComplete ch id) s = .next s ∧ exec (.budgetCycle ch id) s = .next s) ∧
    (s.cl.locked = true → (∃ d, t.due = some d ∧ s.cyc < d) →
      exec (.transferComplete ch id) s = .next s ∧ exec (.budgetCycle ch id) s = .next s)

/-- R34, R268, R272, R274, R276, R278 to R285, R288, R405: the pieces of every transfer command whose ends lie on the issuing cluster's
die or in host memory, the messages of SEND and RAMO, and the completion of transfers.
Where the spec is open it states the model's own reading: the least time runs in the copy engine's clock of log 44, and a run ends as log
79 says; the symbols and refusals of DECODE are those of logs 51 and 102; logs 8, 33, 87, 101, 105. -/
def Obligations.TransferResults : Prop :=
  Claims.ElementPieces ∧ Claims.CompressionPieces ∧ Claims.ExpansionPieces ∧ Claims.DecodePieces ∧ Claims.MemoryLoadPieces ∧
    Claims.MessagePieces ∧ Claims.TransferCompletionResults

/-- R27, R35, R144, R286, R309: a gate of class 0 that finds no unit at its target cycle in locked mode raises TIMING_MISS
and one that finds one retires with its bundle; a task whose streams have ended and whose engines are idle retires; a barrier's
due cycle passes; the read of FENCE.S is answered.
That a gate of class 0 raises it in a cycle after its target too is the model's choice (log 86).
Where the spec is open it states the model's own reading (logs 73, 74, 86). -/
def Obligations.ClusterEventResults : Prop :=
  ∀ s : State,
    (∀ (st : BitVec 2) (p n off : Nat), let r := Str.ofNum st.toNat
      ∀ w, (s.cl.str r).wait = some w → s.gatesAt r = [(p, 0, n, off)] → s.cl.late = false →
        let target := if w.caps.any (fun e => e.1 == p) then w.caps.get 0 p else w.since + off
        (s.cyc < target → exec (.gateTargetCycle st) s = .next s) ∧
        (target ≤ s.cyc → 1 ≤ s.semVal n → exec (.gateTargetCycle st) s = .next s) ∧
        (target ≤ s.cyc → s.semVal n = 0 → s.cl.locked = true → exec (.gateTargetCycle st) s = .next (s.takeFault
          { str := r, cause := Cause.timingMiss.code, pos := p, baddr := (s.cl.str r).pc }))) ∧
    (∀ r, s.cl.task = some r → (∀ st, (s.cl.str st).ended = true) → s.cl.idle = true → ∃ t, exec .taskRetire s = .next t ∧
      t.cl.task = none ∧ SameMem s t ∧ t.cl.s = s.cl.s ∧
      (∀ j, s.job? r.lead r.slot = some j → ∀ x, j.tasks[r.idx]? = some x → ∃ j' x', t.job? r.lead r.slot = some j' ∧
        j'.tasks[r.idx]? = some x' ∧ x' = { x with
          stage := .retired, retPer := j.period, retClk := s.clk, retStep := j.step, ovr := s.cl.ovrcyc.toNat
          frz := s.cl.frzcyc.toNat, slice := s.cl.slicecnt.toNat, cyc := s.cl.taskcyc.toNat })) ∧
    (∀ (xb : BitVec 5) (d : Nat), (s.cl.xb xb.toNat).due = some d → s.cl.locked = true → d ≤ s.cyc →
      exec (.barrierDueCycle xb) s = .next { s with cl := s.cl.setXb xb.toNat { s.cl.xb xb.toNat with due := none } }) ∧
    (s.cl.pcie = 1 → exec .fenceSPcieReadComplete s = .next { s with cl := { s.cl with pcie := 2 } })


/-! Queues and launches (18). -/

/-- n bytes of memory from a on as a number, and that they are 0. -/
def Claims.num (s : State) (a n : Nat) : Nat := s.rdLE a n
def Claims.zeros (s : State) (a n : Nat) : Prop := ∀ i < n, (s.rd8 (a + i)).toNat = 0

/-- The launch block that the entry at e names, the dies of its die set, its directory entries and its task records (R357, R358). -/
def Claims.blockOf (s : State) (e : Nat) : Nat := Claims.num s (e + 8) 8 % 2 ^ 52
def Claims.diesOf (s : State) (b : Nat) : List Nat := (List.range 64).filter fun k => (Claims.num s (b + 8) 8).testBit k
def Claims.dirAt (b i : Nat) : Nat := b + 0x40 + 32 * i
def Claims.recAt (s : State) (b i : Nat) : Nat := b + 0x40 + 32 * (Claims.diesOf s b).length + 640 * i

/-- R357 to R359: every field of the entry, the block and its records is of the form that its table gives, the reserved ones zero. -/
def Claims.EntryForm (s : State) (e : Nat) : Prop :=
  let w := Claims.num s
  let zero := Claims.zeros s
  let b := Claims.blockOf s e
  let recOk (r : Nat) : Prop := w (r + 1) 1 < 16 ∧ w (r + 2) 1 < 16 ∧ zero (r + 3) 5 ∧ zero (r + 0x16) 2 ∧ w (r + 0x18) 4 < 2 ^ 17 ∧
    zero (r + 0x24) 4 ∧ (∀ i < 5, w (r + 0x30 + 16 * i) 8 < 2 ^ 52) ∧ zero (r + 0x240) 0x40
  zero (e + 1) 3 ∧ zero (e + 20) 44 ∧ w (e + 8) 8 < 2 ^ 52 ∧ b % 64 = 0 ∧ w b 4 = 0x4C424C31 ∧ w (b + 4) 4 = 1 ∧
    w (b + 0x10) 1 < 2 ∧ zero (b + 0x12) 2 ∧ zero (b + 0x18) 0x28 ∧
    w (e + 16) 4 = 64 + 32 * (Claims.diesOf s b).length + 640 * w (b + 0x14) 4 ∧
    (∀ i < (Claims.diesOf s b).length, zero (Claims.dirAt b i + 26) 6) ∧ ∀ i < w (b + 0x14) 4, recOk (Claims.recAt s b i)

/-- R361, R389, R458: the directory's counts, the tasks' ordinals, the plans and the step tables. -/
def Claims.TablesGood (s : State) (e : Nat) : Prop :=
  let w := Claims.num s
  let zero := Claims.zeros s
  let b := Claims.blockOf s e
  let nd := (Claims.diesOf s b).length
  let nt := w (b + 0x14) 4
  let count (i : Nat) : Nat := w (Claims.dirAt b i + 24) 2
  let before (i : Nat) : Nat := ((List.range i).map count).sum
  let planOk (p : Nat) : Prop := zero (p + 5) 11 ∧ ∀ i < w p 4,
    let f := p + 16 + 16 * i
    w (f + 4) 1 < 64 ∧ w (f + 5) 1 < 64 ∧ w (f + 6) 1 < 16 ∧ w (f + 7) 1 < 2 ∧ zero (f + 12) 4 ∧ 1 ≤ w (f + 2) 2 ∧
      w f 2 + w (f + 2) 2 ≤ 2 ^ w (p + 4) 1 ∧ (i + 1 < w p 4 → w f 2 ≤ w (f + 16) 2)
  let stepOk (p p0 : Nat) : Prop := 1 ≤ w p 4 ∧ w p 4 ≤ 65535 ∧ zero (p + 4) 4 ∧ w p 4 = w p0 4 ∧ ∀ i < w p 4,
    w (p + 8 + 4 * i) 4 < 2 ^ 18 ∧ w (p + 8 + 4 * i) 4 % 2 ^ 16 ≠ 0 ∧ w (p + 8 + 4 * i) 4 = w (p0 + 8 + 4 * i) 4
  let at_ (i o : Nat) : Nat := w (Claims.dirAt b i + o) 8 % 2 ^ 52
  before nd = nt ∧ 1 ≤ nt ∧ nt ≤ 262144 ∧ ∀ i < nd, 1 ≤ count i ∧ count i ≤ 4096 ∧
    (∀ m < count i, ∀ n < m, w (Claims.recAt s b (before i + n)) 2 % 2 ^ 12 ≠ w (Claims.recAt s b (before i + m)) 2 % 2 ^ 12) ∧
    (w (b + 0x10) 1 = 1 → w (at_ i 0 + 4) 1 = w (b + 0x11) 1) ∧ planOk (at_ i 0) ∧ stepOk (at_ i 8) (at_ 0 8)

/-- R284, R361: the loop tables. -/
def Claims.LoopsGood (s : State) (e : Nat) : Prop :=
  let w := Claims.num s
  let b := Claims.blockOf s e
  let loopOk (p p0 : Nat) : Prop :=
    let nl := w p 2
    let nm := w (p + 2) 2
    let map (i : Nat) : Nat := w (p + 8 + 8 * nl + 8 * i) 8
    1 ≤ nl ∧ nl ≤ 16 ∧ Claims.zeros s (p + 4) 4 ∧
      (∀ i < nl, let v := w (p + 8 + 8 * i) 8; v % 2 ^ 32 ≠ 0 ∧ v / 2 ^ 32 % 4 < 3 ∧ v < 2 ^ 34) ∧
      (∀ i < nm, map i < 2 ^ 36 ∧ map i / 2 ^ 20 % 2 ^ 16 ≠ 0 ∧ map i / 2 ^ 20 % 2 ^ 16 < 2 ^ nl) ∧
      (∀ i < nm, ∀ k < i, map k % 2 ^ 20 ≠ map i % 2 ^ 20) ∧ ∀ i < nl + nm + 1, w (p + 8 * i) 8 = w (p0 + 8 * i) 8
  let at_ (i : Nat) : Nat := w (Claims.dirAt b i + 16) 8 % 2 ^ 52
  ∀ i < (Claims.diesOf s b).length, loopOk (at_ i) (at_ 0)

/-- R284, R357 to R359, R361, R389, R458: the checks of an entry in their order, where no read of them meets an error: the first that
fails gives the CAUSE of the refusal. A NOP entry, or one that is refused, stands at the head of a queue that has room for its
completion, on a die with a free job slot that no other queue's claim names; there an entry that passes them is admitted in shared mode
where no die of its set has an owner or stands in another's claim, and waits otherwise; in locked mode it first claims its dies, and is
admitted once its claim is the oldest and no die of the set has a task, a pending task or an owner. -/
def Claims.LaunchChecks : Prop :=
  ∀ (s : State) (die : BitVec 6) (q : BitVec 8), s.memOk → s.bad = [] →
    let d := die.toNat
    let x := (s.die d).queue q.toNat
    let e := x.qbase.toNat + 64 * (x.qhead.toNat % 2 ^ x.log2n.toNat)
    let b := Claims.blockOf s e
    let dies := Claims.diesOf s b
    let op := Claims.num s e 1
    let cexp := Claims.num s (b + 0x11) 1
    let here : Prop := ∀ k ∈ dies, (s.die k).present = true
    let r := s.refusal d e
    (op ≠ 1 → r = 1) ∧ (op = 1 → ¬ Claims.EntryForm s e → r = 2) ∧
    (op = 1 → Claims.EntryForm s e → (cexp < 10 ∨ 16 < cexp) → r = 3) ∧
    (op = 1 → Claims.EntryForm s e → 10 ≤ cexp → cexp ≤ 16 →
      (dies.head? ≠ some d → r = 4) ∧ (dies.head? = some d → (¬ here → r = 5) ∧ (here → ¬ Claims.TablesGood s e → r = 6) ∧
        (here → Claims.TablesGood s e → ¬ Claims.LoopsGood s e → r = 7) ∧
        (here → Claims.TablesGood s e → Claims.LoopsGood s e → r = 0))) ∧
    ((x.qhead - x.qchead).toNat < 2 ^ x.log2n.toNat → (s.jobs.filter fun j => j.lead == d).length < 64 →
      (∀ c ∈ s.claims, d ∈ c.dies → c.lead = d ∧ c.queue = q.toNat) →
      (op = 0 → s.headOf d q.toNat = .nop) ∧ (op ≠ 0 → r ≠ 0 → s.headOf d q.toNat = .refuse r) ∧
      (op ≠ 0 → r = 0 →
        let locked : Prop := Claims.num s (b + 0x10) 1 % 2 = 1
        let mine (c : Claim) : Prop := c.lead = d ∧ c.queue = q.toNat
        let open_ (k : Nat) : Prop := (s.die k).owner = none ∧ ∀ c ∈ s.claims, k ∈ c.dies → mine c
        let free (k : Nat) : Prop := (s.die k).owner = none ∧
          ∀ n < 16, (s.cluster (16 * k + n)).task = none ∧ (s.cluster (16 * k + n)).pendl = []
        (¬ locked → (∀ k ∈ dies, open_ k) → s.headOf d q.toNat = .admits dies) ∧
        (¬ locked → ¬ (∀ k ∈ dies, open_ k) → s.headOf d q.toNat = .wait) ∧
        (locked → (∀ c ∈ s.claims, ¬ mine c) → s.headOf d q.toNat = .claim dies) ∧
        (∀ c l, locked → s.claims = c :: l → ¬ mine c → (∃ y ∈ l, mine y) → s.headOf d q.toNat = .wait) ∧
        ∀ c l, locked → s.claims = c :: l → mine c →
          ((∀ k ∈ dies, free k) → s.headOf d q.toNat = .admits dies) ∧ (¬ (∀ k ∈ dies, free k) → s.headOf d q.toNat = .wait)))

/-- R355 to R357, R360 to R362, R388, R435: DOORBELL and the control word of a queue, which take effect from BSTATE 5 on; the head of
the selected queue: a NOP entry completes with status 0, an entry that fails a check completes with status 2 and its cause, a shared
launch whose dies are free of owners and claims is admitted and its tasks join the pending lists, a locked one first claims its dies. -/
def Claims.QueueUse : Prop :=
  ∀ (s : State) (die : BitVec 6) (q : BitVec 8) (v : BitVec 16) (w : Word32),
    let d := die.toNat
    let n := q.toNat
    let x := (s.die d).queue n
    let size := 2 ^ x.log2n.toNat
    let held := (x.qtail - x.qhead).toNat
    let y : Queue := { x with en := w.getLsbD 31, ien := w.getLsbD 30, wgt := w.extractLsb' 6 4, pri := w.extractLsb' 4 2 }
    let weights : Nat := (((((s.die d).setQueue n y).queues.filter fun e => e.2.en && e.2.pri == y.pri).map
      fun e => e.2.wgt.toNat + 1).foldl (· + ·) 0)
    let log : BitVec 4 := if w.toNat % 16 < 4 then 4 else if 12 < w.toNat % 16 then 12 else w.extractLsb' 0 4
    let only (t : State) (d : Nat) (z : Queue) : Prop := t = s.updDie d fun e => e.setQueue n z
    (s.boot.bstate ≠ 5 → exec (.doorbell die q v) s = .next s ∧ exec (.queueControlWrite die q w) s = .next s) ∧
    (s.boot.bstate = 5 → ∃ t, exec (.doorbell die q v) s = .next t ∧
      only t d (if size < (v - x.qhead).toNat then { x with terr := true } else { x with qtail := v })) ∧
    (s.boot.bstate = 5 → weights ≤ 256 → (0 < held ∨ x.owed ≠ []) → log = x.log2n →
      ∃ t, exec (.queueControlWrite die q w) s = .next t ∧ only t d y) ∧
    (s.boot.bstate = 5 → weights ≤ 256 → (0 < held ∨ x.owed ≠ []) → log ≠ x.log2n →
      exec (.queueControlWrite die q w) s = .next ((s.updDie d fun e => e.setQueue n y).ignored 1 d 0
        (0x1F0000000000 + (0x10000 + 0x40 * n + 8)) w.toNat 4 1 0)) ∧
    (s.boot.bstate = 5 → weights ≤ 256 → held = 0 → x.owed = [] →
      ∃ t, exec (.queueControlWrite die q w) s = .next t ∧ only t d { y with log2n := log }) ∧
    (s.boot.bstate = 5 → 256 < weights → ∃ t, exec (.queueControlWrite die q w) s = .next t ∧ only t d { x with werr := true }) ∧
    (∀ p a, (s.die d).pick = some (p, n, a) → s.boot.bstate = 5 → (s.die d).present = true →
      let s1 := s.recordPick d p a
      let e := x.entryAt x.qhead.toNat
      let idx := x.qhead.toNat
      let done (st cause : Nat) (tag : Nat) : List Byte :=
        bytesOf tag 4 ++ bytesOf st 1 ++ bytesOf cause 1 ++ bytesOf 0 10 ++ bytesOf s.mtime.toNat 8 ++ bytesOf 0 8
      (s1.headOf d n = .nop → exec (.entryNop die q) s =
        .next ((s1.readHead d n p).owe d n idx (done 0 0 (s.rdLE (e + 4) 4)))) ∧
      (∀ c, s1.headOf d n = .refuse c →
        let tag := if s.errs (e + 4) 4 then 0 else s.rdLE (e + 4) 4
        let z := (s1.countRefused e c).readHead d n p
        let z := if c = 1 then z.updQueue d n fun y => { y with eerr := true } else z
        exec (.launch die q) s = .next ((z.postJobFault d n idx 0xFF c 0 (done 2 c tag)).owe d n idx (done 2 c tag)) ∧
        ∀ y ∈ z.claims, ¬ (y.lead = d ∧ y.queue = n)) ∧
      (∀ c, s1.headOf d n = .refuse c → c ≠ 13 → s1.countRefused e c = s1) ∧
      (∀ l, s1.headOf d n = .claim l → exec (.launch die q) s =
        .next { s1 with claims := s1.claims ++ [{ lead := d, queue := n, dies := l }] }) ∧
      (∀ l, s1.headOf d n = .admits l → ∃ (t : State) (j : Job), exec (.launch die q) s = .next t ∧ j ∈ t.jobs ∧
        t.jobs.length = s.jobs.length + 1 ∧ j = s1.buildJob d n e ∧ SameMem s t ∧ (∀ y ∈ t.claims, ¬ (y.lead = d ∧ y.queue = n)) ∧
        (let b := Claims.blockOf s e
         let dies := Claims.diesOf s b
         let count (i : Nat) : Nat := Claims.num s (Claims.dirAt b i + 24) 2
         j.lead = d ∧ j.queue = n ∧ j.index = x.qhead ∧ j.tag.toNat = Claims.num s (e + 4) 4 ∧ j.dies = dies ∧
         (j.locked = true ↔ Claims.num s (b + 0x10) 1 % 2 = 1) ∧
         ∀ i y, dies[i]? = some y → ∀ m < count i,
           let rec_ := Claims.recAt s b (((List.range i).map count).sum + m)
           ∃ r, j.tasks[((List.range i).map count).sum + m]? = some r ∧ r.die = y ∧ r.lcl = Claims.num s (rec_ + 2) 1 % 16 ∧
             r.ord = Claims.num s rec_ 2 % 2 ^ 12 ∧ r.stage = .waiting) ∧
        ((t.die d).queue n).qhead = x.qhead + 1 ∧ ((t.die d).queue n).owed = x.owed ++ [(idx, none)] ∧
        (∀ i r, j.tasks[i]? = some r →
          ({ lead := d, slot := j.slot, idx := i } : TaskRef) ∈ (t.cluster (16 * r.die + r.lcl)).pendl)))

/-- R284, R355 to R362, R388, R389, R435, R458: the queues, the checks of their entries, and what becomes of them.
Where the spec is open it states the model's own reading (logs 52, 53, 54). -/
def Obligations.QueueResults : Prop := Claims.LaunchChecks ∧ Claims.QueueUse

/-- What n bytes at window offset o of cluster k hold once segment g has been loaded there: the segment at its offset, 0
elsewhere. A segment within the cluster's own window is left to the order of the loads. -/
def Claims.Holds (s z : State) (k o n : Nat) (g : Seg) : Prop :=
  let b := winBase k + o
  (∀ i < n, (i < g.off ∨ g.off + g.len ≤ i) → z.rd8 (b + i) = 0) ∧
  ((g.addr + g.len ≤ winBase k ∨ winBase k + 0x400000 ≤ g.addr) → ∀ i < g.len, g.off + i < n →
    z.rd8 (b + g.off + i) = s.rd8 (g.addr + i))

/-- R38, R252, R364: DIE_IMAGE_LOAD of task t on cluster k from s: with every load good the halves, the data, HCW and
pair-memory images stand in the cluster and the task is loaded; an instruction half with a segment of length 0, or whose tag
is its digest, is left; a failed load clears its half's tag and ends the job with cause 8. -/
def Claims.ImageLoad (s : State) (lead slot die : BitVec 6) (ord : BitVec 12) (j : Job) (i : Nat) (t : TaskRec) : Prop :=
  let k := 16 * t.die + t.lcl
  let now (z : State) : Option Job := z.job? lead.toNat slot.toNat
  let half (z : State) (o : Nat) (g : Seg) (tag tag' : Option (BitVec 512)) (dig : BitVec 512) : Prop :=
    ((g.len = 0 ∨ tag = some dig) → (∀ n < 0x20000, z.rd8 (winBase k + o + n) = s.rd8 (winBase k + o + n)) ∧ tag' = tag) ∧
    (g.len ≠ 0 → tag ≠ some dig → Claims.Holds s z k o 0x20000 g ∧ tag' = some dig ∧
      sha3 (z.rdBytes (winBase k + o) 0x20000) = dig)
  ∀ g0 g1 g2 g3 g4, t.segs = [g0, g1, g2, g3, g4] →
    (∀ s1, s.loadTask t = (s1, true) → ∃ z, exec (.dieImageLoad lead slot die ord) s = .next z ∧
      half z 0 g0 (s.cluster k).tagA (z.cluster k).tagA t.diga ∧
      half z 0x20000 g1 (s.cluster k).tagB (z.cluster k).tagB t.digb ∧
      Claims.Holds s z k offSpad 0x200000 g2 ∧ Claims.Holds s z k offHcw 0x4000 g3 ∧
      Claims.Holds s z k offPair 0x18280 g4 ∧
      (∀ n, 0x18280 ≤ n → n < 0x1C000 → z.rd8 (winBase k + offPair + n) = 0) ∧
      ∃ j' t', now z = some j' ∧ j'.loadedAt = s.clk ∧ j'.tasks[i]? = some t' ∧ t' = { t with stage := .loaded }) ∧
    (∀ s1, s.loadTask t = (s1, false) → exec (.dieImageLoad lead slot die ord) s =
      .next ((s1.noteLoad (s.loadMet t) t.die).failJob j.lead j.slot 8 0)) ∧
    (g0.len ≠ 0 → (s.cluster k).tagA ≠ some t.diga → (0x20000 < g0.off + g0.len ∨ s.errs g0.addr g0.len = true) →
      ∃ s1, s.loadTask t = (s1, false) ∧ (s1.cluster k).tagA = none)

/-- R132, R359, R365: TASK_START of task t: every register of the cluster at its launch value or that of the task's record. -/
def Claims.StartedTask (s : State) (lead slot die : BitVec 6) (ord : BitVec 12) (j : Job) (i : Nat) (t : TaskRec) : Prop :=
  let k := 16 * t.die + t.lcl
  let c0 := s.cluster k
  let late := if j.locked then s.clk - t.startAt.getD s.clk else 0
  let pc (n : Nat) : BitVec 17 := .ofNat 17 (t.pcs.getD n 0)
  ∃ z, exec (.taskStart lead slot die ord) s = .next z ∧ SameMem s z ∧ (∀ n, n ≠ k → z.cluster n = s.cluster n) ∧
    (∃ j', z.job? lead.toNat slot.toNat = some j' ∧ j'.tasks[i]? = some { t with stage := .running }) ∧
    let c := z.cluster k
    c.task = some { lead := j.lead, slot := j.slot, idx := i } ∧ c.locked = j.locked ∧ c.ord = t.ord ∧ c.scyc = t.scyc ∧
    (∀ st, c.str st = { pc := pc st.num, delay := .ofNat 16 (t.dly.getD st.num 0), ended := false
                        src := if st = .v then none else some (pc st.num) }) ∧
    (∀ n, c.s.get 0 n = if n = 62 then t.sp else 0) ∧ c.p = 1 ∧ (∀ n < 32, c.k.get 0 n = t.k.getD n 0) ∧
    c.seedk = t.seedk ∧ (∀ n, c.sem.get 0 n = 0) ∧ c.swapped = false ∧ c.taskcyc = 0 ∧
    c.frzcyc = .ofNat 64 (t.frz0 + late) ∧ c.ovrcyc = .ofNat 64 (t.ovr0 + late) ∧ c.slicecnt = .ofNat 64 t.slice0 ∧
    (∀ a < 0x4000, c.hcw0.get 0 a = s.rd8 (winBase k + offHcw + a)) ∧ c.ve = {} ∧ c.me = {} ∧ c.pe = {} ∧ c.xe = {} ∧ c.flt = {} ∧ c.heldF = [] ∧
    c.frz = { snap := c0.frz.snap, held := c.frz.held } ∧ c.tagA = c0.tagA ∧ c.tagB = c0.tagB ∧ c.pendl = c0.pendl.tail

/-- R365, R415: FIRST_TICK: D0 sends the tick of period 0 to every die of the job, which act on it 256 clock cycles later. -/
def Claims.FirstTickSent (s : State) (lead slot : BitVec 6) (j : Job) : Prop :=
  let tick (d : Nat) : Msg := { typ := 0x09, ddie := .ofNat 6 d, arg := .ofNat 64 (j.slot % 64 * 2 ^ 48 + j.lead % 64 * 2 ^ 54) }
  ∃ z, exec (.firstTick lead slot) s = .next z ∧ SameMem s z ∧ (∀ n, z.cluster n = s.cluster n) ∧
    z.job? lead.toNat slot.toNat = some { j with tick := some (0, s.clk + 256), got := [], dones := [], dsent := [] } ∧
    z.net = s.net ++ (j.dies.filter (· % 64 = 0)).map tick ∧
    ∀ e < 4, ((z.die 0).link e).out = ((s.die 0).link e).out ++
      (j.dies.filter fun d => d % 64 ≠ 0 ∧ s.nextHop 0 (d % 64) = some e).map tick

/-- R38, R132, R252, R359, R364, R365, R415: the loads of a task, the first tick, and the start of a task.
Where the spec is open it states the model's own reading (logs 58, 76, 77, 81). -/
def Obligations.LaunchResults : Prop :=
  ∀ (s : State) (lead slot die : BitVec 6) (ord : BitVec 12) (j : Job), s.job? lead.toNat slot.toNat = some j →
    (s.firstDue j = true → Claims.FirstTickSent s lead slot j) ∧
    ∀ i t, j.taskAt die.toNat ord.toNat = some (i, t) →
      (s.loadDue j i t = true → Claims.ImageLoad s lead slot die ord j i t) ∧
      (s.startDue j i t = true → Claims.StartedTask s lead slot die ord j i t)


/-! Hosting, saves, steps and what firmware does to a frozen task (01, 12, 18, 19). -/

/-- R13, R14, R366: staging sets one entry; a commit of a legal table on a die without tasks puts it in force and clears the
image tags; another is ignored. Both discard what was staged. Of two that share a physical cluster the one of SLOT 1 is switched
out first by the model's choice (log 93). -/
def Claims.RemapResults : Prop :=
  ∀ (s : State) (die : BitVec 6) (v : Word32),
    let d := die.toNat
    let m := (s.die d).staged
    let def_ := (s.die d).defmask
    let ent (n : Nat) : Byte := m.get 0 n
    let phys (n : Nat) : Nat := (ent n).toNat % 32
    let here (p : Nat) : List Nat := (List.range 16).filter fun n => phys n == p
    let legal : Prop :=
      (∀ n < 16, (ent n).getLsbD 7 = true ∧ phys n < 18 ∧ def_.getLsbD (phys n) = false) ∧
      (∀ p < 18, (here p).length ≤ 2) ∧ (((List.range 18).filter def_.getLsbD).length ≤ 2 → ∀ p < 18, (here p).length ≤ 1) ∧
      ∀ n < 16, if (here (phys n)).length = 1 then (ent n).getLsbD 6 = false ∧ (ent n).getLsbD 5 = false
        else (ent n).getLsbD 6 = true ∧ ∀ k < 16, k ≠ n → phys k = phys n → (ent k).getLsbD 5 ≠ (ent n).getLsbD 5
    let idle : Prop := ∀ n < 16, (s.cluster (16 * d + n)).task = none ∧ (s.cluster (16 * d + n)).pendl = []
    let dropped := s.updDie d fun x => { x with staged := [] }
    (v.toNat / 2 ^ 20 = 0 → v.toNat / 2 ^ 8 % 2 ^ 8 = 0 → exec (.remapStage die v) s =
      .next (s.updDie d fun x => { x with staged := x.staged.set 0 (v.toNat / 2 ^ 16 % 16) (v.setWidth 8) })) ∧
    ((v.toNat / 2 ^ 20 ≠ 0 ∨ v.toNat / 2 ^ 8 % 2 ^ 8 ≠ 0) → exec (.remapStage die v) s =
      .next (s.ignoredDie d 0x118 v.toNat)) ∧
    (v = 1 → idle → legal → ∃ t, exec (.remapCommit die v) s = .next t ∧ (t.die d).clmap = m ∧ (t.die d).staged = [] ∧
      (∀ n < 16, let c := t.cluster (16 * d + n)
        c.tagA = none ∧ c.tagB = none ∧ c.frz.out = ((ent n).getLsbD 6 && (ent n).getLsbD 5)) ∧ SameMem s t) ∧
    (v = 1 → ¬ (idle ∧ legal) → exec (.remapCommit die v) s = .next (dropped.ignoredDie d 0x11C 1)) ∧
    (1 < v.toNat → exec (.remapCommit die v) s = .next (s.ignoredDie d 0x11C v.toNat))

/-- n bytes from b on in t are those that s has from a on. -/
def Claims.Copied (s t : State) (a b n : Nat) : Prop := ∀ i < n, t.rd8 (b + i) = s.rd8 (a + i)

/-- R373: the bytes of cluster k's memories and counters stand in the context image at a; those of the HCW table, the planes, the
accumulator banks and the counters only in a full one. -/
def Claims.ImageOf (s t : State) (k a : Nat) (port : Bool) : Prop :=
  let w := winBase k
  let e := (s.cluster k).me
  let words (m : SMap Word32) (b : Nat) : Prop := (m.map (·.1)).Nodup → ∀ n < 65536, t.rdLE (b + 4 * n) 4 = (m.get 0 n).toNat
  Claims.Copied s t w (a + 0x40000) 0x40000 ∧ Claims.Copied s t (w + offSpad) (a + 0x220000) 0x200000 ∧
  Claims.Copied s t (w + offPair) (a + 0x24000) 0x1C000 ∧
  (port = false → Claims.Copied s t (w + offHcw) (a + 0x20000) 0x4000 ∧ Claims.Copied s t (w + offPlane) (a + 0x80000) 0x20000 ∧
    Claims.Copied s t (w + 0x300000) (a + 0x120000) 0x100000 ∧
    words e.dcnt (a + 0xE0000) ∧ ∀ p, e.pass = some p → words p.cnt (a + 0xA0000))

/-- R330, R370, R373, R374: cluster k's memories are those of the context image at a; of what a portable one leaves unwritten, the HCW table
holds the HCW image h of the launch (log 29) and the rest 0. -/
def Claims.MemoriesOf (s t : State) (k a : Nat) (h : SMap Byte) (port : Bool) : Prop :=
  let w := winBase k
  let rest (b o n : Nat) : Prop := ∀ i < n, t.rd8 (w + o + i) = if port then 0 else s.rd8 (a + b + i)
  Claims.Copied s t (a + 0x40000) w 0x40000 ∧ Claims.Copied s t (a + 0x220000) (w + offSpad) 0x200000 ∧
  Claims.Copied s t (a + 0x24000) (w + offPair) 0x18280 ∧
  (∀ i < 0x4000, t.rd8 (w + offHcw + i) = if port then h.get 0 i else s.rd8 (a + 0x20000 + i)) ∧ rest 0x80000 offPlane 0x20000 ∧ rest 0x120000 0x300000 0x100000

/-- Cluster c as the image at a gives it back: with launch values where a portable image holds nothing, and on another geometry in the
M and PE configuration and the current operations too (R330, R374); no counter of a full one holds an error. -/
def Claims.asImage (s : State) (a : Nat) (c : Cluster) (port : Bool) : Cluster :=
  let same : Bool := decide (s.rdLE (a + 8) 8 = 0x01D5200810081040)
  if port then { c with
    ve := {}, v := { c.v with l0 := {}, l1 := {} }
    me := { c.me with cb := [], west := none, skw := none, skn := none, dcnt := [], dbad := [], dslen := none
                      cfg := if same then c.me.cfg else [], cur := if same then c.me.cur else [] }
    pe := { c.pe with cfg := if same then c.pe.cfg else [] } }
  else { c with me := { c.me with pass := c.me.pass.map fun p => { p with bad := [] }, dbad := [] } }

/-- R370, R373, R374: cluster k holds what the context image at a holds: every register, engine, transfer, barrier and fault record,
the cycle counter and the memories; a full image gives the counters of the pass and of the drains. What is no part of the task's
state - tags, pending list, marks of the place - the clauses beside this one say, with the freezes and the other counters. -/
def Claims.Restored (s t : State) (k a : Nat) (port : Bool) : Prop :=
  let i := Claims.asImage s a (s.imageCluster a) port
  let n := t.cluster k
  let words (m : SMap Word32) (b : Nat) : Prop := ∀ x < 65536, m.get 0 x = .ofNat 32 (s.rdLE (b + 4 * x) 4)
  n = { i with
    me := { i.me with pass := n.me.pass, dcnt := n.me.dcnt }, tagA := none, tagB := none, late := false, splitLeft := 0
    quantum := n.quantum, expired := n.expired, resAt := n.resAt, pendl := n.pendl, resetBy := n.resetBy, saved := n.saved
    frz := n.frz, frzcyc := n.frzcyc, ovrcyc := n.ovrcyc, slicecnt := n.slicecnt } ∧
  (port = true → n.me = i.me) ∧
  (port = false → s.memOk → words n.me.dcnt (a + 0xE0000) ∧ (i.me.pass = none → n.me.pass = none) ∧
    ∀ p, i.me.pass = some p → ∃ c, n.me.pass = some { p with cnt := c } ∧ words c (a + 0xA0000)) ∧
  Claims.MemoriesOf s t k a i.hcw0 port

/-- R16, R17, R38: the end of a quantum is marked; a switch of a doubled physical cluster writes the resident's memories and
counters to the slot and takes the other's memories from it, counts it in SLICECNT, and invalidates the tags of both; with neither
due nothing happens. -/
def Claims.SliceResults : Prop :=
  ∀ (s : State) (die : BitVec 6) (cl : BitVec 4) (p : BitVec 5),
    let d := die.toNat
    let k := 16 * d + cl.toNat
    let slot := s.sliceSlot d p.toNat
    (s.quantumDue k = true → ∃ t, exec (.sliceQuantum die cl) s = .next t ∧
      t.cluster k = { s.cluster k with expired := true } ∧ (∀ n, n ≠ k → t.cluster n = s.cluster n) ∧ SameMem s t) ∧
    (s.quantumDue k = false → exec (.sliceQuantum die cl) s = .next s) ∧
    (s.switchDue d p.toNat = false → exec (.sliceSwitch die p) s = .next s) ∧
    (∀ a b port, s.slicePair d p.toNat = some (a, b) → s.switchDue d p.toNat = true →
      let x := s.cluster a
      let y := s.cluster b
      let started : Prop := y.task.isSome = true
      (started → s.checkImage slot 2 = .ok port) →
      ∃ t, exec (.sliceSwitch die p) s = .next t ∧ a ≠ b ∧ Claims.ImageOf s t a slot (s.portPoint a) ∧
        (started → Claims.MemoriesOf s t b slot y.hcw0 port) ∧
        t.cluster a = { x with tagA := none, tagB := none, expired := false, frz := { x.frz with out := true } } ∧
        (let z := if y.task.isSome then Claims.asImage s slot y port else y
         t.cluster b = { z with
          tagA := none, tagB := none, expired := false, quantum := 0, resAt := s.clk + 1, slicecnt := y.slicecnt + 1
          frz := { y.frz with out := false } }) ∧
        ∀ n, n ≠ a → n ≠ b → t.cluster n = s.cluster n)

/-- R13, R14, R16, R17, R366: the cluster map, and doubled physical clusters.
Where the spec is open it states the model's own reading (logs 11, 29, 31, 93, 94). -/
def Obligations.HostingResults : Prop := Claims.RemapResults ∧ Claims.SliceResults

/-- R368 to R370, R373, R374: a request for a save is taken or refused; the save freezes the task, then writes its image and
frees the cluster; a restore that passes its checks loads the image, one whose image differs leaves the task frozen by
CONTEXT_GEOMETRY, and one for another cluster, of another kind, or on a cluster with a task is refused. What a portable image
leaves out takes its launch values; a cluster that is switched out is restored in its slot too (R16, R17, R43). -/
def Claims.ContextResults : Prop :=
  ∀ (s : State) (die : BitVec 6) (cl : BitVec 4),
    let k := 16 * die.toNat + cl.toNat
    let pre (t : State) : Preempt := (t.die die.toNat).preempt cl.toNat
    let c := s.cluster k
    let a := (pre s).addr.toNat
    let who := (s.imageCluster a).task.or (c.saved.find? fun r => r.slot == s.imageSlot a)
    let apart : Prop := a + 0x500000 ≤ winBase k ∨ winBase k + 0x400000 ≤ a
    ((c.task = none ∨ c.locked = true) → ∃ t, exec (.preemptRequest die cl) s = .next t ∧ pre t = { pre s with out := 3 } ∧
      t = { s with dies := t.dies }) ∧
    (c.task ≠ none → c.locked = false → ∃ t, exec (.preemptRequest die cl) s = .next t ∧
      pre t = { pre s with req := true, out := 0 } ∧ t = { s with dies := t.dies }) ∧
    (∀ r, c.task = some r → s.saveDue k = true → c.frz.save = false → ∃ t, exec (.contextSave die cl) s = .next t ∧
      t.cluster k = { c with frz := { c.frz with save := true }, saved := c.saved ++ [r] } ∧ (pre t).busy = true ∧
      SameMem s t) ∧
    (c.task ≠ none → s.saveDue k = true → c.frz.save = true → apart → ∃ t, exec (.contextSave die cl) s = .next t ∧
      t.rdLE a 4 = 0x43585431 ∧ t.rdLE (a + 24) 4 = 1 ∧
      t.rdLE (a + 16) 4 = die.toNat + 256 * cl.toNat ∧ Claims.ImageOf s t k a (s.portPoint k) ∧
      (t.cluster k).task = none ∧ (pre t).port = s.portPoint k ∧ (pre t).out = 1 ∧ (pre t).req = false ∧ (pre t).busy = false) ∧
    ((who = none ∨ c.task ≠ none ∨ s.imageKey a ≠ k ∨ (∃ r, who = some r ∧ r ∉ c.saved) ∨ s.checkImage a 1 = .kind) →
      ∃ t, exec (.contextRestore die cl) s = .next t ∧
      (pre t).out = 3 ∧ (pre t).rst = false ∧ t = { s with dies := t.dies }) ∧
    (∀ r port, who = some r → r ∈ c.saved → c.task = none → s.imageKey a = k →
      s.checkImage a 1 = .ok port → apart → ∃ t, exec (.contextRestore die cl) s = .next t ∧ Claims.Restored s t k a port ∧
        (let i := s.imageCluster a
         let n := t.cluster k
         n.frzcyc = i.frzcyc ∧ n.ovrcyc = i.ovrcyc ∧ n.slicecnt = i.slicecnt ∧ n.saved = c.saved.filter (· ≠ r) ∧
           n.pendl = c.pendl ∧ n.frz = { i.frz with save := false, out := c.frz.out, snap := c.frz.snap }) ∧
        (c.frz.out = true → Claims.ImageOf t t k (s.sliceSlot die.toNat ((s.die die.toNat).physOf cl.toNat)) false) ∧
        (pre t).out = 1 ∧ (pre t).rst = false ∧ (pre t).busy = false) ∧
    (∀ r, who = some r → r ∈ c.saved → c.task = none → s.imageKey a = k →
      s.checkImage a 1 = .geometry → ∃ t, exec (.contextRestore die cl) s = .next t ∧ (t.cluster k).task = some r ∧
        (t.cluster k).flt.valid = true ∧ (t.cluster k).flt.cause.toNat = Cause.contextGeometry.code ∧
        (t.cluster k).frz.fault = true)

/-- R371: a locked job is saved and resumed as a whole through its lead die: an image of kind 3 of every cluster, a copy of its
slot's where the cluster is switched out, from which every cluster is restored. -/
def Claims.LockedSaveResults : Prop :=
  ∀ (s : State) (lead slot : BitVec 6) (j : Job), s.job? lead.toNat slot.toNat = some j →
    let after (t : State) (f : Job → Job) (out : BitVec 2) (req : Bool) : Prop :=
      t.job? lead.toNat slot.toNat = some (f j) ∧ (t.die lead.toNat).jout = out ∧ (t.die lead.toNat).jreq = req
    (j.locked = true → j.closed = false → j.saved = false → ∃ t, exec (.jobSaveRequest lead slot) s = .next t ∧
      after t (fun j => { j with saveReq := true }) 0 true ∧ SameMem s t) ∧
    (j.locked = false → ∃ t, exec (.jobSaveRequest lead slot) s = .next t ∧ after t id 3 false ∧ SameMem s t) ∧
    (s.jobSaveDue j = true → ∃ t, exec (.jobSave lead slot) s = .next t ∧
      after t (fun j => { j with saveReq := false, saved := true }) 1 false ∧
      ∀ k ∈ s.jobKeys j, (t.cluster k).task = none ∧ t.rdLE (lockedImage k + 24) 4 = 3 ∧
        ((s.cluster k).frz.out = false → Claims.ImageOf s t k (lockedImage k) (s.portPoint k)) ∧
        (let p := (s.die (k / 16)).physOf (k % 16)
         (∀ n ∈ s.jobKeys j, (s.cluster n).frz.out = true →
            (s.slicePair (n / 16) ((s.die (n / 16)).physOf (n % 16))).isSome = true) →
         (s.cluster k).frz.out = true →
          Claims.Copied s t (s.sliceSlot (k / 16) p + 0x10000) (lockedImage k + 0x10000) 0x420000)) ∧
    (j.saved = true → ∃ t, exec (.jobResume lead slot) s = .next t ∧ (t.die lead.toNat).jout = 1 ∧
      (t.job? lead.toNat slot.toNat).map (·.saved) = some false ∧
      ((∀ y ∈ j.tasks, y.key < 1024 ∧ ((s.cluster y.key).frz.out = true →
          s.sliceSlot (y.key / 16) ((s.die (y.key / 16)).physOf (y.key % 16)) % 2 ^ 45 + 0x430000 ≤ 0x15F3000000)) → ∀ (i : Nat) (x : TaskRec), j.tasks[i]? = some x → x.stage = .running →
        x.rest = false → (∀ (n : Nat) (y : TaskRec), j.tasks[n]? = some y → y.stage = .running → n ≠ i → y.key ≠ x.key) →
        let img := lockedImage x.key
        s.rdLE (img + 0x1000) 8 < s.images.length →
        (∀ port, s.checkImage img 3 = .ok port → Claims.Restored s t x.key img port ∧
          let c := s.imageCluster img
          let n := t.cluster x.key
          n.frzcyc = c.frzcyc ∧ n.ovrcyc = c.ovrcyc ∧ n.slicecnt = c.slicecnt) ∧
        (s.checkImage img 3 = .geometry → (t.cluster x.key).task = some { lead := j.lead, slot := j.slot, idx := i } ∧
          (t.cluster x.key).flt.valid = true ∧ (t.cluster x.key).flt.cause.toNat = Cause.contextGeometry.code))) ∧
    (j.saved = false → ∃ t, exec (.jobResume lead slot) s = .next t ∧ (t.die lead.toNat).jout = 3 ∧ SameMem s t)

/-- R368 to R371, R373, R374: saves and restores of tasks and of locked jobs.
Where the spec is open it states the model's own reading (logs 11, 29, 57, 92). -/
def Obligations.SaveAndRestoreResults : Prop := Claims.ContextResults ∧ Claims.LockedSaveResults

/-- R393: what a rollback of job j leaves: every task with a checkpoint of the step in progress is back in its cluster as the
checkpoint's image has it (at once where no other job's task holds the cluster), the others that the step has started wait again, and no die holds an effect of the job. The image
stands in die memory apart from the windows and slots of the job's clusters. -/
def Claims.RolledBack (s t : State) (j j' : Job) : Prop :=
  let img (x : TaskRec) : Nat := s.ckptAt x.key j.gen
  let away (a n b m : Nat) : Prop := a + n ≤ b ∨ b + m ≤ a
  (∀ d, (t.die d).heldOf j = []) ∧
  (∀ (i : Nat) (x : TaskRec), j.tasks[i]? = some x → x.ck = false →
    (x.stage = .loaded ∨ x.stage = .running ∨ (x.stage = .retired ∨ x.stage = .aborted) ∧ j.step ≤ x.retStep) →
    ∃ x', j'.tasks[i]? = some x' ∧ x'.stage = .waiting) ∧
  (∀ (i : Nat) (x : TaskRec), j.tasks[i]? = some x → x.stage = .waiting → x.ck = false → ∃ x', j'.tasks[i]? = some x' ∧ x'.stage = .waiting) ∧
  ((∀ x ∈ j.tasks, x.ck = true → x.key < 1024 ∧ img x + 0x430000 ≤ 2 ^ 51 ∧ s.rdLE (img x + 0x1000) 8 < s.images.length ∧
      ∀ y ∈ j.tasks, away (img x) 0x430000 (winBase y.key) 0x400000 ∧
        away (img x) 0x430000 (s.sliceSlot (y.key / 16) ((s.die (y.key / 16)).physOf (y.key % 16))) 0x430000) →
    ∀ (i : Nat) (x : TaskRec), j.tasks[i]? = some x → x.ck = true → x.stage ≠ .waiting →
      (x.stage = .retired ∨ x.stage = .aborted → j.step ≤ x.retStep) →
      ((s.cluster x.key).task = none ∨ x.key ∈ s.jobKeys j) →
      (∀ (n : Nat) (y : TaskRec), j.tasks[n]? = some y → y.ck = true → n ≠ i → y.key ≠ x.key) →
      (∃ x', j'.tasks[i]? = some x' ∧ x'.stage = .running) ∧
      (∀ port, s.checkImage (img x) 4 = .ok port → Claims.Restored s t x.key (img x) port) ∧
      let f := (t.cluster x.key).frz
      f.fault = false ∧ f.memErr = false ∧ f.save = false)

/-- R147, R384 to R386, R393, R394: RESUME lifts the fault freeze, marking BREAK and SYSCALL served where asked; with XDONE the named
transfer is complete as it stands: it leaves its channel, whose watermark passes it, and what it has asked for is dropped; ABORT ends the
task, in locked mode every task of the job; REPLAY freezes the job and then rolls it back: every cluster with a checkpoint is
restored from it, the other tasks of the step wait again, and its held effects are discarded. A cause held meanwhile is raised by
RESUME with its whole record. Without a valid record each is ignored.
Where the spec is open it states the model's own reading (logs 45, 75). -/
def Obligations.FaultActionResults : Prop :=
  ∀ (s : State) (die : BitVec 6) (cl : BitVec 4) (served : Bool),
    let k := 16 * die.toNat + cl.toNat
    let c := s.cluster k
    (c.flt.valid = true → c.heldF = [] → s.stoppedOf k = [] → ∃ t, exec (.resume die cl false served) s = .next t ∧
      (let n := t.cluster k
       n.flt = { c.flt with valid := false } ∧ n.frz = { c.frz with fault := false, memErr := false } ∧
         (∀ st, n.str st = { c.str st with served := (c.str st).served || (served && c.flt.traps st) }) ∧
         n.s = c.s ∧ n.taskcyc = c.taskcyc ∧ n.ve = c.ve ∧ n.me = c.me ∧ n.pe = c.pe ∧ n.xe = c.xe) ∧
      (∀ n, n ≠ k → t.cluster n = s.cluster n) ∧ SameMem s t) ∧
    (∀ h, c.flt.valid = true → c.heldF = [h] → s.stoppedOf k = [] → ∃ t, exec (.resume die cl false served) s = .next t ∧
      let n := t.cluster k
      let r := n.flt
      n.heldF = [] ∧ r.valid = true ∧ r.cause = .ofNat 8 h.cause ∧ r.detail = .ofNat 8 h.detail ∧ r.pos = .ofNat 4 h.pos ∧
      r.baddr = h.baddr ∧ r.faddr = .ofNat 64 h.faddr ∧ r.xv = h.xfer.isSome ∧
      (∀ x, h.xfer = some x → r.ch = .ofNat 2 x.1 ∧ r.id = x.2)) ∧
    (∀ x l, c.flt.valid = true → c.flt.xv = true → c.heldF = [] → (c.chan c.flt.ch.toNat).q = x :: l → x.id = c.flt.id → x.heldW = [] →
      (∀ y ∈ l, y.done = false ∧ y.id ≠ x.id) →
      (∀ q ∈ (s.die die.toNat).reqs, q.stopped = true → q.cl = cl.toNat → q.seq.toNat ∈ x.out) →
      ∃ t, exec (.resume die cl true false) s = .next t ∧ SameMem s t ∧
        (let n := t.cluster k
         n.flt = { c.flt with valid := false } ∧ n.frz = { c.frz with fault := false, memErr := false } ∧
         (n.chan c.flt.ch.toNat).q = l ∧ (n.chan c.flt.ch.toNat).wmark = x.id ∧
         (∀ h, h ≠ c.flt.ch.toNat → n.chan h = c.chan h) ∧ n.s = c.s ∧ n.taskcyc = c.taskcyc ∧ n.ve = c.ve ∧ n.me = c.me ∧ n.pe = c.pe) ∧
        ∀ q ∈ (t.die die.toNat).reqs, q.seq.toNat ∉ x.out) ∧
    (c.flt.valid = false → exec (.resume die cl false served) s =
        .next (s.ignoredAct die.toNat cl.toNat (1 + 4 * b2n served)) ∧
      exec (.abort die cl) s = .next (s.ignoredAct die.toNat cl.toNat 2)) ∧
    (∀ r, c.flt.valid = true → c.task = some r → c.locked = false → ∃ t, exec (.abort die cl) s = .next t ∧
      (t.cluster k).task = none ∧ (t.cluster k).flt.valid = false ∧ (t.cluster k).frz.fault = false ∧ SameMem s t ∧
      ∀ j, s.job? r.lead r.slot = some j → ∀ x, j.tasks[r.idx]? = some x →
        ∃ j' x', t.job? r.lead r.slot = some j' ∧ j'.aborted = true ∧ j'.tasks[r.idx]? = some x' ∧ x'.stage = .aborted) ∧
    (∀ r j, c.flt.valid = true → c.task = some r → c.locked = true → s.job? r.lead r.slot = some j →
      ∃ t j', exec (.abort die cl) s = .next t ∧ t.job? r.lead r.slot = some j' ∧ j'.aborted = true ∧
        ∀ x ∈ j'.tasks, x.stage = .retired ∨ x.stage = .aborted) ∧
    (∀ j, s.jobOf c = some j →
      (c.flt.valid = true → j.rollback = false → k ∈ s.jobKeys j → ∃ t j', exec (.replay die cl) s = .next t ∧
        t.job? j.lead j.slot = some j' ∧ j'.rollback = true ∧ (∀ n ∈ s.jobKeys j, (t.cluster n).frz.save = true) ∧
        SameMem s t) ∧
      (c.flt.valid = false → j.rollback = false → exec (.replay die cl) s = .next (s.ignoredAct die.toNat cl.toNat 16)) ∧
      (s.rollDue j = true → s.rollCause j ≠ 0 → exec (.replay die cl) s =
        .next (s.failJob j.lead j.slot (s.rollCause j) 0)) ∧
      (s.rollDue j = true → s.rollCause j = 0 → ∃ t j', exec (.replay die cl) s = .next t ∧
        t.job? j.lead j.slot = some j' ∧ j'.rollback = false ∧ j'.nreplay = j.nreplay + 1 ∧ j'.rolls = j.rolls + 1 ∧
        Claims.RolledBack s t j j'))

/-- R380, R381, R397: an invalidation captures what its registers name and is busy; at the end of its clock cycle it removes the
unpinned entries that it selects, keeps the pinned ones from new lookups and leaves every other entry, and stays busy while an
entry that it selected is pinned; one begun while another runs only writes the registers, and is recorded as ignored.
Where the spec is open it states the model's own reading (log 68). -/
def Obligations.InvalidationResults : Prop :=
  ∀ (s : State) (die : BitVec 6) (va : BitVec 52) (q : BitVec 8) (alld : Bool), (s.dies.map Prod.fst).Nodup →
    let d := die.toNat
    let x := s.die d
    let root (q : BitVec 8) : Nat := (x.queue q.toNat).qxroot.toNat
    let page (n : Nat) : BitVec 36 := .ofNat 36 (n / 65536)
    let starts (i : Instr) (kind : BitVec 2) (pg : BitVec 36) (q : BitVec 8) : Prop :=
      let regs : Die := { x with invva := pg, invall := alld, invq := q, invkind := kind }
      (x.invbusy = false → ∃ t, exec i s = .next t ∧ t = { s with dies := t.dies } ∧ (∀ n, n ≠ d → t.die n = s.die n) ∧
        t.die d = { regs with
          invbusy := true, invwait := true, invrun := kind, invpage := pg, invwide := alld, invroot := root q }) ∧
      (x.invbusy = true → exec i s = .next ((s.updDie d fun _ => regs).ignored 1 d 0 (d * 2 ^ 45 + 0x1F0000000000 + 0x308)
        (2 ^ 30 * (if alld then 1 else 0) + 2 ^ 16 * q.toNat + 2 * kind.toNat + 1) 4 2 0))
    let sel (e : TlbEntry) : Prop :=
      (x.invrun = 0 ∧ e.root = x.invroot ∧ e.vbase ≤ x.invpage.toNat * 65536 ∧ x.invpage.toNat * 65536 < e.vbase + e.size) ∨
      (x.invrun = 1 ∧ e.root = x.invroot) ∨ x.invrun = 2
    starts (.invalidatePage die va q alld) 0 (page va.toNat) q ∧
    starts (.invalidateRoot die q alld) 1 x.invva q ∧
    starts (.invalidateAll die alld) 2 x.invva x.invq ∧
    (x.invbusy = true → x.invwait = true → x.invrun ≠ 3 →
      (∀ n, n ≠ d → (s.die n).invwait = false ∧ (s.die n).invbusy = false) →
      let t := s.selectInvals
      SameMem s t ∧ t.cl = s.cl ∧ (t.die d).invwait = false ∧
      (∀ n, n = d ∨ (x.invwide = true ∧ s.die n ≠ {}) →
        (∀ e ∈ (t.die n).tlb, sel e → d ∈ e.inval ∧ e.pins ≠ []) ∧
        (∀ e ∈ (t.die n).tlb, d ∈ e.inval → sel e ∨ e ∈ (s.die n).tlb) ∧
        (∀ e ∈ (s.die n).tlb, ¬ sel e → e.pins ≠ [] → e ∈ (t.die n).tlb) ∧
        (∀ e ∈ (s.die n).tlb, sel e → e.pins ≠ [] → { e with inval := e.inval ++ [d] } ∈ (t.die n).tlb)) ∧
      ((t.die d).invbusy = true ↔ ∃ n, (n = d ∨ (x.invwide = true ∧ s.die n ≠ {})) ∧ ∃ e ∈ (t.die n).tlb, d ∈ e.inval))

/-- R36, R389, R390, R396, R407, R415: a step that has ended releases its held effects, on each die one after another;
once they are acknowledged the next step begins, with a checkpoint of the other generation where it is replayable; D0 issues the next tick 256 clock cycles ahead, and when the dies act on it the period begins.
Where the spec is open it states the model's own reading (logs 30, 48, 55, 77). -/
def Obligations.StepResults : Prop :=
  ∀ (s : State) (lead slot : BitVec 6) (j : Job), s.job? lead.toNat slot.toNat = some j →
    let now (t : State) : Option Job := t.job? lead.toNat slot.toNat
    (s.stepDue j = true → ∃ t, exec (.stepEnd lead slot) s = .next t ∧ now t = some { j with phase := 1 } ∧
      t = { s with jobs := t.jobs }) ∧
    (s.releaseDue j = true → s.holdsEffects j = true →
      (∀ t, releaseDies j j.dies s = .ok t → exec (.commitRelease lead slot) s = .next t ∧
        (j.dies.Nodup → ∀ d ∈ j.dies, (t.die d).heldOf j =
          if (s.die d).releasing j || ((s.die d).heldOf j).head?.any fun e => !s.effFree d e then (s.die d).heldOf j
          else ((s.die d).heldOf j).tail)) ∧
      (∀ a, releaseDies j j.dies s = .error a → exec (.commitRelease lead slot) s =
        .next ((s.noteUE a 0 none).failJob j.lead j.slot 12 a))) ∧
    (s.releaseDue j = true → s.holdsEffects j = false → j.done = false → ∃ t j', exec (.commitRelease lead slot) s = .next t ∧
      now t = some j' ∧ j'.step = j.step + 1 ∧ j'.stepP = j.stepP + (j.stepEnt j.step).per ∧ j'.period = j.period ∧
      j'.phase = (if j.locked then 2 else 0) ∧ j'.rolls = 0 ∧
      let on := !(j.stepEnt (j.step + 1)).nr && j.dies.all fun d => (s.die d).ckbase != 0
      j'.ckpt = on ∧ j'.gen = if on then 1 - j.gen else j.gen) ∧
    (s.issueDue j = true → ∃ t j', exec (.tickIssue lead slot) s = .next t ∧ now t = some j' ∧
      j'.tick = some (j.period + 1, s.clk + 256) ∧ j'.phase = 0 ∧ j'.dones = [] ∧ SameMem s t) ∧
    (∀ p c, j.tick = some (p, c) → s.tickActs j = true → ∃ t j', exec (.tickAct lead slot) s = .next t ∧ now t = some j' ∧
      j'.period = p ∧ j'.tick = none ∧ j'.began = s.clk ∧ j'.t0 = some (j.t0.getD s.clk) ∧
      ∀ k ∈ t.jobKeys j', (t.cluster k).frz.held = t.atEnd (t.cluster k))


/-! The fabric (10, 19, 20). -/

/-- R275, R286 to R288, R387, R396, R405, R407 to R409, R415: what each message does where it arrives: a WRITE and a READ_REQ at their
home, an ATOMIC and a SEND once each, the answers at the die that asked, one that has been refused taking no second answer, TICK and
DONE at the job. Why a SEND is refused, and its NACK: reasons 0 and 1, 3, and the 64th of reason 2 are faults of the sender; a nacked
piece is sent again, or LINK_DOWN where it has no route. Bytes that a later transfer of the channel has written are left as it wrote them.
Where the spec is open it states the model's own reading (logs 45, 46, 47, 56). -/
def Obligations.MessageResults : Prop :=
  ∀ (s : State) (m : Msg),
    let d := m.ddie.toNat
    let a := m.arg.toNat % 2 ^ 52
    let src := m.sdie.toNat
    let k := clKey d m.dcl.toNat
    let off := m.arg.toNat % 2 ^ 21
    let xb := m.arg.toNat / 2 ^ 21 % 32
    let n := if m.arg.toNat.testBit 56 then 8 else 4
    let old := s.rdLE a n
    let x := ofBytes (m.data.take 8) % 2 ^ (8 * n)
    let y := ofBytes ((m.data.drop 8).take 8) % 2 ^ (8 * n)
    let sg (v : Nat) : Int := toSigned (8 * n) v
    let new : Nat := match m.arg.toNat / 2 ^ 52 % 16 with
      | 0 => (old + x) % 2 ^ (8 * n)
      | 1 => Nat.land old x
      | 2 => Nat.lor old x
      | 3 => Nat.xor old x
      | 4 => if sg old ≤ sg x then old else x
      | 5 => if sg old ≤ sg x then x else old
      | 6 => min old x
      | 7 => max old x
      | 8 => x
      | _ => if old = x then y else old
    let held := (s.die src).reqs.find? (·.seq == m.seq)
    let asked := (s.die d).reqs.find? (·.seq == m.seq)
    let won (k : Nat) (r : Req) : List (Nat × Nat) := match s.xferOf k r.ch r.id, r.held with
      | some x, none => (s.focus k).wonBy r.ch x
      | _, _ => []
    let lands (w : List (Nat × Nat)) (a : Nat) (u : State) : Prop := SameMemBut a m.data.length s u ∧
      ∀ i b, m.data[i]? = some b → (∀ e ∈ w, ¬ (e.1 ≤ a + i ∧ a + i < e.1 + e.2)) ∧ u.rd8 (a + i) = b ∨
        (∃ e ∈ w, e.1 ≤ a + i ∧ a + i < e.1 + e.2) ∧ u.rd8 (a + i) = s.rd8 (a + i)
    let good (x : Msg) : Prop := s.badWrite (x.arg.toNat % 2 ^ 52) x.data.length = none
    let refused (r : Req) : Prop := r.retry ≠ none ∨ r.away ≠ none ∨ (r.stopped = true ∧ r.msg.typ = mSend)
    let stops (r : Req) (x : Trap) : State :=
      (s.updReq d r.seq fun q => { q with stopped := true, retry := none }).faultAt (clKey d r.cl) x
    let faults (r : Req) (x : Trap) (c : Cause) : Prop := x.str = .x ∧ x.cause = c.code ∧ x.xfer = some (r.ch, r.id) ∧ x.memErr = false
    (∀ r, held = some r → (r.held = none → good m) →
      (∀ h, r.held = some h → ∀ x ∈ (s.die src).reqs, x.held = some h → x.msg.typ = mWrite → x.msg.ddie = m.ddie → good x.msg) → ∃ u, exec (.write m) s = .next (u.sendFrom d (answerOf m mAck)) ∧
      u.dies = s.dies ∧ u.net = s.net ∧ u.jobs = s.jobs ∧ lands (won (clKey src r.cl) r) a u) ∧
    (held = none → exec (.write m) s = .next s) ∧
    (s.badRead a (m.arg.toNat / 2 ^ 52 % 64 + 1) = none → exec (.readReq m) s =
      .next (s.sendFrom d (answerOf m mReadData 0 (s.rdBytes a (m.arg.toNat / 2 ^ 52 % 64 + 1))))) ∧
    (∀ g, s.badRead a (m.arg.toNat / 2 ^ 52 % 64 + 1) = some g → (∀ r, held = some r → r.held = none) → exec (.readReq m) s =
      .next (s.updReq src m.seq fun r => { r with stopped := true })) ∧
    (∀ g r h, s.badRead a (m.arg.toNat / 2 ^ 52 % 64 + 1) = some g → held = some r → r.orphan = none → r.held = some h →
      exec (.readReq m) s = .next (((s.noteUE (g * 8) d none).dropReq src r).failJob h.1 h.2 12 (g * 8))) ∧
    (∀ r h e l, asked = some r → r.held = some h → (s.die d).commit = e :: l → e.lead = h.1 → e.slot = h.2 →
      ∃ t b, exec (.readData m) s = .next t ∧ SameMem s t ∧ (∀ q ∈ (t.die d).reqs, q.seq ≠ m.seq) ∧
        (t.die d).commit = { e with buf := b } :: l ∧ ∀ i x, m.data[i]? = some x → b.get none (r.msg.arg.toNat % 2 ^ 52 + i) = some x) ∧
    (∀ r, asked = some r → r.held = none → ∃ t, exec (.readData m) s = .next t ∧ (∀ q ∈ (t.die d).reqs, q.seq ≠ m.seq) ∧
      SameMem s t ∧ ∀ z, s.xferOf (clKey d r.cl) r.ch r.id = some z → ∃ z', t.xferOf (clKey d r.cl) r.ch r.id = some z' ∧
        z'.out = z.out.filter (· ≠ m.seq.toNat) ∧
        ∀ i b, m.data[i]? = some b → z'.buf.get none (r.msg.arg.toNat % 2 ^ 52 + i) = some b) ∧
    (s.recorded m = none → s.behindStopped m = false → s.badRead (a / 8 * 8) 8 = none → m.arg.toNat / 2 ^ 52 % 16 ≤ 9 →
      ∃ t, exec (.atomic m) s = .next t ∧ t.rdLE a n = new ∧ SameMemBut a n s t ∧
        t = (s.store a (bytesOf new n)).executed m (answerOf m mAtomicRsp 0
          (if m.arg.toNat.testBit 57 then [] else bytesOf (ofInt 64 (sg old)) 8))) ∧
    (∀ r, s.recorded m = some r → exec (.atomic m) s = .next (s.sendFrom d r) ∧
      exec (.sendMessage m) s = .next (s.sendFrom d r)) ∧
    (∀ r z, asked = some r → r.held = none → r.orphan = none → s.xferOf (clKey d r.cl) r.ch r.id = some z →
      (s.cluster (clKey d r.cl)).frz.out = false → ∃ t z', exec (.atomicRsp m) s = .next t ∧
        lands (won (clKey d r.cl) r) (winBase (clKey d r.cl) + offSpad + z.xw.toNat) t ∧ (∀ q ∈ (t.die d).reqs, q.seq ≠ m.seq) ∧
        t.xferOf (clKey d r.cl) r.ch r.id = some z' ∧ z'.cursor = 1 ∧ z'.out = z.out.filter (· ≠ m.seq.toNat)) ∧
    (∀ r h, s.recorded m = none → held = some h → (s.cluster (clKey src m.scl.toNat)).task = some r →
      (∀ w, s.sendRefusal k r.lead r.slot (s.cluster (clKey src m.scl.toNat)).locked xb = some w →
        exec (.sendMessage m) s = .next (s.sendFrom d (answerOf m mNack (.ofNat 64 w)))) ∧
      (s.sendRefusal k r.lead r.slot (s.cluster (clKey src m.scl.toNat)).locked xb = none →
        s.badWrite (winBase k + offSpad + off) m.data.length = none → (s.cluster k).frz.out = false →
        ∃ t, exec (.sendMessage m) s = .next t ∧ lands (won (clKey src h.cl) h) (winBase k + offSpad + off) t ∧
          let b := (s.cluster k).xb xb
          let b' := (t.cluster k).xb xb
          let len := m.data.length
          b'.due = b.due ∧ b'.state = (if b.state = .armed ∧ len ≤ b.rem.toNat
            then (if len = b.rem.toNat then .zero else .armed) else .error) ∧
          (b.state = .armed → len ≤ b.rem.toNat → b'.rem.toNat = b.rem.toNat - len))) ∧
    (∀ r, asked = some r → refused r → exec (.ack m) s = .next s ∧ exec (.nack m) s = .next s) ∧
    (∀ r, asked = some r → ¬ refused r → ∃ t, exec (.ack m) s = .next t ∧ (∀ q ∈ (t.die d).reqs, q.seq ≠ m.seq) ∧ SameMem s t) ∧
    (∀ r, asked = some r → ¬ refused r → m.arg.toNat % 256 = 2 → r.nacks + 1 < 64 → ∃ t, exec (.nack m) s = .next t ∧ SameMem s t ∧
      (t.die d).reqs = (s.die d).reqs.map fun q => if q.seq = m.seq
        then { q with nacks := q.nacks + 1, retry := some (s.clk + 1024) } else q) ∧
    (∀ r z, asked = some r → ¬ refused r → s.xferOf (clKey d r.cl) r.ch r.id = some z → let w := m.arg.toNat % 256
      (w ≠ 2 ∨ 64 ≤ r.nacks + 1) → ∃ x, exec (.nack m) s = .next (stops r x) ∧ faults r x (if w = 3 then .targetReset else .targetDown) ∧
        x.detail = if w = 3 then 0 else w) ∧
    (∀ r z, asked = some r → s.retryDue d r = true → s.hops d r.msg.ddie.toNat = none → s.xferOf (clKey d r.cl) r.ch r.id = some z →
      ∃ x, exec (.nackRetry m.ddie m.seq) s = .next (stops r x) ∧ faults r x .linkDown ∧ x.detail = 0) ∧
    (∀ r h c, c = s.cluster k → held = some h → (s.cluster (clKey src m.scl.toNat)).task = some r →
      let e := (s.die (k / 16)).clmap.get 0 (k % 16)
      let on : Prop := e.getLsbD 7 = true ∧ (s.die (k / 16)).defmask.getLsbD (e.toNat % 32) = false
      let why := s.sendRefusal k r.lead r.slot (s.cluster (clKey src m.scl.toNat)).locked xb
      let mine (x : TaskRef) : Prop := x.lead = r.lead ∧ x.slot = r.slot
      (¬ on → why = some 0) ∧ (on → (r.lead, r.slot) ∈ c.resetBy → why = some 3) ∧
      (on → (r.lead, r.slot) ∉ c.resetBy → (∃ x ∈ c.saved, mine x) → why = some 2) ∧
      (on → (r.lead, r.slot) ∉ c.resetBy → (∀ x ∈ c.saved, ¬ mine x) → (∀ x, c.task = some x → ¬ mine x) → why = some 1) ∧
      ∀ x, on → (r.lead, r.slot) ∉ c.resetBy → (∀ x ∈ c.saved, ¬ mine x) → c.task = some x → mine x →
        why = if (s.cluster (clKey src m.scl.toNat)).locked = false ∧ (c.xb xb).state = .idle then some 2 else none) ∧
    (∀ r, asked = some r → s.retryDue d r = true → (s.hops d r.msg.ddie.toNat).isSome = true → exec (.nackRetry m.ddie m.seq) s =
      .next ((s.updReq d m.seq fun q => { q with retry := none }).sendFrom d r.msg)) ∧
    (∀ j p, s.job? (m.arg.toNat / 2 ^ 54 % 64) (m.arg.toNat / 2 ^ 48 % 64) = some j → p = m.arg.toNat % 2 ^ 48 →
      (∀ c, j.tick = some (p, c) → ∃ t j', exec (.tick m) s = .next t ∧ t = { s with jobs := t.jobs } ∧
        t.job? j.lead j.slot = some j' ∧ d ∈ j'.got ∧ ∀ e, e ∈ j'.got → e = d ∨ e ∈ j.got) ∧
      (j.period = p → j.tick = none → ∃ t j', exec (.done m) s = .next t ∧ t = { s with jobs := t.jobs } ∧
        t.job? j.lead j.slot = some j' ∧ src ∈ j'.dones ∧ ∀ e, e ∈ j'.dones → e = src ∨ e ∈ j.dones))

/-- R399, R401 to R403, R406, R409 to R411, R418: flits in order are accepted, their messages delivered or forwarded, and others are
not; a CRC failure, after which the adapter sends the flit and those behind it again; what an output sends, after a retraining its
first flit and nothing new before the other end's, from whose ACKSEQ the replay buffer goes again; retraining and the loss of a link;
training; the end of a traffic hold; frames of the scale-out ports.
Where the spec is open it states the model's own reading (logs 24, 49, 50, 59, 60, 97, 100). -/
def Obligations.LinkResults : Prop :=
  ∀ (s : State) (die : BitVec 6) (j : BitVec 2) (f : Flit) (width : BitVec 7) (port : BitVec 4) (tx : Bool) (typ : BitVec 16),
    let d := die.toNat
    let n := j.toNat
    let l := (s.die d).link n
    let pd := (otherEnd d n).1
    let pj := (otherEnd d n).2
    let ends (t : State) (P : Link → Link → Prop) : Prop :=
      P l ((t.die d).link n) ∧ P ((s.die pd).link pj) ((t.die pd).link pj)
    let recent : Nat := (l.fails.filter fun c => decide (s.clk < c + 2 ^ 20)).length
    let open_ (x : Flit) : Bool := !f.ackv || !decide ((f.ackseq - x.fseq).toNat < 2 ^ 15)
    let old : Prop := (l.expRx - 1 - f.fseq).toNat < 2 ^ 15
    let kept := l.replay.filter open_
    (l.state = 2 → badFlit f = false → f.fseq ≠ l.expRx → (l.await = false ∨ ¬ old) →
      exec (.flitReceive die j f true) s = .next s) ∧
    (l.state = 2 → badFlit f = false → f.fseq ≠ l.expRx → l.await = true → old → ∃ t,
      exec (.flitReceive die j f true) s = .next t ∧ t = { s with dies := t.dies } ∧
      (t.die d).link n = { l with await := false, replay := kept, again := kept }) ∧
    (l.state = 2 → badFlit f = false → f.fseq = l.expRx → ∃ t, exec (.flitReceive die j f true) s = .next t ∧
      t = { s with dies := t.dies, net := t.net } ∧ (∀ k, k ≠ d → t.die k = s.die k) ∧
      t.net = s.net ++ f.msgs.filter (fun m => m.ddie.toNat = d) ∧
      (∀ e, ((t.die d).link e).out = ((s.die d).link e).out ++
        f.msgs.filter fun m => m.ddie.toNat ≠ d ∧ s.nextHop d m.ddie.toNat = some e) ∧
      let r := (t.die d).link n
      r = { l with expRx := l.expRx + 1, ackv := true, owed := l.owed + 1, await := false, replay := kept, out := r.out
                   again := if l.await then kept else l.again.filter open_ }) ∧
    (l.state = 2 → badFlit f = true → ∃ t, exec (.flitReceive die j f true) s = .next t ∧
      (t.die d).link n = { l with crc := l.crc + 1 } ∧ t = { s with dies := t.dies }) ∧
    (l.state = 2 → ∃ t, exec (.flitReceive die j f false) s = .next t ∧
      let l1 : Link := { l with crc := l.crc + 1, fails := s.clk :: l.fails.filter fun c => decide (s.clk < c + 2 ^ 20) }
      let here (w : WireFlit) : Bool := w.die == d && w.link == n
      let lost := (s.wire.filter here).dropWhile fun w => w.flit != f
      (t.die d).link n = l1 ∧
      ((l1.recent s.clk < 8 ∨ (l.width ≠ 64 ∧ l.width ≠ 32)) → t = { s with dies := t.dies, wire := t.wire } ∧
        (let e := (s.die pd).link pj
         let fs := (lost.map (·.flit)).filter e.replay.contains
         (t.die pd).link pj = { e with
            again := fs ++ e.again, greet := e.greet || decide (fs.length < lost.length)
            retry := if fs.length < lost.length then e.retry + 1 else e.retry }) ∧
        t.wire = s.wire.filter fun w => !lost.contains w) ∧
      (8 ≤ l1.recent s.clk → (l.width = 64 ∨ l.width = 32) → t = { s with dies := t.dies })) ∧
    (∀ c, l.state = 2 → l.freeAt ≤ s.clk → (s.chances d n).find? (·.again) = some c → l.greet = true →
      let t := s.sendFlit d n
      let q := (l.replay.head?.map (·.fseq)).getD l.nextTx
      (t.die d).link n = { l with greet := false, owed := 0, freeAt := s.clk + c.span } ∧
      t.wire = s.wire ++ [{ at_ := s.clk + c.hop, die := pd, link := pj, flit := flitOf (q - 1) (l.expRx - 1) l.ackv [] }]) ∧
    (l.greet = false → l.again = [] → l.await = true → s.sendFlit d n = s) ∧
    (∀ c, l.state = 2 → l.freeAt ≤ s.clk → (s.chances d n).find? (·.again) = some c → l.greet = false → ∀ g r, l.again = g :: r →
      let t := s.sendFlit d n
      (t.die d).link n = { l with again := r, retry := l.retry + 1, freeAt := s.clk + c.span } ∧
      t.wire = s.wire ++ [{ at_ := s.clk + c.hop, die := pd, link := pj, flit := g }]) ∧
    (∀ c, l.state = 2 → l.freeAt ≤ s.clk → l.greet = false → l.await = false → l.again = [] → l.out ≠ [] → s.hold = none →
      l.replay.length < 256 →
      ((s.chances d n).find? fun c => !c.msgs.isEmpty) = some c →
      let t := s.sendFlit d n
      let g := flitOf l.nextTx (l.expRx - 1) l.ackv c.msgs
      (t.die d).link n = { l with nextTx := l.nextTx + 1, replay := l.replay ++ [g], out := c.rest, owed := 0
                                  freeAt := s.clk + c.span } ∧
      t.wire = s.wire ++ [{ at_ := s.clk + c.hop, die := pd, link := pj, flit := g }]) ∧
    (l.state = 2 → l.width = 64 → 8 ≤ recent → ∃ t, exec (.linkRetrain die j) s = .next t ∧
      (ends t fun a b => b.state = 1 ∧ b.width = a.width ∧ b.retrain = a.retrain + 1 ∧ b.fails = [] ∧ b.replay = a.replay) ∧
      ∀ w ∈ t.wire, w ∈ s.wire ∧ (w.die, w.link) ≠ (d, n) ∧ (w.die, w.link) ≠ (pd, pj)) ∧
    (l.state = 2 → l.width = 32 → 8 ≤ recent → ∃ t, exec (.linkDown die j) s = .next t ∧ t.hold = some (s.clk + 65536) ∧
      ends t fun _ b => b.state = 0 ∧ b.width = 0 ∧ b.dead = true ∧ b.replay = [] ∧ b.again = []) ∧
    (l.state = 1 → l.dead = false → l.width = 0 → (width = 64 ∨ width = 32) → ∃ t, exec (.linkTrained die j width) s = .next t ∧
      ends t fun a b => b = { a with state := 2, width := width.setWidth 8, spare := decide (s.boot.bstate = 5) }) ∧
    (l.state = 1 → l.dead = false → l.width ≠ 0 → width ≠ 0 → ∃ t, exec (.linkTrained die j width) s = .next t ∧
      ends t fun a b => b = { a with
        state := 2, width := 32, fails := [], again := [], greet := true, await := true
        spare := a.spare && decide (s.boot.bstate = 5) }) ∧
    (∀ c, s.hold = some c → c ≤ s.clk → ∃ t, exec .trafficHoldEnd s = .next t ∧ t.hold = none) ∧
    (let p := port.toNat
     (typ = 0x88B5 → exec (.scaleoutFrame port ⟨true, typ, f⟩) s = .next { s with
        soTx := s.soTx.set 0 p (s.soTx.get 0 p + 1)
        soOut := s.soOut ++ [(p, { payload := bytesOf (s.soTx.get 0 p).toNat 2 ++ f.payload.drop 2 })] }) ∧
     (typ = 0x88B5 → f.fseq = s.soRx.get 0 p → exec (.scaleoutFrame port ⟨false, typ, f⟩) s = .next { s with
        soRx := s.soRx.set 0 p (f.fseq + 1), soIn := s.soIn ++ [(p, f)] }) ∧
     (typ = 0x88B5 → f.fseq ≠ s.soRx.get 0 p → exec (.scaleoutFrame port ⟨false, typ, f⟩) s = .next s) ∧
     (typ = 0x88F7 → exec (.scaleoutFrame port ⟨false, typ, f⟩) s =
        .next { s with mtime := Config.freeValue s.fresh, fresh := s.fresh + 1 }) ∧
     (typ ≠ 0x88B5 → (typ ≠ 0x88F7 ∨ tx = true) → exec (.scaleoutFrame port ⟨tx, typ, f⟩) s = .next s))


/-! The host, boot and power (11, 20, 22 to 24). -/

/-- R292, R294, R420, R435: host accesses through a port. A write through the memory window, whole within BAR 2, lands byte for
byte in memory that the host may write, a cluster's data scratchpad and accumulator banks among it (of a switched-out one in its slot
too), and a read returns the bytes there, of any window range; a write through BAR 4 sets bytes of the MSI-X table and
raises the pending vectors that it unmasks; BAR 0 reaches the registers. Every access of a BAR that the port has completes; of the
one it lacks it stops by name. Where the spec is open it states the model's own reading (logs 10, 68, 69, 70, 71). -/
def Claims.WindowAccess : Prop :=
  ∀ (s : State) (port : Bool) (bar : BitVec 2) (off n : Nat) (data : List Byte),
    let p := s.portOf port
    let a := p.mapped off
    let big (b : Nat) : Prop := (tierOf b = .dram ∨ tierOf b = .lpddr) ∧ (s.die (paDie b)).present = true
    let inner (b : Nat) : Prop := tierOf b = .window ∧ 0x100000 ≤ paOff b ∧ (s.die (paDie b)).present = true
    let said (bar : BitVec 2) (l : List Byte) : List HostAns := s.answers ++ [{ port := port, bar := bar, off := off, data := l }]
    (bar ≠ 3 → ∃ t, exec (.hostWrite port bar off data) s = .next t) ∧
    (bar ≠ 3 → ∃ t, exec (.hostRead port bar off n) s = .next t ∧ SameMem s t ∧ t.cl = s.cl ∧
      ∃ l, l.length = n ∧ t.answers = said bar l) ∧
    (s.boot.bstate = 5 → off + data.length ≤ 2 ^ 36 → s.bad = [] → (∀ i < data.length, big (a + i)) →
      ∃ t, exec (.hostWrite port 1 off data) s = .next t ∧ (∀ i b, data[i]? = some b → t.rd8 (a + i) = b) ∧
        SameMemBut a data.length s t ∧ t = { s with mem := t.mem }) ∧
    (s.boot.bstate = 5 → off + data.length ≤ 2 ^ 36 → s.bad = [] →
      (∀ i < data.length, inner (a + i) ∧ (s.cluster (paKey (a + i))).frz.out = false) →
      ∃ t, exec (.hostWrite port 1 off data) s = .next t ∧ (∀ i b, data[i]? = some b → t.rd8 (a + i) = b) ∧
        SameMemBut a data.length s t ∧ t = { s with mem := t.mem }) ∧
    (s.boot.bstate = 5 → off + data.length ≤ 2 ^ 36 → s.bad = [] → a % 8 + data.length ≤ 8 → data ≠ [] → inner a → paOff a < 0x300000 →
      (s.cluster (paKey a)).frz.out = true →
      let slot := s.sliceSlot (paKey a / 16) ((s.die (paKey a / 16)).physOf (paKey a % 16)) + 0x220000 + (paOff a - 0x100000)
      ∃ t, exec (.hostWrite port 1 off data) s = .next t ∧ ∀ i b, data[i]? = some b → t.rd8 (a + i) = b ∧ t.rd8 (slot + i) = b) ∧
    (s.boot.bstate = 5 → off + n ≤ 2 ^ 36 → s.bad = [] →
      (∀ i < n, let b := p.mapped (off + i)
        tierOf b = .window ∧ (s.die (paDie b)).present = true ∧ (paOff b < 0x88280 ∨ 0x8C000 ≤ paOff b)) →
      ∃ t, exec (.hostRead port 1 off n) s = .next t ∧ t.dies = s.dies ∧
        t.answers = said 1 ((List.range n).map fun i => s.rd8 (p.mapped (off + i)))) ∧
    (s.boot.bstate ≠ 5 → exec (.hostWrite port 1 off data) s = .next s) ∧
    (2 ^ 36 ≤ off → exec (.hostWrite port 1 off data) s = .next s) ∧
    (s.boot.bstate = 5 → off + n ≤ 2 ^ 36 → s.bad = [] → (∀ i < n, big (p.mapped (off + i))) →
      ∃ t, exec (.hostRead port 1 off n) s = .next t ∧ t.dies = s.dies ∧
        t.answers = said 1 ((List.range n).map fun i => s.rd8 (p.mapped (off + i)))) ∧
    (s.boot.bstate ≠ 5 → ∃ t, exec (.hostRead port 1 off n) s = .next t ∧ t.answers = said 1 (List.replicate n 0)) ∧
    (∃ t, exec (.hostWrite port 2 off data) s = .next t ∧ SameMem s t ∧ t.cl = s.cl ∧ t.dies = s.dies ∧
      let r := t.portOf port
      (∀ i b, data[i]? = some b → off + i < 0x8000 → r.msixByte (off + i) = b) ∧
      (∀ o, (o < off ∨ off + data.length ≤ o) → r.msixByte o = p.msixByte o) ∧
      (off < 0x10000 → r.pend = p.pend.filter r.masked ∧
        t.irqs = (p.pend.filter fun v => !r.masked v).reverse ++ s.irqs)) ∧
    exec (.hostRead port 2 off n) s = .next { s with answers := said 2 ((List.range n).map fun i => p.bar4 (off + i)) } ∧
    (∀ o < 0x8000, p.bar4 o = p.msixByte o) ∧ (∀ v < 2048, (p.bar4 (0x8000 + v / 8)).getLsbD (v % 8) = p.pend.contains v) ∧
    exec (.hostWrite port 3 off data) s = .fault .noSuchBar ∧ exec (.hostRead port 3 off n) s = .fault .noSuchBar

/-- R5, R355, R375, R391, R420, R421, R430, R431, R435, R436: writes of registers of die `die`, by a task, the host or firmware. Each
completes; an 8-byte one is one of the low and then one of the high half; a task's, a misaligned one and one outside the control
blocks are ignored, and so is the host's before BSTATE 5 outside the boot block. BAR 0 reaches the same registers.
Where the spec is open it states the model's own reading (logs 61, 69). -/
def Claims.RegisterWrites : Prop :=
  ∀ (s : State) (port : Bool) (die : BitVec 6) (q : BitVec 8) (v : Word32) (who : BitVec 2) (addr : BitVec 52) (len : BitVec 4)
    (v64 : Word64) (off : Nat),
    let d := die.toNat
    let qa := 0x10000 + 0x40 * q.toNat
    let reg (o : Nat) : BitVec 52 := .ofNat 52 (d * 2 ^ 45 + 0x1F0000000000 + o)
    let put (w : BitVec 2) (o : Nat) : Out := exec (.registerWrite w (reg o) 4 (v.setWidth 64)) s
    let bytes : List Byte := (List.range 4).map fun i => v.extractLsb' (8 * i) 8
    let host (o : Nat) : Out := exec (.hostWrite port 0 (d * 0x200000 + o) bytes) s
    let runs := s.boot.bstate = 5
    let b := s.boot
    let x := s.die d
    (∃ t, exec (.registerWrite who addr len v64) s = .next t) ∧
    exec (.registerWrite 0 addr len v64) s = .next s ∧
    (2 ^ 51 ≤ addr.toNat ∨ addr.toNat % 2 ^ 45 < 0x1F0000000000 ∨ 0x1F0000110000 ≤ addr.toNat % 2 ^ 45 ∨ (len ≠ 4 ∧ len ≠ 8) ∨
      addr.toNat % len.toNat ≠ 0 → exec (.registerWrite who addr len v64) s = .next s) ∧
    (off % 8 = 0 → off < 0x110000 → off ≠ 0xB10 → exec (.registerWrite who (reg off) 8 v64) s =
      match exec (.registerWrite who (reg off) 4 (v64 &&& 0xFFFFFFFF)) s with
      | .next t => exec (.registerWrite who (reg (off + 4)) 4 (v64 >>> 32)) t
      | o => o) ∧
    (runs → off % 4 = 0 → off < 0x110000 → exec (.hostWrite false 0 (d * 0x200000 + off) bytes) s = put 1 off) ∧
    (runs → host (qa + 0x0C) = exec (.doorbell die q (v.setWidth 16)) s ∧
      host (qa + 0x24) = .next (s.updQueue d q.toNat fun y => { y with qchead := v.setWidth 16 }) ∧
      exec (.hostRead port 0 (d * 0x200000 + qa + 0x24) 4) s = .next { s with answers := s.answers ++
        [{ port := port, bar := 0, off := d * 0x200000 + qa + 0x24, data := bytesOf ((x.queue q.toNat).qchead).toNat 4 }] }) ∧
    (who = 1 ∨ who = 2 → put who (qa + 0x0C) = exec (.doorbell die q (v.setWidth 16)) s) ∧
    ((runs ∨ who = 2) → who = 1 ∨ who = 2 →
      put who (qa + 0x24) = .next (s.updQueue d q.toNat fun y => { y with qchead := v.setWidth 16 }) ∧
      put who (qa + 0x30) = .next (s.updQueue d q.toNat fun y => { y with qivec := v.setWidth 11 }) ∧
      put who (qa + 0x14) = .next (s.updQueue d q.toNat fun y =>
        { y with werr := y.werr && !v.getLsbD 2, terr := y.terr && !v.getLsbD 1, eerr := y.eerr && !v.getLsbD 0 }) ∧
      (die = 0 → put who 0x608 = .next { s with port0 := { s.port0 with tkalign := s.port0.tkalign.extractLsb' 32 32 ++ v } } ∧
        put who 0x60C = .next { s with port0 := { s.port0 with tkalign := v ++ s.port0.tkalign.extractLsb' 0 32 } } ∧
        put who 0x620 = .next { s with port0 := { s.port0 with evhead := v.setWidth 16 } })) ∧
    (put 2 0x320 = .next (if s.dieBusy d then s else s.updDie d fun y => { y with ckbase := x.ckbase.extractLsb' 32 13 ++ v }) ∧
      put 2 0x324 = .next (if s.dieBusy d then s else
        s.updDie d fun y => { y with ckbase := v.setWidth 13 ++ x.ckbase.extractLsb' 0 32 })) ∧
    put 1 0x320 = .next s ∧
    ((die = 0 ∨ die = 32) → who = 1 ∨ who = 2 →
      put who 0x710 = .next { s with boot := { b with imglen := v } } ∧
      (v.toNat < 8 → v.getLsbD 0 = false → put who 0x718 = .next (if b.attReq = true ∨ b.certReq = true ∨ v = 0 then s else
        { s with boot := { b with
          attReq := v.getLsbD 1 && decide (b.bstate = 5), certReq := v.getLsbD 2 && decide (b.bstate ≠ 0), reqAt := s.clk
          atterr := b.atterr || (v.getLsbD 1 && decide (b.bstate ≠ 5)) || (v.getLsbD 2 && decide (b.bstate = 0)) } }))) ∧
    (s.boot.bstate ≠ 5 → (off < 0x700 ∨ 0x740 ≤ off) → off < 0x110000 → put 1 off = .next s ∧ host off = .next s ∧
      exec (.hostRead port 0 (d * 0x200000 + off) 1) s = .next { s with answers := s.answers ++
        [{ port := port, bar := 0, off := d * 0x200000 + off, data := [0] }] })

/-- R5, R292, R294, R355, R391, R420, R421, R430, R431, R435, R436: the host's accesses through its ports and the writes of registers.
Where the spec is open it states the model's own reading (logs 10, 61, 68, 69, 70, 71). -/
def Obligations.HostAccessResults : Prop := Claims.WindowAccess ∧ Claims.RegisterWrites

/-- R430, R432 to R434, R437: power-up and its loss; a GO reads the image into D0's DRAM; the checks of the copy, in their order,
and the distribution; a die that does not answer in time. -/
def Claims.DownloadResults : Prop :=
  ∀ (s : State) (port : Bool) (die : BitVec 6),
    let b := s.boot
    let lost (t : State) : Prop := t.jobs = [] ∧ (∀ k, t.cluster k = {}) ∧
      (∀ a, t.rd8 a = if 2 ^ 51 ≤ a then s.rd8 a else 0) ∧ t.mtime = 0 ∧ t.clk = 0 ∧ t.freq = {}
    let host := 2 ^ 51 + b.imgaddr.toNat % 2 ^ 51
    let copy := 0x15F9000000
    let body := 64 + s.rdLE (copy + 8) 4
    let pk := s.rdBytes (copy + body) 2592
    let m := sha3 (s.rdBytes copy body)
    (∃ t, exec .powerUp s = .next t ∧ lost t ∧ t.boot = { bstate := if Config.romFails s.fresh then 0 else 1 } ∧
      t.port0.trained = true ∧ t.port1.trained = true ∧
      ∀ d < 64, (t.die d).present = false ∧ ∀ j < 4, ((t.die d).link j).state = 1 ∧ ((t.die d).link j).width = 0) ∧
    (∃ t, exec .powerLoss s = .next t ∧ lost t ∧ t.boot = {} ∧ t.dies = []) ∧
    ((b.bstate = 1 ∨ b.bstate = 6) → ∃ t, exec (.fwDownload port) s = .next t ∧
      let n := Nat.min b.imglen.toNat 0x6000000
      t.boot = { b with bstate := 2, berr := 0, len := b.imglen.toNat, rdErr := s.errs host n, sent := s.clk } ∧
      (∀ i < n, t.rd8 (copy + i) = s.rd8 (host + i)) ∧ SameMemBut copy n s t) ∧
    (b.bstate = 2 → ∃ t, exec (.fwDownload port) s = .next t ∧
      (if s.downloadError = 0 then
        t.boot = { b with bstate := 3, sent := s.clk, fwver := .ofNat 32 (s.rdLE (copy + 4) 4), m := m } ∧
        (∀ d, (t.die d).answer = 0) ∧
        ∀ d < 64, (s.hops 0 d).isSome = true → ∀ i < body, t.rd8 (d * 2 ^ 45 + copy + i) = s.rd8 (copy + i)
      else t = { s with boot := { b with bstate := 6, berr := .ofNat 8 s.downloadError, sent := s.clk } }) ∧
      ∀ a, 2 ^ 51 ≤ a → t.rd8 a = s.rd8 a) ∧
    (s.headerGood = true ↔ s.rdLE copy 4 = 0x46573031 ∧ s.rdLE (copy + 8) 4 % 64 = 0 ∧ 64 ≤ s.rdLE (copy + 8) 4 ∧
      s.rdLE (copy + 8) 4 ≤ 64 * 2 ^ 20 ∧ s.zeroAt (copy + 12) 52 = true ∧ b.len = body + 2592 + 4627) ∧
    s.downloadError = (if s.headerGood = false then 1 else if b.rdErr = true then 5 else if s.errs copy b.len = true then 6
      else if sha3 pk ≠ Config.fusedDigest then 2 else if s.rdLE (copy + 4) 4 < Config.fusedVersion then 3
      else if MlDsa.verify pk (bytesOf m.toNat 64) (s.rdBytes (copy + body + 2592) 4627) = false then 4 else 0) ∧
    (b.bstate ≠ 1 → b.bstate ≠ 2 → b.bstate ≠ 6 → exec (.fwDownload port) s = .next s) ∧
    (b.bstate = 3 → ∀ d, d ∈ s.dies.map Prod.fst → (s.die d).answer = 0 → Config.dieAnswers d = true →
      (s.hops 0 d).isSome = true → (s.dieAnswers.die d).answer =
        if s.errs (d * 2 ^ 45 + copy) body = true ∨ sha3 (s.rdBytes (d * 2 ^ 45 + copy) body) ≠ b.m then 2 else 1) ∧
    (b.bstate = 3 → (s.die die.toNat).answer = 0 → b.sent + 2 ^ 24 ≤ s.clk →
      exec (.dieAnswerTimeout die) s = .next (s.updDie die.toNat fun x => { x with answer := 2 }))

/-- R424, R425, R435, R436: enumeration and the topology, attestation and the certificate. -/
def Claims.EnumerationAndAttestation : Prop :=
  ∀ (s : State) (port : Bool),
    let out := 2 ^ 51 + s.boot.attout.toNat % 2 ^ 51
    let nonce := 2 ^ 51 + s.boot.attnonce.toNat % 2 ^ 51
    let free (i : Nat) : List Byte := bytesOf (Config.freeValue (s.fresh + i)).toNat 8
    (s.boot.bstate = 3 → (∀ d < 64, (s.die d).answer ≠ 0) → ∃ t, exec .enumeration s = .next t ∧ SameMem s t ∧
      t.boot = { s.boot with bstate := 4, sent := s.clk } ∧
      ∀ d < 64, (t.die d).present = s.dieGood d ∧ (s.dieGood d = true → (t.die d).defmask = Config.dieDefects d ∧
        (mapLegal (Config.dieDefects d) ((List.range 16).foldl (fun (m : SMap Byte) n => m.set 0 n (Config.bootMap d n)) []) = true →
          ∀ n < 16, (t.die d).clmap.get 0 n = Config.bootMap d n))) ∧
    (s.boot.bstate = 4 → (s.die 0).present = true → ∃ t, exec .enumeration s = .next t ∧
      t.boot = { s.boot with bstate := 5, sent := s.clk } ∧ t.port0.topo = 0x0015FFFF0000 ∧ t.port1.topo = 0x0015FFFF0000 ∧
      t.rdLE topoAt 4 = 0x544F5031 ∧ t.rdLE (topoAt + 8) 8 = s.presentMask ∧
      ∀ d < 64, t.rd8 (topoAt + 64 + 64 * d) = (if (s.die d).present then 1 else 0) ∧
        t.rdLE (topoAt + 64 + 64 * d + 1) 3 = (s.die d).defmask.toNat ∧
        (∀ n < 16, t.rd8 (topoAt + 64 + 64 * d + 4 + n) = (s.die d).clmap.get 0 n) ∧
        ∀ j < 4, t.rd8 (topoAt + 64 + 64 * d + 20 + j) = ((s.die d).link j).width) ∧
    (s.boot.bstate = 4 → (s.die 0).present = false → exec .enumeration s = .next s) ∧
    (s.boot.bstate ≠ 3 → s.boot.bstate ≠ 4 → exec .enumeration s = .next s) ∧
    (s.boot.bstate = 5 → s.errs nonce 64 = false → ∃ t, exec (.attestation port) s = .next t ∧
      match MlDsa.sign identityKey (bytesOf (sha3 s.report).toNat 64) (free 0 ++ free 1 ++ free 2 ++ free 3) with
      | some sig => t.boot = { s.boot with attReq := false, attdone := true, atterr := false } ∧ s.report.length = 256 ∧
        (∀ i b, (s.report ++ sig)[i]? = some b → t.rd8 (out + i) = b) ∧ SameMemBut out (256 + sig.length) s t
      | none => t.boot = { s.boot with attReq := false, atterr := true } ∧ SameMem s t) ∧
    ((s.boot.bstate ≠ 5 ∨ s.errs nonce 64 = true) →
      exec (.attestation port) s = .next { s with boot := { s.boot with attReq := false, atterr := true } }) ∧
    (s.boot.bstate ≠ 0 → ∃ t, exec (.certificate port) s = .next t ∧
      t.boot = { s.boot with certReq := false, attdone := true, atterr := false } ∧
      let pk := (MlDsa.keyGen (bytesOf Config.deviceSeed.toNat 32)).pk
      t.rdLE out 4 = (2592 + Config.certificateLength) % 2 ^ 32 ∧
      (∀ i b, pk[i]? = some b → t.rd8 (out + 4 + i) = b) ∧
      (∀ i < Config.certificateLength, t.rd8 (out + 4 + pk.length + i) = Config.certificateByte i) ∧
      SameMemBut out (4 + pk.length + Config.certificateLength) s t) ∧
    (s.boot.bstate = 0 → exec (.certificate port) s = .next { s with boot := { s.boot with certReq := false, atterr := true } })

/-- R424, R425, R430, R432 to R437: power, the firmware download, enumeration and attestation.
Where the spec is open it states the model's own reading (logs 2, 3, 4, 20, 21, 25, 61, 62, 72, 95). -/
def Obligations.BootResults : Prop := Claims.DownloadResults ∧ Claims.EnumerationAndAttestation

/-- R441: what a measurement of its own current a, its partner's b and its temperature does to a layer's level; a lighter layer
takes level 0 (log 64). -/
def Claims.LevelAfter (p : PhysSt) (a b : BitVec 16) (temp : BitVec 8) : Prop :=
  let r := p.measured a b temp
  let x := a.toNat
  let y := b.toNat
  let gap := x - y + (y - x)
  let far := x + y < 20 * gap
  let near := 40 * gap < x + y
  let cool := temp.toNat < 95 ∨ (p.hot = false ∧ temp.toNat < 105)
  r.imeas = a ∧ r.temp = temp ∧ (r.hot = false ↔ cool) ∧ (¬ cool → r.thr = 2) ∧ (cool → x < y → r.thr = 0) ∧
  (far → r.hi = p.hi + 1) ∧ (¬ far → r.hi = 0) ∧ (near → p.lo < 15 → r.lo = p.lo + 1) ∧ (¬ near ∨ 15 ≤ p.lo → r.lo = 0) ∧
  r.atLvl = (if r.thr = p.thr then p.atLvl + 1 else 0) ∧
  (cool → y ≤ x → (far → 1 ≤ p.hi → p.thr = 0 → r.thr = 1) ∧ (far → 1 ≤ p.hi → p.thr = 1 → 4 ≤ p.atLvl → r.thr = 2) ∧
    (near → 15 ≤ p.lo → r.thr.toNat = p.thr.toNat - 1) ∧
    (¬ (far ∧ 1 ≤ p.hi ∧ (p.thr = 0 ∨ p.thr = 1 ∧ 4 ≤ p.atLvl)) → ¬ (near ∧ 15 ≤ p.lo) → r.thr = p.thr))

/-- R439, R441, R445 to R449, R454, R455: measurements, whose values are free (log 2), set the throttle levels; frequency
requests, ramps, which pause while a domain snaps back, and switches; undervolting, snap-back and settling; the governor.
Where the spec is open it states the model's own reading (logs 2, 63, 64, 65, 66, 67). -/
def Obligations.PowerResults : Prop :=
  ∀ (s : State) (die : BitVec 6) (v : Word32) (dom : BitVec 4) (phys : BitVec 5) (addr : BitVec 52),
    let d := die.toNat
    let j := dom.toNat
    let x := (s.die d).dom j
    let q := s.freq
    (∃ t, exec (.currentMeasure die) s = .next t ∧ (t.die d).measAt = s.clk ∧ t.fresh = s.fresh + 54 ∧ SameMem s t ∧
      t.cl = s.cl ∧ ∀ i < 9,
        let val (n : Nat) : Word64 := Config.freeValue (s.fresh + 6 * i + n)
        (t.die d).physSt (2 * i) = ((s.die d).physSt (2 * i)).measured ((val 0).setWidth 16) ((val 1).setWidth 16)
          ((val 2).setWidth 8) ∧
        (t.die d).physSt (2 * i + 1) = ((s.die d).physSt (2 * i + 1)).measured ((val 1).setWidth 16) ((val 0).setWidth 16)
          ((val 3).setWidth 8)) ∧
    (∀ (p : PhysSt) (a b : BitVec 16) (temp : BitVec 8), Claims.LevelAfter p a b temp) ∧
    (die = 0 → exec (.freqRequest die v) s = .next { s with freq := { q with
      vnom := v.extractLsb' 16 12, fmhz := v.extractLsb' 0 12, pend := true } }) ∧
    (die ≠ 0 → exec (.freqRequest die v) s = .next s) ∧
    (q.pend = true → q.ramp = false → (∀ e ∈ s.dies, ∀ y ∈ e.2.doms, y.2.snap = false) → ∃ t, exec .freqRamp s = .next t ∧
      t = { s with freq := t.freq } ∧ t.freq.pend = false ∧ t.freq.ramp = true ∧ t.freq.switched = false ∧
      t.freq.fcur = q.fcur ∧ t.freq.vcur = q.vcur ∧
      let f := max 400 (min 2100 q.fmhz.toNat) / 25 * 25
      let mv := max (max 600 (min 800 q.vnom.toNat)) (Config.minVoltage f)
      t.freq.tf.toNat = f ∧ t.freq.tv = .ofNat 12 mv ∧ t.freq.settled = if q.fcur.toNat ≤ f
        then s.clk + ((mv - q.vcur.toNat + (q.vcur.toNat - mv)) * q.fcur.toNat + 19) / 20 else s.clk) ∧
    (s.switchNow = true → ∃ t, exec .freqSwitch s = .next t ∧ t = { s with freq := t.freq, mtime := s.mtime + 2000 } ∧
      t.freq.fcur = q.tf ∧ t.freq.fchg = q.fchg + 1 ∧
      (q.fcur.toNat ≤ q.tf.toNat → t.freq.ramp = false ∧ t.freq.vcur = q.tv) ∧
      (q.tf.toNat < q.fcur.toNat → t.freq.ramp = true ∧ t.freq.vcur = q.vcur)) ∧
    (q.ramp = true → s.clk < q.settled → s.settleFreq = { s with freq :=
      let left := 20 * (q.settled - s.clk) / q.fcur.toNat
      if s.snapping then { q with settled := q.settled + 1 }
      else { q with vcur := .ofNat 12 (if q.vcur.toNat ≤ q.tv.toNat then q.tv.toNat - left else q.tv.toNat + left) } }) ∧
    (q.ramp = true → q.settled ≤ s.clk → (q.switched = true → s.settleFreq = { s with freq := { q with ramp := false, vcur := q.tv } }) ∧
      (q.switched = false → q.fcur.toNat ≤ q.tf.toNat → s.settleFreq = { s with freq := { q with vcur := q.tv } })) ∧
    (j < 9 → x.snap = false →
      let mv := if s.goven = true ∧ x.lock = false then min (min (v.toNat % 128) 100) x.limit.toNat else 0
      exec (.voffWrite die dom v) s = .next (s.updDie d fun e => e.setDom j
        (if s.replaying x then { x with back := .ofNat 7 mv } else { x with voff := .ofNat 7 mv, back := 0, after := [] }))) ∧
    ((9 ≤ j ∨ x.snap = true) → exec (.voffWrite die dom v) s = .next s) ∧
    (let a := addr.toNat
     let k := phys.toNat / 2
     let y := (s.die d).dom k
     let counter : Option Nat := if a < 2 ^ 51 ∧ a % 2 ^ 45 < 0x4000000 then counterAt (a % 0x400000) else none
     let bad := if s.bad.contains (a / 8) then s.bad else s.bad ++ [a / 8]
     let met := s.uvMet.filter fun e => e.1 != a
     (counter = none → y.voff = 0 → y.snap = false → exec (.snapBack die phys addr) s = .next { s with bad := bad, uvMet := met }) ∧
     (∀ g, counter = some g → ∃ t, exec (.snapBack die phys addr) s = .next t ∧ t.bad = s.bad ∧ t.uvMet = met ∧ SameMem s t ∧
       let n := 16 * (a / 2 ^ 45) + a % 2 ^ 45 / 0x400000
       let m := (t.cluster n).me
       (g < 0x8000 → ∀ p, (s.cluster n).me.pass = some p →
         ∃ q, m.pass = some q ∧ q = { p with bad := q.bad } ∧ ∀ i, i ∈ q.bad ↔ i = g ∨ i ∈ p.bad) ∧
       (0x8000 ≤ g → ∀ i, i ∈ m.dbad ↔ i = g - 0x8000 ∨ i ∈ (s.cluster n).me.dbad)) ∧
     ((y.voff ≠ 0 ∨ y.snap = true) → ∃ t, exec (.snapBack die phys addr) s = .next t ∧
      (let z := (t.die d).dom k
       z.snap = true ∧ z.voff = 0 ∧ z.back = (if y.snap then y.back else y.voff) ∧
       (∀ job, (a, some job) ∈ s.uvMet → job ∈ z.wants) ∧ (∀ job ∈ y.wants, job ∈ z.wants)) ∧
      (counter = none → t.bad = bad) ∧ t.uvMet = met ∧ SameMem s t ∧ ∀ n ∈ s.domKeys d k, (t.cluster n).frz.snap = true)) ∧
    (x.snap = true → x.settle ≤ s.clk → ∃ t, exec (.snapSettle die dom) s = .next t ∧ ((t.die d).dom j).snap = false ∧
      ((t.die d).dom j).snapcnt.toNat = min 255 (x.snapcnt.toNat + 1) ∧
      (∀ n ∈ s.domKeys d j, (t.cluster n).frz.snap = false) ∧
      (∀ r ∈ x.wants, r ∈ ((t.die d).dom j).after ∧ ∀ y, s.job? r.1 r.2 = some y → (t.job? r.1 r.2).map (·.rollback) = some (decide (s.jobKeys y ≠ []))) ∧
      (let third := decide (3 ≤ ((s.opns :: x.snaps).filter fun ns => decide (s.opns < ns + 720 * 3600 * 10 ^ 9)).length)
       let z := (t.die d).dom j
       (x.lock = false → x.limit.toNat ≤ 100 → z.limit.toNat = x.limit.toNat - 20 ∧ z.lock = third) ∧
       (x.lock = true → z.limit = x.limit ∧ z.lock = true) ∧
       (s.goven = true → x.lock = false → x.limit.toNat ≤ 100 → (x.limit ≠ 0 ∨ third = true) →
        t.rdLE (2 ^ 51 + s.gaddr.toNat * 4096 % 2 ^ 51 + 18 * d + 2 * j) 2 = x.limit.toNat - 20 + 256 * b2n third))) ∧
    (∃ t, exec .governorEnable s = .next t ∧ t.goven = true ∧ SameMem s t ∧ ∀ n < 64, ∀ i < 9,
      let e := s.rdLE (2 ^ 51 + s.gaddr.toNat * 4096 % 2 ^ 51 + 18 * n + 2 * i) 2
      ((t.die n).dom i).limit.toNat = (if 2 ^ 9 ≤ e ∨ e.testBit 8 = true then 0 else min 100 (e % 256)) ∧
      ((t.die n).dom i).lock = e.testBit 8) ∧
    (s.cleanDue d j = true → ∃ t, exec (.governorCleanDay die dom) s = .next t ∧
      ((t.die d).dom j).clean = s.opns ∧
      ((t.die d).dom j).limit.toNat = (if x.lock || !s.goven then x.limit.toNat else min 100 (x.limit.toNat + 5)))

/-! Faults, cycles, steps, decoding and reset (01, 04, 19, 22). -/

/-- R40, R41, R219, R266, R270, R290, R382, R383, R448: a cause taken with no valid record writes one, every field of it, freezes the task and counts a fault of its job; taken
while the record is valid it goes into its stream's byte of SEC, or is held where that byte is taken. The registers, the engines
and every byte below host memory stay as they were. The causes of one cycle are taken in stream order with no bundle's effect; one
met outside the streams' issue gives way as primary to a cause of the same cycle whose stream comes no later (R243).
Where the spec is open it states the model's own reading (logs 33, 39, 57, 98). -/
def Obligations.FaultTaken : Prop :=
  ∀ (s : State) (x : Trap) (l : List Trap),
    let c := s.cl
    let t := s.takeFault x
    let r := t.cl.flt
    let byte := c.flt.sec.toNat / 2 ^ (24 - 8 * x.str.num) % 256
    let suspect := x.cause == Cause.memUncorr.code && s.undervolted x.faddr
    (c.flt.valid = false →
      (r.cause, r.detail, r.str, r.pos, r.lane, r.code) =
        (.ofNat 8 x.cause, .ofNat 8 x.detail, .ofNat 4 x.str.num, .ofNat 4 x.pos, .ofNat 8 x.lane, .ofNat 16 x.code) ∧
      r.valid = true ∧ r.sec = 0 ∧ r.ftcyc = c.taskcyc ∧ r.baddr = x.baddr ∧ r.faddr = .ofNat 64 x.faddr ∧ r.mtime = s.mtime ∧
      r.uvs = ((s.domOf s.cur).snap || suspect) ∧ r.vrep = .ofNat 3 c.v.rep ∧
      r.mstep = .ofNat 64 (c.m.rep % 2 ^ 12 * 2 ^ 52 + match c.me.pass with
        | some p => p.phase * 2 ^ 50 + p.setup % 2 ^ 25 * 2 ^ 25 + p.outer % 2 ^ 7 * 2 ^ 17 + p.kstep % 2 ^ 17
        | none => 0) ∧
      r.xv = x.xfer.isSome ∧ (r.ch, r.id) = (match x.xfer with
        | some e => (.ofNat 2 e.1, e.2)
        | none => (0, 0)) ∧
      r.wm10.toNat = (c.chan 1).wmark.toNat * 2 ^ 32 + (c.chan 0).wmark.toNat ∧
      r.wm32.toNat = (c.chan 3).wmark.toNat * 2 ^ 32 + (c.chan 2).wmark.toNat ∧
      (∀ n < 4, match (c.chan n).q with
        | [] => r.cpos.get 0 n = 0
        | y :: _ => ∃ e, r.cpos.get 0 n = .ofNat 64 (y.id.toNat * 2 ^ 32 + e % 2 ^ 32) ∧ e ≤ y.back.getD y.cursor ∧
          (∀ w ∈ y.wr, e ≤ w.2) ∧ (e = y.back.getD y.cursor ∨ ∃ w ∈ y.wr, e = w.2)) ∧
      r.pecur = (match c.pe.job with
        | some j => if j.fin then 0 else match j.op with
          | .pcell .. => .ofNat 64 (j.h * 2 ^ 46 + j.q * 2 ^ 41 + j.i % 2 ^ 16 * 2 ^ 25 + j.j % 2 ^ 16 * 2 ^ 9)
          | .psets .. => .ofNat 64 (j.i * 2 ^ 32 + j.j)
          | _ => .ofNat 64 j.i
        | none => 0) ∧
      r.cpc = c.c.pc.setWidth 16 ∧ r.mpc = c.m.pc.setWidth 16 ∧ r.xpc = c.x.pc.setWidth 16 ∧ r.vpc = c.v.pc ∧
      t.cl = { c with flt := r, frz := t.cl.frz, fltNow := some (x, s.clk) } ∧
      t.cl.frz = (if x.memErr then { c.frz with memErr := true } else { c.frz with fault := true }) ∧
      ∀ k j, c.task = some k → s.job? k.lead k.slot = some j → t.job? k.lead k.slot = some { j with nfault := j.nfault + 1 }) ∧
    (c.flt.valid = true → byte = 0 → x.cause < 256 → r.sec.toNat = c.flt.sec.toNat + x.cause * 2 ^ (24 - 8 * x.str.num) ∧
      t.cl = { c with flt := { c.flt with sec := r.sec, uvs := c.flt.uvs || suspect } }) ∧
    (c.flt.valid = true → byte ≠ 0 → t.cl = { c with heldF := c.heldF ++ [x] }) ∧
    (∀ q y, q.causes = [y] → y.str = x.str → y ∉ q.traps → s.joinCauses x q = s.takeFault y) ∧
    (∀ q y, q.causes = [y] → c.flt.valid = true → c.flt.sec = 0 → x.cause < 256 →
        y.str.num < x.str.num ∨ (y.str = x.str ∧ y ∈ q.traps) →
      let f := (s.joinCauses x q).cl.flt
      f.valid = true ∧ f.cause = .ofNat 8 y.cause ∧ f.str = .ofNat 4 y.str.num ∧ f.baddr = y.baddr ∧
      f.sec.toNat = x.cause * 2 ^ (24 - 8 * x.str.num)) ∧
    (∀ a < 2 ^ 51, t.rd8 a = s.rd8 a) ∧ t.ctx = s.ctx ∧ t.park = s.park ∧
    (let u := s.faultCycle l
     (∀ a < 2 ^ 51, u.rd8 a = s.rd8 a) ∧ u.ctx = {} ∧ u.cl = { c with
        flt := u.cl.flt, frz := u.cl.frz, heldF := u.cl.heldF, frzcyc := c.frzcyc + 1, ovrcyc := u.cl.ovrcyc
        xclk := u.cl.xclk, fltNow := none } ∧
     ∀ y ys, l = y :: ys → c.flt.valid = false → u.cl.flt.cause = .ofNat 8 y.cause ∧ u.cl.flt.str = .ofNat 4 y.str.num ∧
       (y.memErr = false → u.cl.frz.fault = true))

/-- R28 to R32, R133, R142, R143: a clock cycle of a freeze advances FRZCYC, OVRCYC where overrun is a cause, the copy engine's
clock where the freeze leaves it running (that clock, and which freezes leave it running, is the model's, log 44), and nothing else; a logical cycle advances TASKCYC and not those two, each semaphore gains what was released, k takes what was written. -/
def Obligations.CycleCounters : Prop :=
  ∀ c : Cluster,
    c.frozenClock = { c with
      frzcyc := c.frzcyc + 1, ovrcyc := if c.frz.overrun then c.ovrcyc + 1 else c.ovrcyc
      xclk := if c.frz.fault || c.frz.memErr || c.frz.snap || c.frz.out || c.frz.save then c.xclk else c.xclk + 1 } ∧
    (let e := c.endCycle
     e.taskcyc = c.taskcyc + 1 ∧ e.xclk = c.xclk + 1 ∧ e.quantum = c.quantum + 1 ∧ e.frzcyc = c.frzcyc ∧ e.ovrcyc = c.ovrcyc ∧ e.semP = [] ∧ e.engP = [] ∧ e.kP = [] ∧
     e.s = c.s ∧ e.p = c.p ∧ e.c = c.c ∧ e.m = c.m ∧ e.x = c.x ∧ e.v = c.v ∧ e.me = c.me ∧ e.pe = c.pe ∧ e.xe = c.xe ∧
     e.frz = c.frz ∧ e.flt = c.flt ∧ e.task = c.task ∧
     (∀ n < 16, let v := (c.sem.get 0 n).toNat
        let got := ((c.semP.filter fun r => r.sem == n).map (·.n)).sum + (c.engP.filter fun r => r.1 == n).length
        v + got ≤ 255 → (e.sem.get 0 n).toNat = v + got) ∧
     ∀ k v, c.kP = [(k, v)] → ∀ n, e.k.get 0 n = if n = k then v else c.k.get 0 n)

/-- An input that has come, else an event that is due, runs through exec, an engine's completion and a piece of SEND that lands in the
turn of their cluster; a stream's bundle that decodes and meets no hazard runs
its instructions through exec, in ascending position, and retires; with no event due, the turn of a cluster whose streams' bundles
all issue so ends with their effects, as one logical cycle, and then those of the pair engine's unit whose last cycle it was (R26,
R29, R41, R457; logs 9 and 10).
Where the spec is open it states the model's own reading (log 1). -/
def Obligations.StepRunsDecodedInstruction : Prop :=
  ∀ s : State,
    (∀ i l, s.inputs = i :: l → step s = exec i { s with inputs := l }) ∧
    (∀ i s1, s.inputs = [] → s.moduleDue = some (i, s1) → step s = exec i s1) ∧
    (∀ (st : Str) (l : List (Nat × Instr)), st ≠ .v →
      let pc := (s.cl.str st).pc.toNat
      let ws := s.bundleAt st pc
      s.badRead (s.fetchAddr st pc) (4 * ws.length) = none → (s.sylAt st pc).testBit 31 = true → decodeBundle st ws = .ok l →
      (∀ e ∈ l, ∀ chg rep, e.2 ≠ .mhdr chg rep) → s.decoded st = .ok { len := ws.length, parts := l }) ∧
    (∀ i, let a := s.fetchAddr .v s.cl.v.pc.toNat
      s.badRead a 2 = none → decodeV (s.rdLE a 2) = some i → s.decoded .v = .ok { len := 1, parts := [(5, i)] }) ∧
    (∀ (st : Str) (b : Bun) (later : SMap Nat) (ret : BitVec 4) (at_ : Nat → State),
      (s.cl.str st).live s.cyc = true → s.decoded st = .ok b → flowClash (b.parts.map (·.2)) = false →
      usesClash (s.usesHere st b) = false → (s.issueUses st b).all ((s.cl.str st).clear s.cyc) = true →
      at_ 0 = s.enter st b later ret →
      (∀ k x, b.parts[k]? = some x →
        exec x.2 { at_ k with ctx := { (at_ k).ctx with pos := x.1, trap := none } } = .next (at_ (k + 1)) ∧
        (at_ (k + 1)).ctx.trap = none) →
      (at_ b.parts.length).ctx.wait = false → ∃ ws, s.issue st later ret = .done ((at_ b.parts.length).finish st b ws)) ∧
    (∀ l a b c d, s.inputs = [] → s.moduleDue = none → s.turns = s.cur :: l → s.cl.task ≠ none → s.cl.frz.hard = false →
      s.cl.frz.held = false → s.outerDue = none → s.lateCycle = false → s.cl.splitLeft = 0 → s.splitLen < 2 → tickMatrix s.cyc s = (s, none) →
      s.engineDue = none → s.arrived = none → s.cl.ve.lent = 0 →
      let s0 : State := { s with
        turns := l, cl := { s.cl with splitLeft := 0, frz := { s.cl.frz with throttle := false } }
        ctx := { s.ctx with satte := some s.cl.me.satte } }
      s0.issue .c noOverflow 0 = .done a → a.issue .m noOverflow 0 = .done b → b.issue .x noOverflow 0 = .done c →
      c.issue .v noOverflow 0 = .done d → d.cl.overflows = false → d.cl.late = false → d.cl.engOverflow = none →
      let u : State := { d with ctx := {}, cl := { d.cl.endCycle with frz := { d.cl.frz with overrun := false } } }
      let v : State := { u with cl := { u.cl with frz := { u.cl.frz with held := u.atEnd u.cl } } }
      step s = if v.peActs v.cyc then (match exec .peBlock v with
        | .next w => .next { w with cl := { w.cl with setNow := [] } }
        | o => o) else .next v) ∧
    (∀ l m, s.inputs = [] → s.moduleDue = none → s.turns = s.cur :: l → s.cl.task ≠ none → s.cl.frz.hard = false →
      s.cl.frz.held = false → s.outerDue = none → s.cl.splitLeft < 2 → tickMatrix s.cyc s = (s, none) →
      (∀ i, s.lateCycle = false → s.engineDue = some i → step s = exec i s) ∧
      (s.engineDue = none → s.arrived = some m → step s = exec (.sendMessage m) { s with net := s.net.erase m }))

/-- The encodings that the spec writes out in its examples (04, 05 R163, 06, 08, 09, 10, 12, 14), and that of R117, decode to the
instructions that stand beside them there. -/
def Obligations.DecodedWords : Prop :=
  decodeBundle .c [0x9828A010, 0x16345678, 0x1E000246] =
    .ok [(0, .iadd 5 5 ⟨16, []⟩), (1, .imov 6 ⟨0x45678, [0x246]⟩)] ∧
  decodeSyl .c 0x8A802004 [] = .ok (.loopImm 0 ⟨8, []⟩ 4) ∧ decodeSyl .c 0xBA203000 [] = .ok (.ldw 4 1 ⟨0, []⟩ 0) ∧
  decodeSyl .c 0xA0186200 [] = .ok (.add 3 3 4 0) ∧ decodeSyl .c 0xBC182800 [] = .ok (.stw 3 1 ⟨0, []⟩ 0) ∧
  decodeSyl .c 0x82000000 [] = .ok .endStream ∧ decodeSyl .c 0xB8800200 [] = .ok (.jal 4 0) ∧
  decodeSyl .c 0xC1010018 [] = .ok (.kwr 1 24) ∧ decodeSyl .c 0xAA802040 [] = .ok (.shli 16 1 2 0) ∧
  decodeSyl .m 0x92A02000 [] = .ok (.semw 5 1) ∧
  decodeBundle .m [0xA1400000, 0x2411F800, 0x1E004000, 0x34080024] =
    .ok [(0, .mhdr 0b1010000 0), (1, .wcode 2 63 32), (3, .mcfg 0 (.imm 0x24))] ∧
  decodeBundle .m [0xA06000C0, 0x36000782, 0x1E003E00, 0x3C200000] =
    .ok [(0, .mhdr 0b0011000 3), (1, .pass 0 0 15 1 31), (3, .drn 4 0 0 0 0 0 0)] ∧
  decodeBundle .m [0xA0080000, 0x4C290000, 0x1E002002] = .ok [(0, .mhdr 0b0000010 0), (1, .psets 5 0 1 0 0 1 1)] ∧
  decodeBundle .x [0xB2001000, 0x32102000] = .ok [(0, .shw 0 0 1), (1, .shw 1 0 2)] ∧
  decodeSyl .x 0xA0197800 [] = .ok (.copy 0 3 2 1 7 ⟨0, []⟩) ∧ decodeSyl .x 0xB0038000 [] = .ok (.xwait 0 7) ∧
  decodeV 0x02B8 = some (.vInstruction 5 3 1 0) ∧
  (let h := splitHcw 0xFF15010400000001109453551300000000000000000000000000000000000000
   h.gen = 0xFF ∧ h.vl = 0 ∧ h.vx = 0 ∧ h.vc = 0 ∧
   decodeSlot 0 h.va = .ok (some (.addi, { vd := 2, va := 2, imm := 1 })) ∧
   decodeSlot 1 h.vb = .ok (some (.fma, { fmt := 4, vd := 40, va := 41, vb := 42, vc := 40, mu := 1, ms := 3 })))

/-- Decoding the syllables of any well-formed instruction of C, M and X gives it back, with the bundle bit 0 or 1. -/
def Obligations.EncodeDecodeSyllables : Prop :=
  ∀ (st : Str) (i : Instr), st ≠ .v → wellFormed st i = true → streamOf i ≠ none →
    ∃ w l, encode i = some (w :: l) ∧ ∀ b < 2,
      let ext := l.map (BitVec.ofNat 25)
      decodeSyl st (w + b * 2 ^ 31) ext = .ok i ∨
        (st = .m ∧ ∃ u, decodeSub u (w + b * 2 ^ 31) (ext.headD 0).toNat = .ok i)

/-- Decoding the word of any well-formed V instruction, VC operation or slot operation gives it back, with its slot's fields. -/
def Obligations.EncodeDecodeVector : Prop :=
  ∀ (i : Instr) (f : SlotF) (h : BitVec 9) (r j reg cls : BitVec 3) (o st l : BitVec 1) (o17 : BitVec 17) (cnd k : BitVec 2)
    (o13 : BitVec 13) (src : VLoopSrc) (e n : BitVec 8) (n5 : BitVec 5) (m : BitVec 4) (o10 : BitVec 10) (vd : BitVec 6)
    (c : BitVec 16),
    let vc (i : Instr) : Prop := wellFormed .v i = true → ∃ w, encode i = some [w] ∧ decodeVC w = .ok (some i)
    (slotWellFormed i f = true → ∃ w, encode i = some [w] ∧ ∃ p < 4, decodeSlot p (w + slotWord 0 f) = .ok (some (i, f))) ∧
    (∃ w, encode (.vInstruction h r o st) = some [w] ∧ decodeV w = some (.vInstruction h r o st)) ∧
    vc .vend ∧ vc (.vbr o17) ∧ vc (.vbrm j cnd o13) ∧ vc (.vloop l src e) ∧ vc (.vlwr reg n5) ∧ vc (.vsemp m n) ∧
    vc (.vsemw m n) ∧ vc (.vgate cls n5 o10) ∧ vc .vmark ∧ vc (.blend k) ∧ vc (.bret k) ∧ vc (.statrx vd) ∧ vc (.vbrk c)

/-- No step breaks the canonical form of memory: addresses strictly rising, no listed byte equal to what an unlisted one reads. -/
def Obligations.StepKeepsMemory : Prop :=
  ∀ s t : State, s.memOk → step s = .next t → t.memOk

/-- R430: at reset no byte of memory is listed, no die answers, no port has trained, no task or job is present, no power-up
event has come; counters, semaphores and MTIME are 0. Registers with no reset value in the spec read 0 by the model's choice
(logs 2, 20 to 26).
Where the spec is open it states the model's own reading (log 4). -/
def Obligations.ResetState : Prop :=
  let r := State.reset
  r.memOk ∧ r.mem = [] ∧ r.boot.bstate = 0 ∧ r.port0.trained = false ∧ r.port1.trained = false ∧ r.jobs = [] ∧ r.inputs = [] ∧
  r.mtime = 0 ∧ r.turns = [] ∧ (∀ d, (r.die d).present = false) ∧
  ∀ k, let c := r.cluster k
    c.task = none ∧ c.taskcyc = 0 ∧ c.frzcyc = 0 ∧ c.ovrcyc = 0 ∧ c.flt.valid = false ∧ (∀ n, c.sem.get 0 n = 0) ∧
    (∀ n, c.s.get 0 n = 0) ∧ (∀ n, c.k.get 0 n = 0) ∧ c.ve.flags = 0 ∧ c.me.pass = none ∧ c.pe.job = none ∧
    ∀ n, (c.chan n).q = []

/-- The model's time (log 25): a clock cycle at FCUR MHz adds whole nanoseconds to MTIME and keeps the rest, so that f cycles
add 1,000 exactly; nothing else of the task's state changes. -/
def Obligations.ModuleTime : Prop :=
  ∀ s : State, 0 < s.freq.fcur.toNat →
    let t := s.tickTime
    let f := s.freq.fcur.toNat
    t.clk = s.clk + 1 ∧ t.nsAcc < f ∧
    (∃ n, t.mtime = s.mtime + .ofNat 64 n ∧ n * f + t.nsAcc = s.nsAcc + 1000 ∧
      t.opns = if s.boot.bstate = 5 then s.opns + n else s.opns) ∧
    t.cl = s.cl ∧ t.mem = s.mem ∧ t.freq = s.freq
end

