-- ==== Sys2Proof/Laws/Word.lean ====
section
/-! SUPPORT. Reading after writing a sparse file, and that its canonical form is kept. -/
namespace Sys2Proof

variable {α : Type}

@[simp] theorem SMap.get_nil (d : α) (k : Nat) : SMap.get d ([] : SMap α) k = d := rfl

@[simp] theorem SMap.get_cons (d : α) (a k : Nat) (v : α) (t : SMap α) :
    SMap.get d ((a, v) :: t) k = if a = k then v else SMap.get d t k := rfl

theorem SMap.get_append (d : α) (l m : SMap α) (k : Nat) :
    SMap.get d (l ++ m) k = if k ∈ l.map (·.1) then SMap.get d l k else SMap.get d m k := by
  induction l with
  | nil => simp
  | cons e t ih =>
    obtain ⟨a, v⟩ := e
    by_cases h : a = k
    · simp [h]
    · have h' : ¬ k = a := fun c => h c.symm
      simp only [List.cons_append, SMap.get_cons, if_neg h, ih, List.map_cons, List.mem_cons, h', false_or]

theorem SMap.get_of_not_mem (d : α) (m : SMap α) (k : Nat) (h : k ∉ m.map (·.1)) : SMap.get d m k = d := by
  induction m with
  | nil => rfl
  | cons e t ih =>
    obtain ⟨a, v⟩ := e
    simp only [List.map_cons, List.mem_cons, not_or] at h
    rw [SMap.get_cons, if_neg (fun c : a = k => h.1 c.symm), ih h.2]

/-- A filter on numbers keeps what the numbers it keeps hold. -/
theorem SMap.get_filter (d : α) (p : Nat → Bool) (m : SMap α) (k : Nat) :
    SMap.get d (m.filter fun e => p e.1) k = if p k then SMap.get d m k else d := by
  induction m with
  | nil => simp
  | cons e t ih =>
    obtain ⟨a, v⟩ := e
    by_cases h : a = k
    · subst h
      cases hp : p a <;> simp_all
    · cases hp : p a <;> simp [hp, h, ih]

@[simp] theorem SMap.get_erase (d : α) (m : SMap α) (k n : Nat) :
    SMap.get d (m.erase k) n = if n = k then d else SMap.get d m n := by
  unfold SMap.erase
  rw [SMap.get_filter d (fun a => !(a == k))]
  by_cases h : n = k <;> simp [h]

theorem SMap.get_insert (d : α) (m : SMap α) (k n : Nat) (v : α) (h : k ∉ m.map (·.1)) :
    SMap.get d (SMap.insert k v m) n = if n = k then v else SMap.get d m n := by
  induction m with
  | nil => simp [SMap.insert, eq_comm]
  | cons e t ih =>
    obtain ⟨a, w⟩ := e
    simp only [List.map_cons, List.mem_cons, not_or] at h
    unfold SMap.insert
    by_cases hk : k < a
    · simp [hk, eq_comm]
    · simp only [hk, if_false, SMap.get_cons, ih h.2]
      by_cases ha : a = n
      · have hn : ¬ n = k := fun c => h.1 (by rw [← c, ha])
        simp [ha, hn]
      · simp [ha]

theorem SMap.not_mem_erase (m : SMap α) (k : Nat) : k ∉ (m.erase k).map (·.1) := by
  simp [SMap.erase]

/-- A write is read back, and leaves every other number alone. -/
@[simp] theorem SMap.get_set [DecidableEq α] (d : α) (m : SMap α) (k n : Nat) (v : α) :
    SMap.get d (SMap.set d m k v) n = if n = k then v else SMap.get d m n := by
  unfold SMap.set
  by_cases h : v = d
  · by_cases hn : n = k <;> simp [h, hn]
  · rw [if_neg h, SMap.get_insert d _ k n v (SMap.not_mem_erase m k)]
    by_cases hn : n = k <;> simp [hn]

/-! The canonical form. -/

theorem SMap.wf_iff [DecidableEq α] (d : α) (m : SMap α) :
    SMap.wf d m = true ↔ (m.map (·.1)).Pairwise (· < ·) ∧ ∀ e ∈ m, e.2 ≠ d := by
  induction m with
  | nil => simp [SMap.wf]
  | cons e t ih =>
    obtain ⟨a, v⟩ := e
    cases t with
    | nil => simp [SMap.wf]
    | cons f t =>
      obtain ⟨b, w⟩ := f
      simp only [SMap.wf, Bool.and_eq_true, decide_eq_true_eq, Bool.not_eq_true', decide_eq_false_iff_not, ih]
      simp only [List.map_cons, List.pairwise_cons, List.mem_cons, List.mem_map]
      constructor
      · rintro ⟨⟨hab, hv⟩, ⟨hb, hp⟩, hd⟩
        refine ⟨⟨?_, hb, hp⟩, ?_⟩
        · rintro x (rfl | hx)
          · exact hab
          · exact Nat.lt_trans hab (hb x hx)
        · rintro e (rfl | he)
          · exact hv
          · exact hd e (by simpa using he)
      · rintro ⟨⟨ha, hb, hp⟩, hd⟩
        exact ⟨⟨ha b (Or.inl rfl), hd (a, v) (Or.inl rfl)⟩, ⟨hb, hp⟩, fun e he => hd e (Or.inr (by simpa using he))⟩

theorem SMap.wf_filter [DecidableEq α] (d : α) (p : Nat × α → Bool) (m : SMap α) (h : SMap.wf d m = true) :
    SMap.wf d (m.filter p) = true := by
  rw [SMap.wf_iff] at h ⊢
  refine ⟨?_, fun e he => h.2 e (List.mem_filter.1 he).1⟩
  exact List.Pairwise.sublist ((List.filter_sublist).map _) h.1

theorem SMap.mem_insert (k : Nat) (v : α) (m : SMap α) (e : Nat × α) (h : e ∈ SMap.insert k v m) : e = (k, v) ∨ e ∈ m := by
  induction m with
  | nil => simpa [SMap.insert] using h
  | cons f t ih =>
    obtain ⟨a, w⟩ := f
    unfold SMap.insert at h
    split at h
    · simpa using h
    · simp only [List.mem_cons] at h ⊢
      rcases h with h | h
      · exact Or.inr (Or.inl h)
      · exact (ih h).imp_right Or.inr

theorem SMap.wf_insert [DecidableEq α] (d : α) (k : Nat) (v : α) (m : SMap α) (hv : v ≠ d)
    (h : SMap.wf d m = true) (hk : k ∉ m.map (·.1)) : SMap.wf d (SMap.insert k v m) = true := by
  rw [SMap.wf_iff] at h ⊢
  refine ⟨?_, ?_⟩
  · obtain ⟨h, -⟩ := h
    induction m with
    | nil => simp [SMap.insert]
    | cons e t ih =>
      obtain ⟨a, w⟩ := e
      simp only [List.map_cons, List.pairwise_cons, List.mem_cons, not_or] at h hk
      unfold SMap.insert
      by_cases hka : k < a
      · simp only [hka, if_true, List.map_cons, List.pairwise_cons, List.mem_cons]
        refine ⟨?_, h⟩
        rintro x (rfl | hx)
        · exact hka
        · exact Nat.lt_trans hka (h.1 x hx)
      · simp only [hka, if_false, List.map_cons, List.pairwise_cons]
        refine ⟨?_, ih hk.2 h.2⟩
        intro x hx
        obtain ⟨e, he, rfl⟩ := List.mem_map.1 hx
        rcases SMap.mem_insert k v t e he with rfl | he
        · have : k ≠ a := hk.1
          show a < k
          omega
        · exact h.1 e.1 (List.mem_map_of_mem he)
  · intro e he
    rcases SMap.mem_insert k v m e he with rfl | he
    · exact hv
    · exact h.2 e he

/-- A write keeps the canonical form. -/
theorem SMap.wf_set [DecidableEq α] (d : α) (m : SMap α) (k : Nat) (v : α) (h : SMap.wf d m = true) :
    SMap.wf d (SMap.set d m k v) = true := by
  unfold SMap.set
  have he : SMap.wf d (m.erase k) = true := SMap.wf_filter d _ m h
  split
  · exact he
  · exact SMap.wf_insert d k v _ ‹_› he (SMap.not_mem_erase m k)

theorem SMap.wf_append [DecidableEq α] (d : α) (l m : SMap α) (hl : SMap.wf d l = true) (hm : SMap.wf d m = true)
    (h : ∀ e ∈ l, ∀ f ∈ m, e.1 < f.1) : SMap.wf d (l ++ m) = true := by
  rw [SMap.wf_iff] at hl hm ⊢
  refine ⟨?_, ?_⟩
  · rw [List.map_append, List.pairwise_append]
    refine ⟨hl.1, hm.1, ?_⟩
    intro a ha b hb
    obtain ⟨e, he, rfl⟩ := List.mem_map.1 ha
    obtain ⟨f, hf, rfl⟩ := List.mem_map.1 hb
    exact h e he f hf
  · intro e he
    rcases List.mem_append.1 he with he | he
    · exact hl.2 e he
    · exact hm.2 e he

end Sys2Proof
end

