-- ==== Sys2Proof/Laws/Memory.lean ====
section
/-! SUPPORT. Memory: what a read gives after a write, and that every memory operation keeps the canonical form. -/
namespace Sys2Proof.Machine

@[simp] theorem bytesOf_length (v n : Nat) : (bytesOf v n).length = n := by
  induction n generalizing v with
  | zero => rfl
  | succ n ih => simp [bytesOf, ih]

theorem listed_keys (a : Nat) (l : List Byte) : ∀ e ∈ listed a l, a ≤ e.1 ∧ e.1 < a + l.length := by
  induction l generalizing a with
  | nil => simp [listed]
  | cons b t ih =>
    intro e he
    unfold listed at he
    split at he
    · have := ih (a + 1) e he
      simp only [List.length_cons]
      omega
    · rcases List.mem_cons.1 he with rfl | he
      · simp
      · have := ih (a + 1) e he
        simp only [List.length_cons]
        omega

theorem listed_get (a : Nat) (l : List Byte) (x : Nat) :
    SMap.get 0 (listed a l) x = if a ≤ x ∧ x < a + l.length then l.getD (x - a) 0 else 0 := by
  induction l generalizing a with
  | nil => simp [listed]
  | cons b t ih =>
    have step : SMap.get 0 (listed a (b :: t)) x = if a = x then b else SMap.get 0 (listed (a + 1) t) x := by
      rw [listed]
      by_cases hb : b = 0
      · rw [if_pos hb]
        by_cases hx : a = x
        · rw [if_pos hx, hb, SMap.get_of_not_mem]
          intro hm
          obtain ⟨e, he, hk⟩ := List.mem_map.1 hm
          have := (listed_keys (a + 1) t e he).1
          omega
        · rw [if_neg hx]
      · rw [if_neg hb, SMap.get_cons]
    rw [step, ih]
    by_cases hx : a = x
    · subst hx
      simp
    · rw [if_neg hx]
      by_cases h : a + 1 ≤ x ∧ x < a + 1 + t.length
      · have h2 : a ≤ x ∧ x < a + (b :: t).length := by simp only [List.length_cons]; omega
        rw [if_pos h, if_pos h2]
        have : x - a = (x - (a + 1)) + 1 := by omega
        rw [this, List.getD_cons_succ]
      · have h2 : ¬ (a ≤ x ∧ x < a + (b :: t).length) := by simp only [List.length_cons]; omega
        rw [if_neg h, if_neg h2]

theorem listed_wf (a : Nat) (l : List Byte) : Memory.wf (listed a l) = true := by
  induction l generalizing a with
  | nil => rfl
  | cons b t ih =>
    unfold listed
    split
    · exact ih (a + 1)
    · rename_i hb
      refine SMap.wf_append 0 [(a, b)] (listed (a + 1) t) (by simpa [SMap.wf] using hb) (ih (a + 1)) ?_
      intro e he f hf
      have := listed_keys (a + 1) t f hf
      simp only [List.mem_singleton] at he
      subst he
      show a < f.1
      omega

theorem memWrBytes_get (m : SMap Byte) (a : Nat) (l : List Byte) (x : Nat) :
    SMap.get 0 (memWrBytes m a l) x = if a ≤ x ∧ x < a + l.length then l.getD (x - a) 0 else SMap.get 0 m x := by
  have keys : ∀ p : Nat → Bool, x ∈ (m.filter fun e => p e.1).map (·.1) → p x = true := by
    intro p h
    obtain ⟨e, he, rfl⟩ := List.mem_map.1 h
    exact (List.mem_filter.1 he).2
  unfold memWrBytes
  rw [List.append_assoc, SMap.get_append]
  split
  · have := keys (fun n => decide (n < a)) (by assumption)
    simp only [decide_eq_true_eq] at this
    rw [SMap.get_filter 0 (fun n => decide (n < a)), if_pos (by simpa using this), if_neg (by omega)]
  · rename_i h1
    rw [SMap.get_append]
    split
    · rename_i h2
      obtain ⟨e, he, rfl⟩ := List.mem_map.1 h2
      have := listed_keys a l e he
      rw [listed_get, if_pos this, if_pos this]
    · rename_i h2
      rw [SMap.get_filter 0 (fun n => decide (a + l.length ≤ n))]
      by_cases hin : a ≤ x ∧ x < a + l.length
      · have hz := listed_get a l x
        rw [SMap.get_of_not_mem 0 _ x h2, if_pos hin] at hz
        rw [if_pos hin, if_neg (by simp; omega)]
        exact hz
      · rw [if_neg hin]
        by_cases hx : a + l.length ≤ x
        · simp [hx]
        · have hlt : x < a := by omega
          rw [if_neg (by simp [hx])]
          have hn := h1
          have hg := SMap.get_filter 0 (fun n => decide (n < a)) m x
          rw [SMap.get_of_not_mem 0 _ x h1] at hg
          simpa [hlt] using hg

/-- A byte read after a write of bytes. -/
theorem rd8_wrBytes (s : State) (a : Nat) (l : List Byte) (x : Nat) :
    (s.wrBytes a l).rd8 x = if a ≤ x ∧ x < a + l.length then l.getD (x - a) 0 else s.rd8 x :=
  memWrBytes_get s.mem a l x

theorem rd8_wr8 (s : State) (a : Nat) (v : Byte) (x : Nat) : (s.wr8 a v).rd8 x = if x = a then v else s.rd8 x :=
  SMap.get_set 0 s.mem a x v

theorem rd8_wrZero (s : State) (a n x : Nat) :
    (s.wrZero a n).rd8 x = if a ≤ x ∧ x < a + n then 0 else s.rd8 x := by
  unfold State.wrZero State.rd8
  simp only
  rw [SMap.get_filter 0 (fun k => !(decide (a ≤ k) && decide (k < a + n)))]
  by_cases h : a ≤ x ∧ x < a + n
  · simp [h]
  · rw [if_neg h, if_pos]
    simp only [Bool.not_eq_true', Bool.and_eq_false_iff, decide_eq_false_iff_not]
    omega

/-- Two states with the same memory read alike. -/
theorem rd8_congr {s t : State} (h : t.mem = s.mem) (a : Nat) : t.rd8 a = s.rd8 a := by
  unfold State.rd8
  rw [h]

theorem rdLE_congr {s t : State} (a n : Nat) (h : ∀ x, a ≤ x → x < a + n → t.rd8 x = s.rd8 x) :
    t.rdLE a n = s.rdLE a n := by
  induction n generalizing a with
  | zero => rfl
  | succ n ih =>
    unfold State.rdLE
    rw [h a (Nat.le_refl a) (by omega), ih (a + 1) (fun x h1 h2 => h x (by omega) (by omega))]

theorem rdLE_lt (s : State) (a n : Nat) : s.rdLE a n < 2 ^ (8 * n) := by
  induction n generalizing a with
  | zero => simp [State.rdLE]
  | succ n ih =>
    have h1 := ih (a + 1)
    have h2 := (s.rd8 a).isLt
    have h3 : 2 ^ (8 * (n + 1)) = 2 ^ (8 * n) * 256 := by rw [Nat.mul_add, Nat.pow_add]
    rw [h3]
    unfold State.rdLE
    omega

/-- A number's bytes read back as its low bytes. -/
theorem rdLE_of_bytes (s : State) (a v n : Nat)
    (h : ∀ k, k < n → s.rd8 (a + k) = (bytesOf v n).getD k 0) : s.rdLE a n = v % 2 ^ (8 * n) := by
  induction n generalizing a v with
  | zero => simp [State.rdLE, Nat.mod_one]
  | succ n ih =>
    have h0 := h 0 (by omega)
    simp only [Nat.add_zero, bytesOf, List.getD_cons_zero] at h0
    have ht := ih (a + 1) (v / 256) (fun k hk => by
      have := h (k + 1) (by omega)
      rw [show a + 1 + k = a + (k + 1) by omega, this]
      simp [bytesOf])
    have h3 : 2 ^ (8 * (n + 1)) = 256 * 2 ^ (8 * n) := by rw [Nat.mul_add, Nat.pow_add, Nat.mul_comm]
    unfold State.rdLE
    rw [h0, ht, h3, Nat.mod_mul]
    simp

theorem rdLE_wrLE (s : State) (a n v : Nat) : (s.wrLE a n v).rdLE a n = v % 2 ^ (8 * n) := by
  refine rdLE_of_bytes _ a v n fun k hk => ?_
  unfold State.wrLE
  rw [rd8_wrBytes, if_pos (by simp; omega)]
  simp

/-! The canonical form. -/

theorem wr8_wf (s : State) (a : Nat) (v : Byte) (h : Memory.wf s.mem = true) : Memory.wf (s.wr8 a v).mem = true :=
  SMap.wf_set 0 s.mem a v h

theorem memWrBytes_wf (m : SMap Byte) (a : Nat) (l : List Byte) (h : Memory.wf m = true) :
    Memory.wf (memWrBytes m a l) = true := by
  have f1 : Memory.wf (m.filter fun e => decide (e.1 < a)) = true := SMap.wf_filter 0 _ m h
  have f2 : Memory.wf (m.filter fun e => decide (a + l.length ≤ e.1)) = true := SMap.wf_filter 0 _ m h
  have up : ∀ e ∈ m.filter fun e => decide (a + l.length ≤ e.1), a + l.length ≤ e.1 :=
    fun e he => by simpa using (List.mem_filter.1 he).2
  have lo : ∀ e ∈ m.filter fun e => decide (e.1 < a), e.1 < a := fun e he => by simpa using (List.mem_filter.1 he).2
  refine SMap.wf_append 0 _ _ (SMap.wf_append 0 _ _ f1 (listed_wf a l) ?_) f2 ?_
  · intro e he f hf
    exact Nat.lt_of_lt_of_le (lo e he) (listed_keys a l f hf).1
  · intro e he f hf
    rcases List.mem_append.1 he with he | he
    · exact Nat.lt_of_lt_of_le (lo e he) (Nat.le_trans (Nat.le_add_right a l.length) (up f hf))
    · exact Nat.lt_of_lt_of_le (listed_keys a l e he).2 (up f hf)

theorem wrBytes_wf (s : State) (a : Nat) (l : List Byte) (h : Memory.wf s.mem = true) :
    Memory.wf (s.wrBytes a l).mem = true := memWrBytes_wf s.mem a l h

theorem wrZero_wf (s : State) (a n : Nat) (h : Memory.wf s.mem = true) : Memory.wf (s.wrZero a n).mem = true :=
  SMap.wf_filter 0 _ s.mem h

@[simp] theorem clearBad_mem (s : State) (a n : Nat) : (s.clearBad a n).mem = s.mem := rfl

@[simp] theorem setCluster_mem (s : State) (k : Nat) (c : Cluster) : (s.setCluster k c).mem = s.mem := by
  unfold State.setCluster
  split <;> rfl

@[simp] theorem clearTags_mem (s : State) (a n : Nat) : (s.clearTags a n).mem = s.mem := by
  unfold State.clearTags
  simp only
  split
  · exact setCluster_mem _ _ _
  · rfl

/-- A store at its home changes the bytes it covers and no other. -/
theorem rd8_store (s : State) (a : Nat) (l : List Byte) (x : Nat) :
    (s.store a l).rd8 x = if a ≤ x ∧ x < a + l.length then l.getD (x - a) 0 else s.rd8 x := by
  rw [← rd8_wrBytes]
  exact rd8_congr (by simp [State.store]) x

theorem rd8_storeZero (s : State) (a n x : Nat) :
    (s.storeZero a n).rd8 x = if a ≤ x ∧ x < a + n then 0 else s.rd8 x := by
  rw [← rd8_wrZero]
  exact rd8_congr (by simp [State.storeZero]) x

theorem store_wf (s : State) (a : Nat) (l : List Byte) (h : Memory.wf s.mem = true) :
    Memory.wf (s.store a l).mem = true := by
  simpa [State.store] using wrBytes_wf s a l h

theorem storeZero_wf (s : State) (a n : Nat) (h : Memory.wf s.mem = true) : Memory.wf (s.storeZero a n).mem = true := by
  simpa [State.storeZero] using wrZero_wf s a n h

end Sys2Proof.Machine
end

