-- ==== Sys2Proof/Laws/State.lean ====
section
/-! SUPPORT. What each named update of the state leaves in each field. -/
namespace Sys2Proof.Machine

/-! setS -/

@[simp] theorem setS_mem (s : State) (r : Nat) (v : Word64) : (s.setS r v).mem = s.mem := by unfold State.setS; split <;> rfl
@[simp] theorem setS_bad (s : State) (r : Nat) (v : Word64) : (s.setS r v).bad = s.bad := by unfold State.setS; split <;> rfl
@[simp] theorem setS_cur (s : State) (r : Nat) (v : Word64) : (s.setS r v).cur = s.cur := by unfold State.setS; split <;> rfl
@[simp] theorem setS_park (s : State) (r : Nat) (v : Word64) : (s.setS r v).park = s.park := by unfold State.setS; split <;> rfl
@[simp] theorem setS_dies (s : State) (r : Nat) (v : Word64) : (s.setS r v).dies = s.dies := by unfold State.setS; split <;> rfl
@[simp] theorem setS_jobs (s : State) (r : Nat) (v : Word64) : (s.setS r v).jobs = s.jobs := by unfold State.setS; split <;> rfl
@[simp] theorem setS_ctx (s : State) (r : Nat) (v : Word64) : (s.setS r v).ctx = s.ctx := by unfold State.setS; split <;> rfl
@[simp] theorem setS_turns (s : State) (r : Nat) (v : Word64) : (s.setS r v).turns = s.turns := by unfold State.setS; split <;> rfl
@[simp] theorem setS_clk (s : State) (r : Nat) (v : Word64) : (s.setS r v).clk = s.clk := by unfold State.setS; split <;> rfl
@[simp] theorem setS_mtime (s : State) (r : Nat) (v : Word64) : (s.setS r v).mtime = s.mtime := by unfold State.setS; split <;> rfl
@[simp] theorem setS_nsAcc (s : State) (r : Nat) (v : Word64) : (s.setS r v).nsAcc = s.nsAcc := by unfold State.setS; split <;> rfl
@[simp] theorem setS_net (s : State) (r : Nat) (v : Word64) : (s.setS r v).net = s.net := by unfold State.setS; split <;> rfl
@[simp] theorem setS_wire (s : State) (r : Nat) (v : Word64) : (s.setS r v).wire = s.wire := by unfold State.setS; split <;> rfl
@[simp] theorem setS_claims (s : State) (r : Nat) (v : Word64) : (s.setS r v).claims = s.claims := by unfold State.setS; split <;> rfl
@[simp] theorem setS_hold (s : State) (r : Nat) (v : Word64) : (s.setS r v).hold = s.hold := by unfold State.setS; split <;> rfl
@[simp] theorem setS_inputs (s : State) (r : Nat) (v : Word64) : (s.setS r v).inputs = s.inputs := by unfold State.setS; split <;> rfl
@[simp] theorem setS_boot (s : State) (r : Nat) (v : Word64) : (s.setS r v).boot = s.boot := by unfold State.setS; split <;> rfl
@[simp] theorem setS_port0 (s : State) (r : Nat) (v : Word64) : (s.setS r v).port0 = s.port0 := by unfold State.setS; split <;> rfl
@[simp] theorem setS_port1 (s : State) (r : Nat) (v : Word64) : (s.setS r v).port1 = s.port1 := by unfold State.setS; split <;> rfl
@[simp] theorem setS_irqs (s : State) (r : Nat) (v : Word64) : (s.setS r v).irqs = s.irqs := by unfold State.setS; split <;> rfl
@[simp] theorem setS_answers (s : State) (r : Nat) (v : Word64) : (s.setS r v).answers = s.answers := by unfold State.setS; split <;> rfl
@[simp] theorem setS_freq (s : State) (r : Nat) (v : Word64) : (s.setS r v).freq = s.freq := by unfold State.setS; split <;> rfl
@[simp] theorem setS_gaddr (s : State) (r : Nat) (v : Word64) : (s.setS r v).gaddr = s.gaddr := by unfold State.setS; split <;> rfl
@[simp] theorem setS_goven (s : State) (r : Nat) (v : Word64) : (s.setS r v).goven = s.goven := by unfold State.setS; split <;> rfl
@[simp] theorem setS_opns (s : State) (r : Nat) (v : Word64) : (s.setS r v).opns = s.opns := by unfold State.setS; split <;> rfl
@[simp] theorem setS_uvMet (s : State) (r : Nat) (v : Word64) : (s.setS r v).uvMet = s.uvMet := by unfold State.setS; split <;> rfl
@[simp] theorem setS_images (s : State) (r : Nat) (v : Word64) : (s.setS r v).images = s.images := by unfold State.setS; split <;> rfl
@[simp] theorem setS_stretch (s : State) (r : Nat) (v : Word64) : (s.setS r v).stretch = s.stretch := by unfold State.setS; split <;> rfl
@[simp] theorem setS_narrowed (s : State) (r : Nat) (v : Word64) : (s.setS r v).narrowed = s.narrowed := by unfold State.setS; split <;> rfl
@[simp] theorem setS_soRx (s : State) (r : Nat) (v : Word64) : (s.setS r v).soRx = s.soRx := by unfold State.setS; split <;> rfl
@[simp] theorem setS_soTx (s : State) (r : Nat) (v : Word64) : (s.setS r v).soTx = s.soTx := by unfold State.setS; split <;> rfl
@[simp] theorem setS_soIn (s : State) (r : Nat) (v : Word64) : (s.setS r v).soIn = s.soIn := by unfold State.setS; split <;> rfl
@[simp] theorem setS_soOut (s : State) (r : Nat) (v : Word64) : (s.setS r v).soOut = s.soOut := by unfold State.setS; split <;> rfl
@[simp] theorem setS_fresh (s : State) (r : Nat) (v : Word64) : (s.setS r v).fresh = s.fresh := by unfold State.setS; split <;> rfl
@[simp] theorem setS_cl_task (s : State) (r : Nat) (v : Word64) : (s.setS r v).cl.task = s.cl.task := by unfold State.setS; split <;> rfl
@[simp] theorem setS_cl_locked (s : State) (r : Nat) (v : Word64) : (s.setS r v).cl.locked = s.cl.locked := by unfold State.setS; split <;> rfl
@[simp] theorem setS_cl_ord (s : State) (r : Nat) (v : Word64) : (s.setS r v).cl.ord = s.cl.ord := by unfold State.setS; split <;> rfl
@[simp] theorem setS_cl_scyc (s : State) (r : Nat) (v : Word64) : (s.setS r v).cl.scyc = s.cl.scyc := by unfold State.setS; split <;> rfl
@[simp] theorem setS_cl_c (s : State) (r : Nat) (v : Word64) : (s.setS r v).cl.c = s.cl.c := by unfold State.setS; split <;> rfl
@[simp] theorem setS_cl_m (s : State) (r : Nat) (v : Word64) : (s.setS r v).cl.m = s.cl.m := by unfold State.setS; split <;> rfl
@[simp] theorem setS_cl_x (s : State) (r : Nat) (v : Word64) : (s.setS r v).cl.x = s.cl.x := by unfold State.setS; split <;> rfl
@[simp] theorem setS_cl_v (s : State) (r : Nat) (v : Word64) : (s.setS r v).cl.v = s.cl.v := by unfold State.setS; split <;> rfl
@[simp] theorem setS_cl_p (s : State) (r : Nat) (v : Word64) : (s.setS r v).cl.p = s.cl.p := by unfold State.setS; split <;> rfl
@[simp] theorem setS_cl_k (s : State) (r : Nat) (v : Word64) : (s.setS r v).cl.k = s.cl.k := by unfold State.setS; split <;> rfl
@[simp] theorem setS_cl_seedk (s : State) (r : Nat) (v : Word64) : (s.setS r v).cl.seedk = s.cl.seedk := by unfold State.setS; split <;> rfl
@[simp] theorem setS_cl_kP (s : State) (r : Nat) (v : Word64) : (s.setS r v).cl.kP = s.cl.kP := by unfold State.setS; split <;> rfl
@[simp] theorem setS_cl_seedP (s : State) (r : Nat) (v : Word64) : (s.setS r v).cl.seedP = s.cl.seedP := by unfold State.setS; split <;> rfl
@[simp] theorem setS_cl_sem (s : State) (r : Nat) (v : Word64) : (s.setS r v).cl.sem = s.cl.sem := by unfold State.setS; split <;> rfl
@[simp] theorem setS_cl_semP (s : State) (r : Nat) (v : Word64) : (s.setS r v).cl.semP = s.cl.semP := by unfold State.setS; split <;> rfl
@[simp] theorem setS_cl_engP (s : State) (r : Nat) (v : Word64) : (s.setS r v).cl.engP = s.cl.engP := by unfold State.setS; split <;> rfl
@[simp] theorem setS_cl_taskcyc (s : State) (r : Nat) (v : Word64) : (s.setS r v).cl.taskcyc = s.cl.taskcyc := by unfold State.setS; split <;> rfl
@[simp] theorem setS_cl_frzcyc (s : State) (r : Nat) (v : Word64) : (s.setS r v).cl.frzcyc = s.cl.frzcyc := by unfold State.setS; split <;> rfl
@[simp] theorem setS_cl_ovrcyc (s : State) (r : Nat) (v : Word64) : (s.setS r v).cl.ovrcyc = s.cl.ovrcyc := by unfold State.setS; split <;> rfl
@[simp] theorem setS_cl_slicecnt (s : State) (r : Nat) (v : Word64) : (s.setS r v).cl.slicecnt = s.cl.slicecnt := by unfold State.setS; split <;> rfl
@[simp] theorem setS_cl_xclk (s : State) (r : Nat) (v : Word64) : (s.setS r v).cl.xclk = s.cl.xclk := by unfold State.setS; split <;> rfl
@[simp] theorem setS_cl_quantum (s : State) (r : Nat) (v : Word64) : (s.setS r v).cl.quantum = s.cl.quantum := by unfold State.setS; split <;> rfl
@[simp] theorem setS_cl_resAt (s : State) (r : Nat) (v : Word64) : (s.setS r v).cl.resAt = s.cl.resAt := by unfold State.setS; split <;> rfl
@[simp] theorem setS_cl_swapped (s : State) (r : Nat) (v : Word64) : (s.setS r v).cl.swapped = s.cl.swapped := by unfold State.setS; split <;> rfl
@[simp] theorem setS_cl_swapP (s : State) (r : Nat) (v : Word64) : (s.setS r v).cl.swapP = s.cl.swapP := by unfold State.setS; split <;> rfl
@[simp] theorem setS_cl_setNow (s : State) (r : Nat) (v : Word64) : (s.setS r v).cl.setNow = s.cl.setNow := by unfold State.setS; split <;> rfl
@[simp] theorem setS_cl_frz (s : State) (r : Nat) (v : Word64) : (s.setS r v).cl.frz = s.cl.frz := by unfold State.setS; split <;> rfl
@[simp] theorem setS_cl_flt (s : State) (r : Nat) (v : Word64) : (s.setS r v).cl.flt = s.cl.flt := by unfold State.setS; split <;> rfl
@[simp] theorem setS_cl_heldF (s : State) (r : Nat) (v : Word64) : (s.setS r v).cl.heldF = s.cl.heldF := by unfold State.setS; split <;> rfl
@[simp] theorem setS_cl_fltNow (s : State) (r : Nat) (v : Word64) : (s.setS r v).cl.fltNow = s.cl.fltNow := by unfold State.setS; split <;> rfl
@[simp] theorem setS_cl_ve (s : State) (r : Nat) (v : Word64) : (s.setS r v).cl.ve = s.cl.ve := by unfold State.setS; split <;> rfl
@[simp] theorem setS_cl_me (s : State) (r : Nat) (v : Word64) : (s.setS r v).cl.me = s.cl.me := by unfold State.setS; split <;> rfl
@[simp] theorem setS_cl_pe (s : State) (r : Nat) (v : Word64) : (s.setS r v).cl.pe = s.cl.pe := by unfold State.setS; split <;> rfl
@[simp] theorem setS_cl_xe (s : State) (r : Nat) (v : Word64) : (s.setS r v).cl.xe = s.cl.xe := by unfold State.setS; split <;> rfl
@[simp] theorem setS_cl_tagA (s : State) (r : Nat) (v : Word64) : (s.setS r v).cl.tagA = s.cl.tagA := by unfold State.setS; split <;> rfl
@[simp] theorem setS_cl_tagB (s : State) (r : Nat) (v : Word64) : (s.setS r v).cl.tagB = s.cl.tagB := by unfold State.setS; split <;> rfl
@[simp] theorem setS_cl_hcw0 (s : State) (r : Nat) (v : Word64) : (s.setS r v).cl.hcw0 = s.cl.hcw0 := by unfold State.setS; split <;> rfl
@[simp] theorem setS_cl_pendl (s : State) (r : Nat) (v : Word64) : (s.setS r v).cl.pendl = s.cl.pendl := by unfold State.setS; split <;> rfl
@[simp] theorem setS_cl_resetBy (s : State) (r : Nat) (v : Word64) : (s.setS r v).cl.resetBy = s.cl.resetBy := by unfold State.setS; split <;> rfl
@[simp] theorem setS_cl_saved (s : State) (r : Nat) (v : Word64) : (s.setS r v).cl.saved = s.cl.saved := by unfold State.setS; split <;> rfl
@[simp] theorem setS_cl_expired (s : State) (r : Nat) (v : Word64) : (s.setS r v).cl.expired = s.cl.expired := by unfold State.setS; split <;> rfl
@[simp] theorem setS_cl_pcie (s : State) (r : Nat) (v : Word64) : (s.setS r v).cl.pcie = s.cl.pcie := by unfold State.setS; split <;> rfl
@[simp] theorem setS_cl_splitLeft (s : State) (r : Nat) (v : Word64) : (s.setS r v).cl.splitLeft = s.cl.splitLeft := by unfold State.setS; split <;> rfl
@[simp] theorem setS_cl_late (s : State) (r : Nat) (v : Word64) : (s.setS r v).cl.late = s.cl.late := by unfold State.setS; split <;> rfl

/-! setP -/

@[simp] theorem setP_mem (s : State) (j : Nat) (b : Bool) : (s.setP j b).mem = s.mem := by unfold State.setP; split <;> rfl
@[simp] theorem setP_bad (s : State) (j : Nat) (b : Bool) : (s.setP j b).bad = s.bad := by unfold State.setP; split <;> rfl
@[simp] theorem setP_cur (s : State) (j : Nat) (b : Bool) : (s.setP j b).cur = s.cur := by unfold State.setP; split <;> rfl
@[simp] theorem setP_park (s : State) (j : Nat) (b : Bool) : (s.setP j b).park = s.park := by unfold State.setP; split <;> rfl
@[simp] theorem setP_dies (s : State) (j : Nat) (b : Bool) : (s.setP j b).dies = s.dies := by unfold State.setP; split <;> rfl
@[simp] theorem setP_jobs (s : State) (j : Nat) (b : Bool) : (s.setP j b).jobs = s.jobs := by unfold State.setP; split <;> rfl
@[simp] theorem setP_ctx (s : State) (j : Nat) (b : Bool) : (s.setP j b).ctx = s.ctx := by unfold State.setP; split <;> rfl
@[simp] theorem setP_turns (s : State) (j : Nat) (b : Bool) : (s.setP j b).turns = s.turns := by unfold State.setP; split <;> rfl
@[simp] theorem setP_clk (s : State) (j : Nat) (b : Bool) : (s.setP j b).clk = s.clk := by unfold State.setP; split <;> rfl
@[simp] theorem setP_mtime (s : State) (j : Nat) (b : Bool) : (s.setP j b).mtime = s.mtime := by unfold State.setP; split <;> rfl
@[simp] theorem setP_nsAcc (s : State) (j : Nat) (b : Bool) : (s.setP j b).nsAcc = s.nsAcc := by unfold State.setP; split <;> rfl
@[simp] theorem setP_net (s : State) (j : Nat) (b : Bool) : (s.setP j b).net = s.net := by unfold State.setP; split <;> rfl
@[simp] theorem setP_wire (s : State) (j : Nat) (b : Bool) : (s.setP j b).wire = s.wire := by unfold State.setP; split <;> rfl
@[simp] theorem setP_claims (s : State) (j : Nat) (b : Bool) : (s.setP j b).claims = s.claims := by unfold State.setP; split <;> rfl
@[simp] theorem setP_hold (s : State) (j : Nat) (b : Bool) : (s.setP j b).hold = s.hold := by unfold State.setP; split <;> rfl
@[simp] theorem setP_inputs (s : State) (j : Nat) (b : Bool) : (s.setP j b).inputs = s.inputs := by unfold State.setP; split <;> rfl
@[simp] theorem setP_boot (s : State) (j : Nat) (b : Bool) : (s.setP j b).boot = s.boot := by unfold State.setP; split <;> rfl
@[simp] theorem setP_port0 (s : State) (j : Nat) (b : Bool) : (s.setP j b).port0 = s.port0 := by unfold State.setP; split <;> rfl
@[simp] theorem setP_port1 (s : State) (j : Nat) (b : Bool) : (s.setP j b).port1 = s.port1 := by unfold State.setP; split <;> rfl
@[simp] theorem setP_irqs (s : State) (j : Nat) (b : Bool) : (s.setP j b).irqs = s.irqs := by unfold State.setP; split <;> rfl
@[simp] theorem setP_answers (s : State) (j : Nat) (b : Bool) : (s.setP j b).answers = s.answers := by unfold State.setP; split <;> rfl
@[simp] theorem setP_freq (s : State) (j : Nat) (b : Bool) : (s.setP j b).freq = s.freq := by unfold State.setP; split <;> rfl
@[simp] theorem setP_gaddr (s : State) (j : Nat) (b : Bool) : (s.setP j b).gaddr = s.gaddr := by unfold State.setP; split <;> rfl
@[simp] theorem setP_goven (s : State) (j : Nat) (b : Bool) : (s.setP j b).goven = s.goven := by unfold State.setP; split <;> rfl
@[simp] theorem setP_opns (s : State) (j : Nat) (b : Bool) : (s.setP j b).opns = s.opns := by unfold State.setP; split <;> rfl
@[simp] theorem setP_uvMet (s : State) (j : Nat) (b : Bool) : (s.setP j b).uvMet = s.uvMet := by unfold State.setP; split <;> rfl
@[simp] theorem setP_images (s : State) (j : Nat) (b : Bool) : (s.setP j b).images = s.images := by unfold State.setP; split <;> rfl
@[simp] theorem setP_stretch (s : State) (j : Nat) (b : Bool) : (s.setP j b).stretch = s.stretch := by unfold State.setP; split <;> rfl
@[simp] theorem setP_narrowed (s : State) (j : Nat) (b : Bool) : (s.setP j b).narrowed = s.narrowed := by unfold State.setP; split <;> rfl
@[simp] theorem setP_soRx (s : State) (j : Nat) (b : Bool) : (s.setP j b).soRx = s.soRx := by unfold State.setP; split <;> rfl
@[simp] theorem setP_soTx (s : State) (j : Nat) (b : Bool) : (s.setP j b).soTx = s.soTx := by unfold State.setP; split <;> rfl
@[simp] theorem setP_soIn (s : State) (j : Nat) (b : Bool) : (s.setP j b).soIn = s.soIn := by unfold State.setP; split <;> rfl
@[simp] theorem setP_soOut (s : State) (j : Nat) (b : Bool) : (s.setP j b).soOut = s.soOut := by unfold State.setP; split <;> rfl
@[simp] theorem setP_fresh (s : State) (j : Nat) (b : Bool) : (s.setP j b).fresh = s.fresh := by unfold State.setP; split <;> rfl
@[simp] theorem setP_cl_task (s : State) (j : Nat) (b : Bool) : (s.setP j b).cl.task = s.cl.task := by unfold State.setP; split <;> rfl
@[simp] theorem setP_cl_locked (s : State) (j : Nat) (b : Bool) : (s.setP j b).cl.locked = s.cl.locked := by unfold State.setP; split <;> rfl
@[simp] theorem setP_cl_ord (s : State) (j : Nat) (b : Bool) : (s.setP j b).cl.ord = s.cl.ord := by unfold State.setP; split <;> rfl
@[simp] theorem setP_cl_scyc (s : State) (j : Nat) (b : Bool) : (s.setP j b).cl.scyc = s.cl.scyc := by unfold State.setP; split <;> rfl
@[simp] theorem setP_cl_c (s : State) (j : Nat) (b : Bool) : (s.setP j b).cl.c = s.cl.c := by unfold State.setP; split <;> rfl
@[simp] theorem setP_cl_m (s : State) (j : Nat) (b : Bool) : (s.setP j b).cl.m = s.cl.m := by unfold State.setP; split <;> rfl
@[simp] theorem setP_cl_x (s : State) (j : Nat) (b : Bool) : (s.setP j b).cl.x = s.cl.x := by unfold State.setP; split <;> rfl
@[simp] theorem setP_cl_v (s : State) (j : Nat) (b : Bool) : (s.setP j b).cl.v = s.cl.v := by unfold State.setP; split <;> rfl
@[simp] theorem setP_cl_s (s : State) (j : Nat) (b : Bool) : (s.setP j b).cl.s = s.cl.s := by unfold State.setP; split <;> rfl
@[simp] theorem setP_cl_k (s : State) (j : Nat) (b : Bool) : (s.setP j b).cl.k = s.cl.k := by unfold State.setP; split <;> rfl
@[simp] theorem setP_cl_seedk (s : State) (j : Nat) (b : Bool) : (s.setP j b).cl.seedk = s.cl.seedk := by unfold State.setP; split <;> rfl
@[simp] theorem setP_cl_kP (s : State) (j : Nat) (b : Bool) : (s.setP j b).cl.kP = s.cl.kP := by unfold State.setP; split <;> rfl
@[simp] theorem setP_cl_seedP (s : State) (j : Nat) (b : Bool) : (s.setP j b).cl.seedP = s.cl.seedP := by unfold State.setP; split <;> rfl
@[simp] theorem setP_cl_sem (s : State) (j : Nat) (b : Bool) : (s.setP j b).cl.sem = s.cl.sem := by unfold State.setP; split <;> rfl
@[simp] theorem setP_cl_semP (s : State) (j : Nat) (b : Bool) : (s.setP j b).cl.semP = s.cl.semP := by unfold State.setP; split <;> rfl
@[simp] theorem setP_cl_engP (s : State) (j : Nat) (b : Bool) : (s.setP j b).cl.engP = s.cl.engP := by unfold State.setP; split <;> rfl
@[simp] theorem setP_cl_taskcyc (s : State) (j : Nat) (b : Bool) : (s.setP j b).cl.taskcyc = s.cl.taskcyc := by unfold State.setP; split <;> rfl
@[simp] theorem setP_cl_frzcyc (s : State) (j : Nat) (b : Bool) : (s.setP j b).cl.frzcyc = s.cl.frzcyc := by unfold State.setP; split <;> rfl
@[simp] theorem setP_cl_ovrcyc (s : State) (j : Nat) (b : Bool) : (s.setP j b).cl.ovrcyc = s.cl.ovrcyc := by unfold State.setP; split <;> rfl
@[simp] theorem setP_cl_slicecnt (s : State) (j : Nat) (b : Bool) : (s.setP j b).cl.slicecnt = s.cl.slicecnt := by unfold State.setP; split <;> rfl
@[simp] theorem setP_cl_xclk (s : State) (j : Nat) (b : Bool) : (s.setP j b).cl.xclk = s.cl.xclk := by unfold State.setP; split <;> rfl
@[simp] theorem setP_cl_quantum (s : State) (j : Nat) (b : Bool) : (s.setP j b).cl.quantum = s.cl.quantum := by unfold State.setP; split <;> rfl
@[simp] theorem setP_cl_resAt (s : State) (j : Nat) (b : Bool) : (s.setP j b).cl.resAt = s.cl.resAt := by unfold State.setP; split <;> rfl
@[simp] theorem setP_cl_swapped (s : State) (j : Nat) (b : Bool) : (s.setP j b).cl.swapped = s.cl.swapped := by unfold State.setP; split <;> rfl
@[simp] theorem setP_cl_swapP (s : State) (j : Nat) (b : Bool) : (s.setP j b).cl.swapP = s.cl.swapP := by unfold State.setP; split <;> rfl
@[simp] theorem setP_cl_setNow (s : State) (j : Nat) (b : Bool) : (s.setP j b).cl.setNow = s.cl.setNow := by unfold State.setP; split <;> rfl
@[simp] theorem setP_cl_frz (s : State) (j : Nat) (b : Bool) : (s.setP j b).cl.frz = s.cl.frz := by unfold State.setP; split <;> rfl
@[simp] theorem setP_cl_flt (s : State) (j : Nat) (b : Bool) : (s.setP j b).cl.flt = s.cl.flt := by unfold State.setP; split <;> rfl
@[simp] theorem setP_cl_heldF (s : State) (j : Nat) (b : Bool) : (s.setP j b).cl.heldF = s.cl.heldF := by unfold State.setP; split <;> rfl
@[simp] theorem setP_cl_fltNow (s : State) (j : Nat) (b : Bool) : (s.setP j b).cl.fltNow = s.cl.fltNow := by unfold State.setP; split <;> rfl
@[simp] theorem setP_cl_ve (s : State) (j : Nat) (b : Bool) : (s.setP j b).cl.ve = s.cl.ve := by unfold State.setP; split <;> rfl
@[simp] theorem setP_cl_me (s : State) (j : Nat) (b : Bool) : (s.setP j b).cl.me = s.cl.me := by unfold State.setP; split <;> rfl
@[simp] theorem setP_cl_pe (s : State) (j : Nat) (b : Bool) : (s.setP j b).cl.pe = s.cl.pe := by unfold State.setP; split <;> rfl
@[simp] theorem setP_cl_xe (s : State) (j : Nat) (b : Bool) : (s.setP j b).cl.xe = s.cl.xe := by unfold State.setP; split <;> rfl
@[simp] theorem setP_cl_tagA (s : State) (j : Nat) (b : Bool) : (s.setP j b).cl.tagA = s.cl.tagA := by unfold State.setP; split <;> rfl
@[simp] theorem setP_cl_tagB (s : State) (j : Nat) (b : Bool) : (s.setP j b).cl.tagB = s.cl.tagB := by unfold State.setP; split <;> rfl
@[simp] theorem setP_cl_hcw0 (s : State) (j : Nat) (b : Bool) : (s.setP j b).cl.hcw0 = s.cl.hcw0 := by unfold State.setP; split <;> rfl
@[simp] theorem setP_cl_pendl (s : State) (j : Nat) (b : Bool) : (s.setP j b).cl.pendl = s.cl.pendl := by unfold State.setP; split <;> rfl
@[simp] theorem setP_cl_resetBy (s : State) (j : Nat) (b : Bool) : (s.setP j b).cl.resetBy = s.cl.resetBy := by unfold State.setP; split <;> rfl
@[simp] theorem setP_cl_saved (s : State) (j : Nat) (b : Bool) : (s.setP j b).cl.saved = s.cl.saved := by unfold State.setP; split <;> rfl
@[simp] theorem setP_cl_expired (s : State) (j : Nat) (b : Bool) : (s.setP j b).cl.expired = s.cl.expired := by unfold State.setP; split <;> rfl
@[simp] theorem setP_cl_pcie (s : State) (j : Nat) (b : Bool) : (s.setP j b).cl.pcie = s.cl.pcie := by unfold State.setP; split <;> rfl
@[simp] theorem setP_cl_splitLeft (s : State) (j : Nat) (b : Bool) : (s.setP j b).cl.splitLeft = s.cl.splitLeft := by unfold State.setP; split <;> rfl
@[simp] theorem setP_cl_late (s : State) (j : Nat) (b : Bool) : (s.setP j b).cl.late = s.cl.late := by unfold State.setP; split <;> rfl

/-! setSem -/

@[simp] theorem setSem_mem (s : State) (n v : Nat) : (s.setSem n v).mem = s.mem := rfl
@[simp] theorem setSem_bad (s : State) (n v : Nat) : (s.setSem n v).bad = s.bad := rfl
@[simp] theorem setSem_cur (s : State) (n v : Nat) : (s.setSem n v).cur = s.cur := rfl
@[simp] theorem setSem_park (s : State) (n v : Nat) : (s.setSem n v).park = s.park := rfl
@[simp] theorem setSem_dies (s : State) (n v : Nat) : (s.setSem n v).dies = s.dies := rfl
@[simp] theorem setSem_jobs (s : State) (n v : Nat) : (s.setSem n v).jobs = s.jobs := rfl
@[simp] theorem setSem_ctx (s : State) (n v : Nat) : (s.setSem n v).ctx = s.ctx := rfl
@[simp] theorem setSem_turns (s : State) (n v : Nat) : (s.setSem n v).turns = s.turns := rfl
@[simp] theorem setSem_clk (s : State) (n v : Nat) : (s.setSem n v).clk = s.clk := rfl
@[simp] theorem setSem_mtime (s : State) (n v : Nat) : (s.setSem n v).mtime = s.mtime := rfl
@[simp] theorem setSem_nsAcc (s : State) (n v : Nat) : (s.setSem n v).nsAcc = s.nsAcc := rfl
@[simp] theorem setSem_net (s : State) (n v : Nat) : (s.setSem n v).net = s.net := rfl
@[simp] theorem setSem_wire (s : State) (n v : Nat) : (s.setSem n v).wire = s.wire := rfl
@[simp] theorem setSem_claims (s : State) (n v : Nat) : (s.setSem n v).claims = s.claims := rfl
@[simp] theorem setSem_hold (s : State) (n v : Nat) : (s.setSem n v).hold = s.hold := rfl
@[simp] theorem setSem_inputs (s : State) (n v : Nat) : (s.setSem n v).inputs = s.inputs := rfl
@[simp] theorem setSem_boot (s : State) (n v : Nat) : (s.setSem n v).boot = s.boot := rfl
@[simp] theorem setSem_port0 (s : State) (n v : Nat) : (s.setSem n v).port0 = s.port0 := rfl
@[simp] theorem setSem_port1 (s : State) (n v : Nat) : (s.setSem n v).port1 = s.port1 := rfl
@[simp] theorem setSem_irqs (s : State) (n v : Nat) : (s.setSem n v).irqs = s.irqs := rfl
@[simp] theorem setSem_answers (s : State) (n v : Nat) : (s.setSem n v).answers = s.answers := rfl
@[simp] theorem setSem_freq (s : State) (n v : Nat) : (s.setSem n v).freq = s.freq := rfl
@[simp] theorem setSem_gaddr (s : State) (n v : Nat) : (s.setSem n v).gaddr = s.gaddr := rfl
@[simp] theorem setSem_goven (s : State) (n v : Nat) : (s.setSem n v).goven = s.goven := rfl
@[simp] theorem setSem_opns (s : State) (n v : Nat) : (s.setSem n v).opns = s.opns := rfl
@[simp] theorem setSem_uvMet (s : State) (n v : Nat) : (s.setSem n v).uvMet = s.uvMet := rfl
@[simp] theorem setSem_images (s : State) (n v : Nat) : (s.setSem n v).images = s.images := rfl
@[simp] theorem setSem_stretch (s : State) (n v : Nat) : (s.setSem n v).stretch = s.stretch := rfl
@[simp] theorem setSem_narrowed (s : State) (n v : Nat) : (s.setSem n v).narrowed = s.narrowed := rfl
@[simp] theorem setSem_soRx (s : State) (n v : Nat) : (s.setSem n v).soRx = s.soRx := rfl
@[simp] theorem setSem_soTx (s : State) (n v : Nat) : (s.setSem n v).soTx = s.soTx := rfl
@[simp] theorem setSem_soIn (s : State) (n v : Nat) : (s.setSem n v).soIn = s.soIn := rfl
@[simp] theorem setSem_soOut (s : State) (n v : Nat) : (s.setSem n v).soOut = s.soOut := rfl
@[simp] theorem setSem_fresh (s : State) (n v : Nat) : (s.setSem n v).fresh = s.fresh := rfl
@[simp] theorem setSem_cl_task (s : State) (n v : Nat) : (s.setSem n v).cl.task = s.cl.task := rfl
@[simp] theorem setSem_cl_locked (s : State) (n v : Nat) : (s.setSem n v).cl.locked = s.cl.locked := rfl
@[simp] theorem setSem_cl_ord (s : State) (n v : Nat) : (s.setSem n v).cl.ord = s.cl.ord := rfl
@[simp] theorem setSem_cl_scyc (s : State) (n v : Nat) : (s.setSem n v).cl.scyc = s.cl.scyc := rfl
@[simp] theorem setSem_cl_c (s : State) (n v : Nat) : (s.setSem n v).cl.c = s.cl.c := rfl
@[simp] theorem setSem_cl_m (s : State) (n v : Nat) : (s.setSem n v).cl.m = s.cl.m := rfl
@[simp] theorem setSem_cl_x (s : State) (n v : Nat) : (s.setSem n v).cl.x = s.cl.x := rfl
@[simp] theorem setSem_cl_v (s : State) (n v : Nat) : (s.setSem n v).cl.v = s.cl.v := rfl
@[simp] theorem setSem_cl_s (s : State) (n v : Nat) : (s.setSem n v).cl.s = s.cl.s := rfl
@[simp] theorem setSem_cl_p (s : State) (n v : Nat) : (s.setSem n v).cl.p = s.cl.p := rfl
@[simp] theorem setSem_cl_k (s : State) (n v : Nat) : (s.setSem n v).cl.k = s.cl.k := rfl
@[simp] theorem setSem_cl_seedk (s : State) (n v : Nat) : (s.setSem n v).cl.seedk = s.cl.seedk := rfl
@[simp] theorem setSem_cl_kP (s : State) (n v : Nat) : (s.setSem n v).cl.kP = s.cl.kP := rfl
@[simp] theorem setSem_cl_seedP (s : State) (n v : Nat) : (s.setSem n v).cl.seedP = s.cl.seedP := rfl
@[simp] theorem setSem_cl_semP (s : State) (n v : Nat) : (s.setSem n v).cl.semP = s.cl.semP := rfl
@[simp] theorem setSem_cl_engP (s : State) (n v : Nat) : (s.setSem n v).cl.engP = s.cl.engP := rfl
@[simp] theorem setSem_cl_taskcyc (s : State) (n v : Nat) : (s.setSem n v).cl.taskcyc = s.cl.taskcyc := rfl
@[simp] theorem setSem_cl_frzcyc (s : State) (n v : Nat) : (s.setSem n v).cl.frzcyc = s.cl.frzcyc := rfl
@[simp] theorem setSem_cl_ovrcyc (s : State) (n v : Nat) : (s.setSem n v).cl.ovrcyc = s.cl.ovrcyc := rfl
@[simp] theorem setSem_cl_slicecnt (s : State) (n v : Nat) : (s.setSem n v).cl.slicecnt = s.cl.slicecnt := rfl
@[simp] theorem setSem_cl_xclk (s : State) (n v : Nat) : (s.setSem n v).cl.xclk = s.cl.xclk := rfl
@[simp] theorem setSem_cl_quantum (s : State) (n v : Nat) : (s.setSem n v).cl.quantum = s.cl.quantum := rfl
@[simp] theorem setSem_cl_resAt (s : State) (n v : Nat) : (s.setSem n v).cl.resAt = s.cl.resAt := rfl
@[simp] theorem setSem_cl_swapped (s : State) (n v : Nat) : (s.setSem n v).cl.swapped = s.cl.swapped := rfl
@[simp] theorem setSem_cl_swapP (s : State) (n v : Nat) : (s.setSem n v).cl.swapP = s.cl.swapP := rfl
@[simp] theorem setSem_cl_setNow (s : State) (n v : Nat) : (s.setSem n v).cl.setNow = s.cl.setNow := rfl
@[simp] theorem setSem_cl_frz (s : State) (n v : Nat) : (s.setSem n v).cl.frz = s.cl.frz := rfl
@[simp] theorem setSem_cl_flt (s : State) (n v : Nat) : (s.setSem n v).cl.flt = s.cl.flt := rfl
@[simp] theorem setSem_cl_heldF (s : State) (n v : Nat) : (s.setSem n v).cl.heldF = s.cl.heldF := rfl
@[simp] theorem setSem_cl_fltNow (s : State) (n v : Nat) : (s.setSem n v).cl.fltNow = s.cl.fltNow := rfl
@[simp] theorem setSem_cl_ve (s : State) (n v : Nat) : (s.setSem n v).cl.ve = s.cl.ve := rfl
@[simp] theorem setSem_cl_me (s : State) (n v : Nat) : (s.setSem n v).cl.me = s.cl.me := rfl
@[simp] theorem setSem_cl_pe (s : State) (n v : Nat) : (s.setSem n v).cl.pe = s.cl.pe := rfl
@[simp] theorem setSem_cl_xe (s : State) (n v : Nat) : (s.setSem n v).cl.xe = s.cl.xe := rfl
@[simp] theorem setSem_cl_tagA (s : State) (n v : Nat) : (s.setSem n v).cl.tagA = s.cl.tagA := rfl
@[simp] theorem setSem_cl_tagB (s : State) (n v : Nat) : (s.setSem n v).cl.tagB = s.cl.tagB := rfl
@[simp] theorem setSem_cl_hcw0 (s : State) (n v : Nat) : (s.setSem n v).cl.hcw0 = s.cl.hcw0 := rfl
@[simp] theorem setSem_cl_pendl (s : State) (n v : Nat) : (s.setSem n v).cl.pendl = s.cl.pendl := rfl
@[simp] theorem setSem_cl_resetBy (s : State) (n v : Nat) : (s.setSem n v).cl.resetBy = s.cl.resetBy := rfl
@[simp] theorem setSem_cl_saved (s : State) (n v : Nat) : (s.setSem n v).cl.saved = s.cl.saved := rfl
@[simp] theorem setSem_cl_expired (s : State) (n v : Nat) : (s.setSem n v).cl.expired = s.cl.expired := rfl
@[simp] theorem setSem_cl_pcie (s : State) (n v : Nat) : (s.setSem n v).cl.pcie = s.cl.pcie := rfl
@[simp] theorem setSem_cl_splitLeft (s : State) (n v : Nat) : (s.setSem n v).cl.splitLeft = s.cl.splitLeft := rfl
@[simp] theorem setSem_cl_late (s : State) (n v : Nat) : (s.setSem n v).cl.late = s.cl.late := rfl

/-! branch -/

@[simp] theorem branch_mem (s : State) (t : BitVec 17) : (s.branch t).mem = s.mem := rfl
@[simp] theorem branch_bad (s : State) (t : BitVec 17) : (s.branch t).bad = s.bad := rfl
@[simp] theorem branch_cur (s : State) (t : BitVec 17) : (s.branch t).cur = s.cur := rfl
@[simp] theorem branch_cl (s : State) (t : BitVec 17) : (s.branch t).cl = s.cl := rfl
@[simp] theorem branch_park (s : State) (t : BitVec 17) : (s.branch t).park = s.park := rfl
@[simp] theorem branch_dies (s : State) (t : BitVec 17) : (s.branch t).dies = s.dies := rfl
@[simp] theorem branch_jobs (s : State) (t : BitVec 17) : (s.branch t).jobs = s.jobs := rfl
@[simp] theorem branch_turns (s : State) (t : BitVec 17) : (s.branch t).turns = s.turns := rfl
@[simp] theorem branch_clk (s : State) (t : BitVec 17) : (s.branch t).clk = s.clk := rfl
@[simp] theorem branch_mtime (s : State) (t : BitVec 17) : (s.branch t).mtime = s.mtime := rfl
@[simp] theorem branch_nsAcc (s : State) (t : BitVec 17) : (s.branch t).nsAcc = s.nsAcc := rfl
@[simp] theorem branch_net (s : State) (t : BitVec 17) : (s.branch t).net = s.net := rfl
@[simp] theorem branch_wire (s : State) (t : BitVec 17) : (s.branch t).wire = s.wire := rfl
@[simp] theorem branch_claims (s : State) (t : BitVec 17) : (s.branch t).claims = s.claims := rfl
@[simp] theorem branch_hold (s : State) (t : BitVec 17) : (s.branch t).hold = s.hold := rfl
@[simp] theorem branch_inputs (s : State) (t : BitVec 17) : (s.branch t).inputs = s.inputs := rfl
@[simp] theorem branch_boot (s : State) (t : BitVec 17) : (s.branch t).boot = s.boot := rfl
@[simp] theorem branch_port0 (s : State) (t : BitVec 17) : (s.branch t).port0 = s.port0 := rfl
@[simp] theorem branch_port1 (s : State) (t : BitVec 17) : (s.branch t).port1 = s.port1 := rfl
@[simp] theorem branch_irqs (s : State) (t : BitVec 17) : (s.branch t).irqs = s.irqs := rfl
@[simp] theorem branch_answers (s : State) (t : BitVec 17) : (s.branch t).answers = s.answers := rfl
@[simp] theorem branch_freq (s : State) (t : BitVec 17) : (s.branch t).freq = s.freq := rfl
@[simp] theorem branch_gaddr (s : State) (t : BitVec 17) : (s.branch t).gaddr = s.gaddr := rfl
@[simp] theorem branch_goven (s : State) (t : BitVec 17) : (s.branch t).goven = s.goven := rfl
@[simp] theorem branch_opns (s : State) (t : BitVec 17) : (s.branch t).opns = s.opns := rfl
@[simp] theorem branch_uvMet (s : State) (t : BitVec 17) : (s.branch t).uvMet = s.uvMet := rfl
@[simp] theorem branch_images (s : State) (t : BitVec 17) : (s.branch t).images = s.images := rfl
@[simp] theorem branch_stretch (s : State) (t : BitVec 17) : (s.branch t).stretch = s.stretch := rfl
@[simp] theorem branch_narrowed (s : State) (t : BitVec 17) : (s.branch t).narrowed = s.narrowed := rfl
@[simp] theorem branch_soRx (s : State) (t : BitVec 17) : (s.branch t).soRx = s.soRx := rfl
@[simp] theorem branch_soTx (s : State) (t : BitVec 17) : (s.branch t).soTx = s.soTx := rfl
@[simp] theorem branch_soIn (s : State) (t : BitVec 17) : (s.branch t).soIn = s.soIn := rfl
@[simp] theorem branch_soOut (s : State) (t : BitVec 17) : (s.branch t).soOut = s.soOut := rfl
@[simp] theorem branch_fresh (s : State) (t : BitVec 17) : (s.branch t).fresh = s.fresh := rfl

/-! ends -/

@[simp] theorem ends_mem (s : State) : (s.ends).mem = s.mem := rfl
@[simp] theorem ends_bad (s : State) : (s.ends).bad = s.bad := rfl
@[simp] theorem ends_cur (s : State) : (s.ends).cur = s.cur := rfl
@[simp] theorem ends_cl (s : State) : (s.ends).cl = s.cl := rfl
@[simp] theorem ends_park (s : State) : (s.ends).park = s.park := rfl
@[simp] theorem ends_dies (s : State) : (s.ends).dies = s.dies := rfl
@[simp] theorem ends_jobs (s : State) : (s.ends).jobs = s.jobs := rfl
@[simp] theorem ends_turns (s : State) : (s.ends).turns = s.turns := rfl
@[simp] theorem ends_clk (s : State) : (s.ends).clk = s.clk := rfl
@[simp] theorem ends_mtime (s : State) : (s.ends).mtime = s.mtime := rfl
@[simp] theorem ends_nsAcc (s : State) : (s.ends).nsAcc = s.nsAcc := rfl
@[simp] theorem ends_net (s : State) : (s.ends).net = s.net := rfl
@[simp] theorem ends_wire (s : State) : (s.ends).wire = s.wire := rfl
@[simp] theorem ends_claims (s : State) : (s.ends).claims = s.claims := rfl
@[simp] theorem ends_hold (s : State) : (s.ends).hold = s.hold := rfl
@[simp] theorem ends_inputs (s : State) : (s.ends).inputs = s.inputs := rfl
@[simp] theorem ends_boot (s : State) : (s.ends).boot = s.boot := rfl
@[simp] theorem ends_port0 (s : State) : (s.ends).port0 = s.port0 := rfl
@[simp] theorem ends_port1 (s : State) : (s.ends).port1 = s.port1 := rfl
@[simp] theorem ends_irqs (s : State) : (s.ends).irqs = s.irqs := rfl
@[simp] theorem ends_answers (s : State) : (s.ends).answers = s.answers := rfl
@[simp] theorem ends_freq (s : State) : (s.ends).freq = s.freq := rfl
@[simp] theorem ends_gaddr (s : State) : (s.ends).gaddr = s.gaddr := rfl
@[simp] theorem ends_goven (s : State) : (s.ends).goven = s.goven := rfl
@[simp] theorem ends_opns (s : State) : (s.ends).opns = s.opns := rfl
@[simp] theorem ends_uvMet (s : State) : (s.ends).uvMet = s.uvMet := rfl
@[simp] theorem ends_images (s : State) : (s.ends).images = s.images := rfl
@[simp] theorem ends_stretch (s : State) : (s.ends).stretch = s.stretch := rfl
@[simp] theorem ends_narrowed (s : State) : (s.ends).narrowed = s.narrowed := rfl
@[simp] theorem ends_soRx (s : State) : (s.ends).soRx = s.soRx := rfl
@[simp] theorem ends_soTx (s : State) : (s.ends).soTx = s.soTx := rfl
@[simp] theorem ends_soIn (s : State) : (s.ends).soIn = s.soIn := rfl
@[simp] theorem ends_soOut (s : State) : (s.ends).soOut = s.soOut := rfl
@[simp] theorem ends_fresh (s : State) : (s.ends).fresh = s.fresh := rfl

/-! wr8 -/

@[simp] theorem wr8_bad (s : State) (a : Nat) (v : Byte) : (s.wr8 a v).bad = s.bad := rfl
@[simp] theorem wr8_cur (s : State) (a : Nat) (v : Byte) : (s.wr8 a v).cur = s.cur := rfl
@[simp] theorem wr8_cl (s : State) (a : Nat) (v : Byte) : (s.wr8 a v).cl = s.cl := rfl
@[simp] theorem wr8_park (s : State) (a : Nat) (v : Byte) : (s.wr8 a v).park = s.park := rfl
@[simp] theorem wr8_dies (s : State) (a : Nat) (v : Byte) : (s.wr8 a v).dies = s.dies := rfl
@[simp] theorem wr8_jobs (s : State) (a : Nat) (v : Byte) : (s.wr8 a v).jobs = s.jobs := rfl
@[simp] theorem wr8_ctx (s : State) (a : Nat) (v : Byte) : (s.wr8 a v).ctx = s.ctx := rfl
@[simp] theorem wr8_turns (s : State) (a : Nat) (v : Byte) : (s.wr8 a v).turns = s.turns := rfl
@[simp] theorem wr8_clk (s : State) (a : Nat) (v : Byte) : (s.wr8 a v).clk = s.clk := rfl
@[simp] theorem wr8_mtime (s : State) (a : Nat) (v : Byte) : (s.wr8 a v).mtime = s.mtime := rfl
@[simp] theorem wr8_nsAcc (s : State) (a : Nat) (v : Byte) : (s.wr8 a v).nsAcc = s.nsAcc := rfl
@[simp] theorem wr8_net (s : State) (a : Nat) (v : Byte) : (s.wr8 a v).net = s.net := rfl
@[simp] theorem wr8_wire (s : State) (a : Nat) (v : Byte) : (s.wr8 a v).wire = s.wire := rfl
@[simp] theorem wr8_claims (s : State) (a : Nat) (v : Byte) : (s.wr8 a v).claims = s.claims := rfl
@[simp] theorem wr8_hold (s : State) (a : Nat) (v : Byte) : (s.wr8 a v).hold = s.hold := rfl
@[simp] theorem wr8_inputs (s : State) (a : Nat) (v : Byte) : (s.wr8 a v).inputs = s.inputs := rfl
@[simp] theorem wr8_boot (s : State) (a : Nat) (v : Byte) : (s.wr8 a v).boot = s.boot := rfl
@[simp] theorem wr8_port0 (s : State) (a : Nat) (v : Byte) : (s.wr8 a v).port0 = s.port0 := rfl
@[simp] theorem wr8_port1 (s : State) (a : Nat) (v : Byte) : (s.wr8 a v).port1 = s.port1 := rfl
@[simp] theorem wr8_irqs (s : State) (a : Nat) (v : Byte) : (s.wr8 a v).irqs = s.irqs := rfl
@[simp] theorem wr8_answers (s : State) (a : Nat) (v : Byte) : (s.wr8 a v).answers = s.answers := rfl
@[simp] theorem wr8_freq (s : State) (a : Nat) (v : Byte) : (s.wr8 a v).freq = s.freq := rfl
@[simp] theorem wr8_gaddr (s : State) (a : Nat) (v : Byte) : (s.wr8 a v).gaddr = s.gaddr := rfl
@[simp] theorem wr8_goven (s : State) (a : Nat) (v : Byte) : (s.wr8 a v).goven = s.goven := rfl
@[simp] theorem wr8_opns (s : State) (a : Nat) (v : Byte) : (s.wr8 a v).opns = s.opns := rfl
@[simp] theorem wr8_uvMet (s : State) (a : Nat) (v : Byte) : (s.wr8 a v).uvMet = s.uvMet := rfl
@[simp] theorem wr8_images (s : State) (a : Nat) (v : Byte) : (s.wr8 a v).images = s.images := rfl
@[simp] theorem wr8_stretch (s : State) (a : Nat) (v : Byte) : (s.wr8 a v).stretch = s.stretch := rfl
@[simp] theorem wr8_narrowed (s : State) (a : Nat) (v : Byte) : (s.wr8 a v).narrowed = s.narrowed := rfl
@[simp] theorem wr8_soRx (s : State) (a : Nat) (v : Byte) : (s.wr8 a v).soRx = s.soRx := rfl
@[simp] theorem wr8_soTx (s : State) (a : Nat) (v : Byte) : (s.wr8 a v).soTx = s.soTx := rfl
@[simp] theorem wr8_soIn (s : State) (a : Nat) (v : Byte) : (s.wr8 a v).soIn = s.soIn := rfl
@[simp] theorem wr8_soOut (s : State) (a : Nat) (v : Byte) : (s.wr8 a v).soOut = s.soOut := rfl
@[simp] theorem wr8_fresh (s : State) (a : Nat) (v : Byte) : (s.wr8 a v).fresh = s.fresh := rfl

/-! wrBytes -/

@[simp] theorem wrBytes_bad (s : State) (a : Nat) (l : List Byte) : (s.wrBytes a l).bad = s.bad := rfl
@[simp] theorem wrBytes_cur (s : State) (a : Nat) (l : List Byte) : (s.wrBytes a l).cur = s.cur := rfl
@[simp] theorem wrBytes_cl (s : State) (a : Nat) (l : List Byte) : (s.wrBytes a l).cl = s.cl := rfl
@[simp] theorem wrBytes_park (s : State) (a : Nat) (l : List Byte) : (s.wrBytes a l).park = s.park := rfl
@[simp] theorem wrBytes_dies (s : State) (a : Nat) (l : List Byte) : (s.wrBytes a l).dies = s.dies := rfl
@[simp] theorem wrBytes_jobs (s : State) (a : Nat) (l : List Byte) : (s.wrBytes a l).jobs = s.jobs := rfl
@[simp] theorem wrBytes_ctx (s : State) (a : Nat) (l : List Byte) : (s.wrBytes a l).ctx = s.ctx := rfl
@[simp] theorem wrBytes_turns (s : State) (a : Nat) (l : List Byte) : (s.wrBytes a l).turns = s.turns := rfl
@[simp] theorem wrBytes_clk (s : State) (a : Nat) (l : List Byte) : (s.wrBytes a l).clk = s.clk := rfl
@[simp] theorem wrBytes_mtime (s : State) (a : Nat) (l : List Byte) : (s.wrBytes a l).mtime = s.mtime := rfl
@[simp] theorem wrBytes_nsAcc (s : State) (a : Nat) (l : List Byte) : (s.wrBytes a l).nsAcc = s.nsAcc := rfl
@[simp] theorem wrBytes_net (s : State) (a : Nat) (l : List Byte) : (s.wrBytes a l).net = s.net := rfl
@[simp] theorem wrBytes_wire (s : State) (a : Nat) (l : List Byte) : (s.wrBytes a l).wire = s.wire := rfl
@[simp] theorem wrBytes_claims (s : State) (a : Nat) (l : List Byte) : (s.wrBytes a l).claims = s.claims := rfl
@[simp] theorem wrBytes_hold (s : State) (a : Nat) (l : List Byte) : (s.wrBytes a l).hold = s.hold := rfl
@[simp] theorem wrBytes_inputs (s : State) (a : Nat) (l : List Byte) : (s.wrBytes a l).inputs = s.inputs := rfl
@[simp] theorem wrBytes_boot (s : State) (a : Nat) (l : List Byte) : (s.wrBytes a l).boot = s.boot := rfl
@[simp] theorem wrBytes_port0 (s : State) (a : Nat) (l : List Byte) : (s.wrBytes a l).port0 = s.port0 := rfl
@[simp] theorem wrBytes_port1 (s : State) (a : Nat) (l : List Byte) : (s.wrBytes a l).port1 = s.port1 := rfl
@[simp] theorem wrBytes_irqs (s : State) (a : Nat) (l : List Byte) : (s.wrBytes a l).irqs = s.irqs := rfl
@[simp] theorem wrBytes_answers (s : State) (a : Nat) (l : List Byte) : (s.wrBytes a l).answers = s.answers := rfl
@[simp] theorem wrBytes_freq (s : State) (a : Nat) (l : List Byte) : (s.wrBytes a l).freq = s.freq := rfl
@[simp] theorem wrBytes_gaddr (s : State) (a : Nat) (l : List Byte) : (s.wrBytes a l).gaddr = s.gaddr := rfl
@[simp] theorem wrBytes_goven (s : State) (a : Nat) (l : List Byte) : (s.wrBytes a l).goven = s.goven := rfl
@[simp] theorem wrBytes_opns (s : State) (a : Nat) (l : List Byte) : (s.wrBytes a l).opns = s.opns := rfl
@[simp] theorem wrBytes_uvMet (s : State) (a : Nat) (l : List Byte) : (s.wrBytes a l).uvMet = s.uvMet := rfl
@[simp] theorem wrBytes_images (s : State) (a : Nat) (l : List Byte) : (s.wrBytes a l).images = s.images := rfl
@[simp] theorem wrBytes_stretch (s : State) (a : Nat) (l : List Byte) : (s.wrBytes a l).stretch = s.stretch := rfl
@[simp] theorem wrBytes_narrowed (s : State) (a : Nat) (l : List Byte) : (s.wrBytes a l).narrowed = s.narrowed := rfl
@[simp] theorem wrBytes_soRx (s : State) (a : Nat) (l : List Byte) : (s.wrBytes a l).soRx = s.soRx := rfl
@[simp] theorem wrBytes_soTx (s : State) (a : Nat) (l : List Byte) : (s.wrBytes a l).soTx = s.soTx := rfl
@[simp] theorem wrBytes_soIn (s : State) (a : Nat) (l : List Byte) : (s.wrBytes a l).soIn = s.soIn := rfl
@[simp] theorem wrBytes_soOut (s : State) (a : Nat) (l : List Byte) : (s.wrBytes a l).soOut = s.soOut := rfl
@[simp] theorem wrBytes_fresh (s : State) (a : Nat) (l : List Byte) : (s.wrBytes a l).fresh = s.fresh := rfl

/-! wrZero -/

@[simp] theorem wrZero_bad (s : State) (a n : Nat) : (s.wrZero a n).bad = s.bad := rfl
@[simp] theorem wrZero_cur (s : State) (a n : Nat) : (s.wrZero a n).cur = s.cur := rfl
@[simp] theorem wrZero_cl (s : State) (a n : Nat) : (s.wrZero a n).cl = s.cl := rfl
@[simp] theorem wrZero_park (s : State) (a n : Nat) : (s.wrZero a n).park = s.park := rfl
@[simp] theorem wrZero_dies (s : State) (a n : Nat) : (s.wrZero a n).dies = s.dies := rfl
@[simp] theorem wrZero_jobs (s : State) (a n : Nat) : (s.wrZero a n).jobs = s.jobs := rfl
@[simp] theorem wrZero_ctx (s : State) (a n : Nat) : (s.wrZero a n).ctx = s.ctx := rfl
@[simp] theorem wrZero_turns (s : State) (a n : Nat) : (s.wrZero a n).turns = s.turns := rfl
@[simp] theorem wrZero_clk (s : State) (a n : Nat) : (s.wrZero a n).clk = s.clk := rfl
@[simp] theorem wrZero_mtime (s : State) (a n : Nat) : (s.wrZero a n).mtime = s.mtime := rfl
@[simp] theorem wrZero_nsAcc (s : State) (a n : Nat) : (s.wrZero a n).nsAcc = s.nsAcc := rfl
@[simp] theorem wrZero_net (s : State) (a n : Nat) : (s.wrZero a n).net = s.net := rfl
@[simp] theorem wrZero_wire (s : State) (a n : Nat) : (s.wrZero a n).wire = s.wire := rfl
@[simp] theorem wrZero_claims (s : State) (a n : Nat) : (s.wrZero a n).claims = s.claims := rfl
@[simp] theorem wrZero_hold (s : State) (a n : Nat) : (s.wrZero a n).hold = s.hold := rfl
@[simp] theorem wrZero_inputs (s : State) (a n : Nat) : (s.wrZero a n).inputs = s.inputs := rfl
@[simp] theorem wrZero_boot (s : State) (a n : Nat) : (s.wrZero a n).boot = s.boot := rfl
@[simp] theorem wrZero_port0 (s : State) (a n : Nat) : (s.wrZero a n).port0 = s.port0 := rfl
@[simp] theorem wrZero_port1 (s : State) (a n : Nat) : (s.wrZero a n).port1 = s.port1 := rfl
@[simp] theorem wrZero_irqs (s : State) (a n : Nat) : (s.wrZero a n).irqs = s.irqs := rfl
@[simp] theorem wrZero_answers (s : State) (a n : Nat) : (s.wrZero a n).answers = s.answers := rfl
@[simp] theorem wrZero_freq (s : State) (a n : Nat) : (s.wrZero a n).freq = s.freq := rfl
@[simp] theorem wrZero_gaddr (s : State) (a n : Nat) : (s.wrZero a n).gaddr = s.gaddr := rfl
@[simp] theorem wrZero_goven (s : State) (a n : Nat) : (s.wrZero a n).goven = s.goven := rfl
@[simp] theorem wrZero_opns (s : State) (a n : Nat) : (s.wrZero a n).opns = s.opns := rfl
@[simp] theorem wrZero_uvMet (s : State) (a n : Nat) : (s.wrZero a n).uvMet = s.uvMet := rfl
@[simp] theorem wrZero_images (s : State) (a n : Nat) : (s.wrZero a n).images = s.images := rfl
@[simp] theorem wrZero_stretch (s : State) (a n : Nat) : (s.wrZero a n).stretch = s.stretch := rfl
@[simp] theorem wrZero_narrowed (s : State) (a n : Nat) : (s.wrZero a n).narrowed = s.narrowed := rfl
@[simp] theorem wrZero_soRx (s : State) (a n : Nat) : (s.wrZero a n).soRx = s.soRx := rfl
@[simp] theorem wrZero_soTx (s : State) (a n : Nat) : (s.wrZero a n).soTx = s.soTx := rfl
@[simp] theorem wrZero_soIn (s : State) (a n : Nat) : (s.wrZero a n).soIn = s.soIn := rfl
@[simp] theorem wrZero_soOut (s : State) (a n : Nat) : (s.wrZero a n).soOut = s.soOut := rfl
@[simp] theorem wrZero_fresh (s : State) (a n : Nat) : (s.wrZero a n).fresh = s.fresh := rfl

/-! clearBad -/

@[simp] theorem clearBad_cur (s : State) (a n : Nat) : (s.clearBad a n).cur = s.cur := rfl
@[simp] theorem clearBad_cl (s : State) (a n : Nat) : (s.clearBad a n).cl = s.cl := rfl
@[simp] theorem clearBad_park (s : State) (a n : Nat) : (s.clearBad a n).park = s.park := rfl
@[simp] theorem clearBad_dies (s : State) (a n : Nat) : (s.clearBad a n).dies = s.dies := rfl
@[simp] theorem clearBad_jobs (s : State) (a n : Nat) : (s.clearBad a n).jobs = s.jobs := rfl
@[simp] theorem clearBad_ctx (s : State) (a n : Nat) : (s.clearBad a n).ctx = s.ctx := rfl
@[simp] theorem clearBad_turns (s : State) (a n : Nat) : (s.clearBad a n).turns = s.turns := rfl
@[simp] theorem clearBad_clk (s : State) (a n : Nat) : (s.clearBad a n).clk = s.clk := rfl
@[simp] theorem clearBad_mtime (s : State) (a n : Nat) : (s.clearBad a n).mtime = s.mtime := rfl
@[simp] theorem clearBad_nsAcc (s : State) (a n : Nat) : (s.clearBad a n).nsAcc = s.nsAcc := rfl
@[simp] theorem clearBad_net (s : State) (a n : Nat) : (s.clearBad a n).net = s.net := rfl
@[simp] theorem clearBad_wire (s : State) (a n : Nat) : (s.clearBad a n).wire = s.wire := rfl
@[simp] theorem clearBad_claims (s : State) (a n : Nat) : (s.clearBad a n).claims = s.claims := rfl
@[simp] theorem clearBad_hold (s : State) (a n : Nat) : (s.clearBad a n).hold = s.hold := rfl
@[simp] theorem clearBad_inputs (s : State) (a n : Nat) : (s.clearBad a n).inputs = s.inputs := rfl
@[simp] theorem clearBad_boot (s : State) (a n : Nat) : (s.clearBad a n).boot = s.boot := rfl
@[simp] theorem clearBad_port0 (s : State) (a n : Nat) : (s.clearBad a n).port0 = s.port0 := rfl
@[simp] theorem clearBad_port1 (s : State) (a n : Nat) : (s.clearBad a n).port1 = s.port1 := rfl
@[simp] theorem clearBad_irqs (s : State) (a n : Nat) : (s.clearBad a n).irqs = s.irqs := rfl
@[simp] theorem clearBad_answers (s : State) (a n : Nat) : (s.clearBad a n).answers = s.answers := rfl
@[simp] theorem clearBad_freq (s : State) (a n : Nat) : (s.clearBad a n).freq = s.freq := rfl
@[simp] theorem clearBad_gaddr (s : State) (a n : Nat) : (s.clearBad a n).gaddr = s.gaddr := rfl
@[simp] theorem clearBad_goven (s : State) (a n : Nat) : (s.clearBad a n).goven = s.goven := rfl
@[simp] theorem clearBad_opns (s : State) (a n : Nat) : (s.clearBad a n).opns = s.opns := rfl
@[simp] theorem clearBad_uvMet (s : State) (a n : Nat) : (s.clearBad a n).uvMet = s.uvMet := rfl
@[simp] theorem clearBad_images (s : State) (a n : Nat) : (s.clearBad a n).images = s.images := rfl
@[simp] theorem clearBad_stretch (s : State) (a n : Nat) : (s.clearBad a n).stretch = s.stretch := rfl
@[simp] theorem clearBad_narrowed (s : State) (a n : Nat) : (s.clearBad a n).narrowed = s.narrowed := rfl
@[simp] theorem clearBad_soRx (s : State) (a n : Nat) : (s.clearBad a n).soRx = s.soRx := rfl
@[simp] theorem clearBad_soTx (s : State) (a n : Nat) : (s.clearBad a n).soTx = s.soTx := rfl
@[simp] theorem clearBad_soIn (s : State) (a n : Nat) : (s.clearBad a n).soIn = s.soIn := rfl
@[simp] theorem clearBad_soOut (s : State) (a n : Nat) : (s.clearBad a n).soOut = s.soOut := rfl
@[simp] theorem clearBad_fresh (s : State) (a n : Nat) : (s.clearBad a n).fresh = s.fresh := rfl

/-! setDie -/

@[simp] theorem setDie_mem (s : State) (d : Nat) (x : Die) : (s.setDie d x).mem = s.mem := rfl
@[simp] theorem setDie_bad (s : State) (d : Nat) (x : Die) : (s.setDie d x).bad = s.bad := rfl
@[simp] theorem setDie_cur (s : State) (d : Nat) (x : Die) : (s.setDie d x).cur = s.cur := rfl
@[simp] theorem setDie_cl (s : State) (d : Nat) (x : Die) : (s.setDie d x).cl = s.cl := rfl
@[simp] theorem setDie_park (s : State) (d : Nat) (x : Die) : (s.setDie d x).park = s.park := rfl
@[simp] theorem setDie_jobs (s : State) (d : Nat) (x : Die) : (s.setDie d x).jobs = s.jobs := rfl
@[simp] theorem setDie_ctx (s : State) (d : Nat) (x : Die) : (s.setDie d x).ctx = s.ctx := rfl
@[simp] theorem setDie_turns (s : State) (d : Nat) (x : Die) : (s.setDie d x).turns = s.turns := rfl
@[simp] theorem setDie_clk (s : State) (d : Nat) (x : Die) : (s.setDie d x).clk = s.clk := rfl
@[simp] theorem setDie_mtime (s : State) (d : Nat) (x : Die) : (s.setDie d x).mtime = s.mtime := rfl
@[simp] theorem setDie_nsAcc (s : State) (d : Nat) (x : Die) : (s.setDie d x).nsAcc = s.nsAcc := rfl
@[simp] theorem setDie_net (s : State) (d : Nat) (x : Die) : (s.setDie d x).net = s.net := rfl
@[simp] theorem setDie_wire (s : State) (d : Nat) (x : Die) : (s.setDie d x).wire = s.wire := rfl
@[simp] theorem setDie_claims (s : State) (d : Nat) (x : Die) : (s.setDie d x).claims = s.claims := rfl
@[simp] theorem setDie_hold (s : State) (d : Nat) (x : Die) : (s.setDie d x).hold = s.hold := rfl
@[simp] theorem setDie_inputs (s : State) (d : Nat) (x : Die) : (s.setDie d x).inputs = s.inputs := rfl
@[simp] theorem setDie_boot (s : State) (d : Nat) (x : Die) : (s.setDie d x).boot = s.boot := rfl
@[simp] theorem setDie_port0 (s : State) (d : Nat) (x : Die) : (s.setDie d x).port0 = s.port0 := rfl
@[simp] theorem setDie_port1 (s : State) (d : Nat) (x : Die) : (s.setDie d x).port1 = s.port1 := rfl
@[simp] theorem setDie_irqs (s : State) (d : Nat) (x : Die) : (s.setDie d x).irqs = s.irqs := rfl
@[simp] theorem setDie_answers (s : State) (d : Nat) (x : Die) : (s.setDie d x).answers = s.answers := rfl
@[simp] theorem setDie_freq (s : State) (d : Nat) (x : Die) : (s.setDie d x).freq = s.freq := rfl
@[simp] theorem setDie_gaddr (s : State) (d : Nat) (x : Die) : (s.setDie d x).gaddr = s.gaddr := rfl
@[simp] theorem setDie_goven (s : State) (d : Nat) (x : Die) : (s.setDie d x).goven = s.goven := rfl
@[simp] theorem setDie_opns (s : State) (d : Nat) (x : Die) : (s.setDie d x).opns = s.opns := rfl
@[simp] theorem setDie_uvMet (s : State) (d : Nat) (x : Die) : (s.setDie d x).uvMet = s.uvMet := rfl
@[simp] theorem setDie_images (s : State) (d : Nat) (x : Die) : (s.setDie d x).images = s.images := rfl
@[simp] theorem setDie_stretch (s : State) (d : Nat) (x : Die) : (s.setDie d x).stretch = s.stretch := rfl
@[simp] theorem setDie_narrowed (s : State) (d : Nat) (x : Die) : (s.setDie d x).narrowed = s.narrowed := rfl
@[simp] theorem setDie_soRx (s : State) (d : Nat) (x : Die) : (s.setDie d x).soRx = s.soRx := rfl
@[simp] theorem setDie_soTx (s : State) (d : Nat) (x : Die) : (s.setDie d x).soTx = s.soTx := rfl
@[simp] theorem setDie_soIn (s : State) (d : Nat) (x : Die) : (s.setDie d x).soIn = s.soIn := rfl
@[simp] theorem setDie_soOut (s : State) (d : Nat) (x : Die) : (s.setDie d x).soOut = s.soOut := rfl
@[simp] theorem setDie_fresh (s : State) (d : Nat) (x : Die) : (s.setDie d x).fresh = s.fresh := rfl

/-! updDie -/

@[simp] theorem updDie_mem (s : State) (d : Nat) (f : Die → Die) : (s.updDie d f).mem = s.mem := rfl
@[simp] theorem updDie_bad (s : State) (d : Nat) (f : Die → Die) : (s.updDie d f).bad = s.bad := rfl
@[simp] theorem updDie_cur (s : State) (d : Nat) (f : Die → Die) : (s.updDie d f).cur = s.cur := rfl
@[simp] theorem updDie_cl (s : State) (d : Nat) (f : Die → Die) : (s.updDie d f).cl = s.cl := rfl
@[simp] theorem updDie_park (s : State) (d : Nat) (f : Die → Die) : (s.updDie d f).park = s.park := rfl
@[simp] theorem updDie_jobs (s : State) (d : Nat) (f : Die → Die) : (s.updDie d f).jobs = s.jobs := rfl
@[simp] theorem updDie_ctx (s : State) (d : Nat) (f : Die → Die) : (s.updDie d f).ctx = s.ctx := rfl
@[simp] theorem updDie_turns (s : State) (d : Nat) (f : Die → Die) : (s.updDie d f).turns = s.turns := rfl
@[simp] theorem updDie_clk (s : State) (d : Nat) (f : Die → Die) : (s.updDie d f).clk = s.clk := rfl
@[simp] theorem updDie_mtime (s : State) (d : Nat) (f : Die → Die) : (s.updDie d f).mtime = s.mtime := rfl
@[simp] theorem updDie_nsAcc (s : State) (d : Nat) (f : Die → Die) : (s.updDie d f).nsAcc = s.nsAcc := rfl
@[simp] theorem updDie_net (s : State) (d : Nat) (f : Die → Die) : (s.updDie d f).net = s.net := rfl
@[simp] theorem updDie_wire (s : State) (d : Nat) (f : Die → Die) : (s.updDie d f).wire = s.wire := rfl
@[simp] theorem updDie_claims (s : State) (d : Nat) (f : Die → Die) : (s.updDie d f).claims = s.claims := rfl
@[simp] theorem updDie_hold (s : State) (d : Nat) (f : Die → Die) : (s.updDie d f).hold = s.hold := rfl
@[simp] theorem updDie_inputs (s : State) (d : Nat) (f : Die → Die) : (s.updDie d f).inputs = s.inputs := rfl
@[simp] theorem updDie_boot (s : State) (d : Nat) (f : Die → Die) : (s.updDie d f).boot = s.boot := rfl
@[simp] theorem updDie_port0 (s : State) (d : Nat) (f : Die → Die) : (s.updDie d f).port0 = s.port0 := rfl
@[simp] theorem updDie_port1 (s : State) (d : Nat) (f : Die → Die) : (s.updDie d f).port1 = s.port1 := rfl
@[simp] theorem updDie_irqs (s : State) (d : Nat) (f : Die → Die) : (s.updDie d f).irqs = s.irqs := rfl
@[simp] theorem updDie_answers (s : State) (d : Nat) (f : Die → Die) : (s.updDie d f).answers = s.answers := rfl
@[simp] theorem updDie_freq (s : State) (d : Nat) (f : Die → Die) : (s.updDie d f).freq = s.freq := rfl
@[simp] theorem updDie_gaddr (s : State) (d : Nat) (f : Die → Die) : (s.updDie d f).gaddr = s.gaddr := rfl
@[simp] theorem updDie_goven (s : State) (d : Nat) (f : Die → Die) : (s.updDie d f).goven = s.goven := rfl
@[simp] theorem updDie_opns (s : State) (d : Nat) (f : Die → Die) : (s.updDie d f).opns = s.opns := rfl
@[simp] theorem updDie_uvMet (s : State) (d : Nat) (f : Die → Die) : (s.updDie d f).uvMet = s.uvMet := rfl
@[simp] theorem updDie_images (s : State) (d : Nat) (f : Die → Die) : (s.updDie d f).images = s.images := rfl
@[simp] theorem updDie_stretch (s : State) (d : Nat) (f : Die → Die) : (s.updDie d f).stretch = s.stretch := rfl
@[simp] theorem updDie_narrowed (s : State) (d : Nat) (f : Die → Die) : (s.updDie d f).narrowed = s.narrowed := rfl
@[simp] theorem updDie_soRx (s : State) (d : Nat) (f : Die → Die) : (s.updDie d f).soRx = s.soRx := rfl
@[simp] theorem updDie_soTx (s : State) (d : Nat) (f : Die → Die) : (s.updDie d f).soTx = s.soTx := rfl
@[simp] theorem updDie_soIn (s : State) (d : Nat) (f : Die → Die) : (s.updDie d f).soIn = s.soIn := rfl
@[simp] theorem updDie_soOut (s : State) (d : Nat) (f : Die → Die) : (s.updDie d f).soOut = s.soOut := rfl
@[simp] theorem updDie_fresh (s : State) (d : Nat) (f : Die → Die) : (s.updDie d f).fresh = s.fresh := rfl

/-! setCluster -/

@[simp] theorem setCluster_bad (s : State) (k : Nat) (c : Cluster) : (s.setCluster k c).bad = s.bad := by unfold State.setCluster; split <;> rfl
@[simp] theorem setCluster_cur (s : State) (k : Nat) (c : Cluster) : (s.setCluster k c).cur = s.cur := by unfold State.setCluster; split <;> rfl
@[simp] theorem setCluster_dies (s : State) (k : Nat) (c : Cluster) : (s.setCluster k c).dies = s.dies := by unfold State.setCluster; split <;> rfl
@[simp] theorem setCluster_jobs (s : State) (k : Nat) (c : Cluster) : (s.setCluster k c).jobs = s.jobs := by unfold State.setCluster; split <;> rfl
@[simp] theorem setCluster_ctx (s : State) (k : Nat) (c : Cluster) : (s.setCluster k c).ctx = s.ctx := by unfold State.setCluster; split <;> rfl
@[simp] theorem setCluster_turns (s : State) (k : Nat) (c : Cluster) : (s.setCluster k c).turns = s.turns := by unfold State.setCluster; split <;> rfl
@[simp] theorem setCluster_clk (s : State) (k : Nat) (c : Cluster) : (s.setCluster k c).clk = s.clk := by unfold State.setCluster; split <;> rfl
@[simp] theorem setCluster_mtime (s : State) (k : Nat) (c : Cluster) : (s.setCluster k c).mtime = s.mtime := by unfold State.setCluster; split <;> rfl
@[simp] theorem setCluster_nsAcc (s : State) (k : Nat) (c : Cluster) : (s.setCluster k c).nsAcc = s.nsAcc := by unfold State.setCluster; split <;> rfl
@[simp] theorem setCluster_net (s : State) (k : Nat) (c : Cluster) : (s.setCluster k c).net = s.net := by unfold State.setCluster; split <;> rfl
@[simp] theorem setCluster_wire (s : State) (k : Nat) (c : Cluster) : (s.setCluster k c).wire = s.wire := by unfold State.setCluster; split <;> rfl
@[simp] theorem setCluster_claims (s : State) (k : Nat) (c : Cluster) : (s.setCluster k c).claims = s.claims := by unfold State.setCluster; split <;> rfl
@[simp] theorem setCluster_hold (s : State) (k : Nat) (c : Cluster) : (s.setCluster k c).hold = s.hold := by unfold State.setCluster; split <;> rfl
@[simp] theorem setCluster_inputs (s : State) (k : Nat) (c : Cluster) : (s.setCluster k c).inputs = s.inputs := by unfold State.setCluster; split <;> rfl
@[simp] theorem setCluster_boot (s : State) (k : Nat) (c : Cluster) : (s.setCluster k c).boot = s.boot := by unfold State.setCluster; split <;> rfl
@[simp] theorem setCluster_port0 (s : State) (k : Nat) (c : Cluster) : (s.setCluster k c).port0 = s.port0 := by unfold State.setCluster; split <;> rfl
@[simp] theorem setCluster_port1 (s : State) (k : Nat) (c : Cluster) : (s.setCluster k c).port1 = s.port1 := by unfold State.setCluster; split <;> rfl
@[simp] theorem setCluster_irqs (s : State) (k : Nat) (c : Cluster) : (s.setCluster k c).irqs = s.irqs := by unfold State.setCluster; split <;> rfl
@[simp] theorem setCluster_answers (s : State) (k : Nat) (c : Cluster) : (s.setCluster k c).answers = s.answers := by unfold State.setCluster; split <;> rfl
@[simp] theorem setCluster_freq (s : State) (k : Nat) (c : Cluster) : (s.setCluster k c).freq = s.freq := by unfold State.setCluster; split <;> rfl
@[simp] theorem setCluster_gaddr (s : State) (k : Nat) (c : Cluster) : (s.setCluster k c).gaddr = s.gaddr := by unfold State.setCluster; split <;> rfl
@[simp] theorem setCluster_goven (s : State) (k : Nat) (c : Cluster) : (s.setCluster k c).goven = s.goven := by unfold State.setCluster; split <;> rfl
@[simp] theorem setCluster_opns (s : State) (k : Nat) (c : Cluster) : (s.setCluster k c).opns = s.opns := by unfold State.setCluster; split <;> rfl
@[simp] theorem setCluster_uvMet (s : State) (k : Nat) (c : Cluster) : (s.setCluster k c).uvMet = s.uvMet := by unfold State.setCluster; split <;> rfl
@[simp] theorem setCluster_images (s : State) (k : Nat) (c : Cluster) : (s.setCluster k c).images = s.images := by unfold State.setCluster; split <;> rfl
@[simp] theorem setCluster_stretch (s : State) (k : Nat) (c : Cluster) : (s.setCluster k c).stretch = s.stretch := by unfold State.setCluster; split <;> rfl
@[simp] theorem setCluster_narrowed (s : State) (k : Nat) (c : Cluster) : (s.setCluster k c).narrowed = s.narrowed := by unfold State.setCluster; split <;> rfl
@[simp] theorem setCluster_soRx (s : State) (k : Nat) (c : Cluster) : (s.setCluster k c).soRx = s.soRx := by unfold State.setCluster; split <;> rfl
@[simp] theorem setCluster_soTx (s : State) (k : Nat) (c : Cluster) : (s.setCluster k c).soTx = s.soTx := by unfold State.setCluster; split <;> rfl
@[simp] theorem setCluster_soIn (s : State) (k : Nat) (c : Cluster) : (s.setCluster k c).soIn = s.soIn := by unfold State.setCluster; split <;> rfl
@[simp] theorem setCluster_soOut (s : State) (k : Nat) (c : Cluster) : (s.setCluster k c).soOut = s.soOut := by unfold State.setCluster; split <;> rfl
@[simp] theorem setCluster_fresh (s : State) (k : Nat) (c : Cluster) : (s.setCluster k c).fresh = s.fresh := by unfold State.setCluster; split <;> rfl

/-! clearTags -/

@[simp] theorem clearTags_bad (s : State) (a n : Nat) : (s.clearTags a n).bad = s.bad := by unfold State.clearTags; simp only; split <;> first | exact setCluster_bad _ _ _ | rfl
@[simp] theorem clearTags_cur (s : State) (a n : Nat) : (s.clearTags a n).cur = s.cur := by unfold State.clearTags; simp only; split <;> first | exact setCluster_cur _ _ _ | rfl
@[simp] theorem clearTags_dies (s : State) (a n : Nat) : (s.clearTags a n).dies = s.dies := by unfold State.clearTags; simp only; split <;> first | exact setCluster_dies _ _ _ | rfl
@[simp] theorem clearTags_jobs (s : State) (a n : Nat) : (s.clearTags a n).jobs = s.jobs := by unfold State.clearTags; simp only; split <;> first | exact setCluster_jobs _ _ _ | rfl
@[simp] theorem clearTags_ctx (s : State) (a n : Nat) : (s.clearTags a n).ctx = s.ctx := by unfold State.clearTags; simp only; split <;> first | exact setCluster_ctx _ _ _ | rfl
@[simp] theorem clearTags_turns (s : State) (a n : Nat) : (s.clearTags a n).turns = s.turns := by unfold State.clearTags; simp only; split <;> first | exact setCluster_turns _ _ _ | rfl
@[simp] theorem clearTags_clk (s : State) (a n : Nat) : (s.clearTags a n).clk = s.clk := by unfold State.clearTags; simp only; split <;> first | exact setCluster_clk _ _ _ | rfl
@[simp] theorem clearTags_mtime (s : State) (a n : Nat) : (s.clearTags a n).mtime = s.mtime := by unfold State.clearTags; simp only; split <;> first | exact setCluster_mtime _ _ _ | rfl
@[simp] theorem clearTags_nsAcc (s : State) (a n : Nat) : (s.clearTags a n).nsAcc = s.nsAcc := by unfold State.clearTags; simp only; split <;> first | exact setCluster_nsAcc _ _ _ | rfl
@[simp] theorem clearTags_net (s : State) (a n : Nat) : (s.clearTags a n).net = s.net := by unfold State.clearTags; simp only; split <;> first | exact setCluster_net _ _ _ | rfl
@[simp] theorem clearTags_wire (s : State) (a n : Nat) : (s.clearTags a n).wire = s.wire := by unfold State.clearTags; simp only; split <;> first | exact setCluster_wire _ _ _ | rfl
@[simp] theorem clearTags_claims (s : State) (a n : Nat) : (s.clearTags a n).claims = s.claims := by unfold State.clearTags; simp only; split <;> first | exact setCluster_claims _ _ _ | rfl
@[simp] theorem clearTags_hold (s : State) (a n : Nat) : (s.clearTags a n).hold = s.hold := by unfold State.clearTags; simp only; split <;> first | exact setCluster_hold _ _ _ | rfl
@[simp] theorem clearTags_inputs (s : State) (a n : Nat) : (s.clearTags a n).inputs = s.inputs := by unfold State.clearTags; simp only; split <;> first | exact setCluster_inputs _ _ _ | rfl
@[simp] theorem clearTags_boot (s : State) (a n : Nat) : (s.clearTags a n).boot = s.boot := by unfold State.clearTags; simp only; split <;> first | exact setCluster_boot _ _ _ | rfl
@[simp] theorem clearTags_port0 (s : State) (a n : Nat) : (s.clearTags a n).port0 = s.port0 := by unfold State.clearTags; simp only; split <;> first | exact setCluster_port0 _ _ _ | rfl
@[simp] theorem clearTags_port1 (s : State) (a n : Nat) : (s.clearTags a n).port1 = s.port1 := by unfold State.clearTags; simp only; split <;> first | exact setCluster_port1 _ _ _ | rfl
@[simp] theorem clearTags_irqs (s : State) (a n : Nat) : (s.clearTags a n).irqs = s.irqs := by unfold State.clearTags; simp only; split <;> first | exact setCluster_irqs _ _ _ | rfl
@[simp] theorem clearTags_answers (s : State) (a n : Nat) : (s.clearTags a n).answers = s.answers := by unfold State.clearTags; simp only; split <;> first | exact setCluster_answers _ _ _ | rfl
@[simp] theorem clearTags_freq (s : State) (a n : Nat) : (s.clearTags a n).freq = s.freq := by unfold State.clearTags; simp only; split <;> first | exact setCluster_freq _ _ _ | rfl
@[simp] theorem clearTags_gaddr (s : State) (a n : Nat) : (s.clearTags a n).gaddr = s.gaddr := by unfold State.clearTags; simp only; split <;> first | exact setCluster_gaddr _ _ _ | rfl
@[simp] theorem clearTags_goven (s : State) (a n : Nat) : (s.clearTags a n).goven = s.goven := by unfold State.clearTags; simp only; split <;> first | exact setCluster_goven _ _ _ | rfl
@[simp] theorem clearTags_opns (s : State) (a n : Nat) : (s.clearTags a n).opns = s.opns := by unfold State.clearTags; simp only; split <;> first | exact setCluster_opns _ _ _ | rfl
@[simp] theorem clearTags_uvMet (s : State) (a n : Nat) : (s.clearTags a n).uvMet = s.uvMet := by unfold State.clearTags; simp only; split <;> first | exact setCluster_uvMet _ _ _ | rfl
@[simp] theorem clearTags_images (s : State) (a n : Nat) : (s.clearTags a n).images = s.images := by unfold State.clearTags; simp only; split <;> first | exact setCluster_images _ _ _ | rfl
@[simp] theorem clearTags_stretch (s : State) (a n : Nat) : (s.clearTags a n).stretch = s.stretch := by unfold State.clearTags; simp only; split <;> first | exact setCluster_stretch _ _ _ | rfl
@[simp] theorem clearTags_narrowed (s : State) (a n : Nat) : (s.clearTags a n).narrowed = s.narrowed := by unfold State.clearTags; simp only; split <;> first | exact setCluster_narrowed _ _ _ | rfl
@[simp] theorem clearTags_soRx (s : State) (a n : Nat) : (s.clearTags a n).soRx = s.soRx := by unfold State.clearTags; simp only; split <;> first | exact setCluster_soRx _ _ _ | rfl
@[simp] theorem clearTags_soTx (s : State) (a n : Nat) : (s.clearTags a n).soTx = s.soTx := by unfold State.clearTags; simp only; split <;> first | exact setCluster_soTx _ _ _ | rfl
@[simp] theorem clearTags_soIn (s : State) (a n : Nat) : (s.clearTags a n).soIn = s.soIn := by unfold State.clearTags; simp only; split <;> first | exact setCluster_soIn _ _ _ | rfl
@[simp] theorem clearTags_soOut (s : State) (a n : Nat) : (s.clearTags a n).soOut = s.soOut := by unfold State.clearTags; simp only; split <;> first | exact setCluster_soOut _ _ _ | rfl
@[simp] theorem clearTags_fresh (s : State) (a n : Nat) : (s.clearTags a n).fresh = s.fresh := by unfold State.clearTags; simp only; split <;> first | exact setCluster_fresh _ _ _ | rfl

/-! focus -/

@[simp] theorem focus_mem (s : State) (k : Nat) : (s.focus k).mem = s.mem := by unfold State.focus; split <;> rfl
@[simp] theorem focus_bad (s : State) (k : Nat) : (s.focus k).bad = s.bad := by unfold State.focus; split <;> rfl
@[simp] theorem focus_dies (s : State) (k : Nat) : (s.focus k).dies = s.dies := by unfold State.focus; split <;> rfl
@[simp] theorem focus_jobs (s : State) (k : Nat) : (s.focus k).jobs = s.jobs := by unfold State.focus; split <;> rfl
@[simp] theorem focus_ctx (s : State) (k : Nat) : (s.focus k).ctx = s.ctx := by unfold State.focus; split <;> rfl
@[simp] theorem focus_turns (s : State) (k : Nat) : (s.focus k).turns = s.turns := by unfold State.focus; split <;> rfl
@[simp] theorem focus_clk (s : State) (k : Nat) : (s.focus k).clk = s.clk := by unfold State.focus; split <;> rfl
@[simp] theorem focus_mtime (s : State) (k : Nat) : (s.focus k).mtime = s.mtime := by unfold State.focus; split <;> rfl
@[simp] theorem focus_nsAcc (s : State) (k : Nat) : (s.focus k).nsAcc = s.nsAcc := by unfold State.focus; split <;> rfl
@[simp] theorem focus_net (s : State) (k : Nat) : (s.focus k).net = s.net := by unfold State.focus; split <;> rfl
@[simp] theorem focus_wire (s : State) (k : Nat) : (s.focus k).wire = s.wire := by unfold State.focus; split <;> rfl
@[simp] theorem focus_claims (s : State) (k : Nat) : (s.focus k).claims = s.claims := by unfold State.focus; split <;> rfl
@[simp] theorem focus_hold (s : State) (k : Nat) : (s.focus k).hold = s.hold := by unfold State.focus; split <;> rfl
@[simp] theorem focus_inputs (s : State) (k : Nat) : (s.focus k).inputs = s.inputs := by unfold State.focus; split <;> rfl
@[simp] theorem focus_boot (s : State) (k : Nat) : (s.focus k).boot = s.boot := by unfold State.focus; split <;> rfl
@[simp] theorem focus_port0 (s : State) (k : Nat) : (s.focus k).port0 = s.port0 := by unfold State.focus; split <;> rfl
@[simp] theorem focus_port1 (s : State) (k : Nat) : (s.focus k).port1 = s.port1 := by unfold State.focus; split <;> rfl
@[simp] theorem focus_irqs (s : State) (k : Nat) : (s.focus k).irqs = s.irqs := by unfold State.focus; split <;> rfl
@[simp] theorem focus_answers (s : State) (k : Nat) : (s.focus k).answers = s.answers := by unfold State.focus; split <;> rfl
@[simp] theorem focus_freq (s : State) (k : Nat) : (s.focus k).freq = s.freq := by unfold State.focus; split <;> rfl
@[simp] theorem focus_gaddr (s : State) (k : Nat) : (s.focus k).gaddr = s.gaddr := by unfold State.focus; split <;> rfl
@[simp] theorem focus_goven (s : State) (k : Nat) : (s.focus k).goven = s.goven := by unfold State.focus; split <;> rfl
@[simp] theorem focus_opns (s : State) (k : Nat) : (s.focus k).opns = s.opns := by unfold State.focus; split <;> rfl
@[simp] theorem focus_uvMet (s : State) (k : Nat) : (s.focus k).uvMet = s.uvMet := by unfold State.focus; split <;> rfl
@[simp] theorem focus_images (s : State) (k : Nat) : (s.focus k).images = s.images := by unfold State.focus; split <;> rfl
@[simp] theorem focus_stretch (s : State) (k : Nat) : (s.focus k).stretch = s.stretch := by unfold State.focus; split <;> rfl
@[simp] theorem focus_narrowed (s : State) (k : Nat) : (s.focus k).narrowed = s.narrowed := by unfold State.focus; split <;> rfl
@[simp] theorem focus_soRx (s : State) (k : Nat) : (s.focus k).soRx = s.soRx := by unfold State.focus; split <;> rfl
@[simp] theorem focus_soTx (s : State) (k : Nat) : (s.focus k).soTx = s.soTx := by unfold State.focus; split <;> rfl
@[simp] theorem focus_soIn (s : State) (k : Nat) : (s.focus k).soIn = s.soIn := by unfold State.focus; split <;> rfl
@[simp] theorem focus_soOut (s : State) (k : Nat) : (s.focus k).soOut = s.soOut := by unfold State.focus; split <;> rfl
@[simp] theorem focus_fresh (s : State) (k : Nat) : (s.focus k).fresh = s.fresh := by unfold State.focus; split <;> rfl

/-! setPrimary -/

@[simp] theorem setPrimary_mem (s : State) (p : HostPort) : (s.setPrimary p).mem = s.mem := by unfold State.setPrimary; split <;> rfl
@[simp] theorem setPrimary_bad (s : State) (p : HostPort) : (s.setPrimary p).bad = s.bad := by unfold State.setPrimary; split <;> rfl
@[simp] theorem setPrimary_cur (s : State) (p : HostPort) : (s.setPrimary p).cur = s.cur := by unfold State.setPrimary; split <;> rfl
@[simp] theorem setPrimary_cl (s : State) (p : HostPort) : (s.setPrimary p).cl = s.cl := by unfold State.setPrimary; split <;> rfl
@[simp] theorem setPrimary_park (s : State) (p : HostPort) : (s.setPrimary p).park = s.park := by unfold State.setPrimary; split <;> rfl
@[simp] theorem setPrimary_dies (s : State) (p : HostPort) : (s.setPrimary p).dies = s.dies := by unfold State.setPrimary; split <;> rfl
@[simp] theorem setPrimary_jobs (s : State) (p : HostPort) : (s.setPrimary p).jobs = s.jobs := by unfold State.setPrimary; split <;> rfl
@[simp] theorem setPrimary_ctx (s : State) (p : HostPort) : (s.setPrimary p).ctx = s.ctx := by unfold State.setPrimary; split <;> rfl
@[simp] theorem setPrimary_turns (s : State) (p : HostPort) : (s.setPrimary p).turns = s.turns := by unfold State.setPrimary; split <;> rfl
@[simp] theorem setPrimary_clk (s : State) (p : HostPort) : (s.setPrimary p).clk = s.clk := by unfold State.setPrimary; split <;> rfl
@[simp] theorem setPrimary_mtime (s : State) (p : HostPort) : (s.setPrimary p).mtime = s.mtime := by unfold State.setPrimary; split <;> rfl
@[simp] theorem setPrimary_nsAcc (s : State) (p : HostPort) : (s.setPrimary p).nsAcc = s.nsAcc := by unfold State.setPrimary; split <;> rfl
@[simp] theorem setPrimary_net (s : State) (p : HostPort) : (s.setPrimary p).net = s.net := by unfold State.setPrimary; split <;> rfl
@[simp] theorem setPrimary_wire (s : State) (p : HostPort) : (s.setPrimary p).wire = s.wire := by unfold State.setPrimary; split <;> rfl
@[simp] theorem setPrimary_claims (s : State) (p : HostPort) : (s.setPrimary p).claims = s.claims := by unfold State.setPrimary; split <;> rfl
@[simp] theorem setPrimary_hold (s : State) (p : HostPort) : (s.setPrimary p).hold = s.hold := by unfold State.setPrimary; split <;> rfl
@[simp] theorem setPrimary_inputs (s : State) (p : HostPort) : (s.setPrimary p).inputs = s.inputs := by unfold State.setPrimary; split <;> rfl
@[simp] theorem setPrimary_boot (s : State) (p : HostPort) : (s.setPrimary p).boot = s.boot := by unfold State.setPrimary; split <;> rfl
@[simp] theorem setPrimary_irqs (s : State) (p : HostPort) : (s.setPrimary p).irqs = s.irqs := by unfold State.setPrimary; split <;> rfl
@[simp] theorem setPrimary_answers (s : State) (p : HostPort) : (s.setPrimary p).answers = s.answers := by unfold State.setPrimary; split <;> rfl
@[simp] theorem setPrimary_freq (s : State) (p : HostPort) : (s.setPrimary p).freq = s.freq := by unfold State.setPrimary; split <;> rfl
@[simp] theorem setPrimary_gaddr (s : State) (p : HostPort) : (s.setPrimary p).gaddr = s.gaddr := by unfold State.setPrimary; split <;> rfl
@[simp] theorem setPrimary_goven (s : State) (p : HostPort) : (s.setPrimary p).goven = s.goven := by unfold State.setPrimary; split <;> rfl
@[simp] theorem setPrimary_opns (s : State) (p : HostPort) : (s.setPrimary p).opns = s.opns := by unfold State.setPrimary; split <;> rfl
@[simp] theorem setPrimary_uvMet (s : State) (p : HostPort) : (s.setPrimary p).uvMet = s.uvMet := by unfold State.setPrimary; split <;> rfl
@[simp] theorem setPrimary_images (s : State) (p : HostPort) : (s.setPrimary p).images = s.images := by unfold State.setPrimary; split <;> rfl
@[simp] theorem setPrimary_stretch (s : State) (p : HostPort) : (s.setPrimary p).stretch = s.stretch := by unfold State.setPrimary; split <;> rfl
@[simp] theorem setPrimary_narrowed (s : State) (p : HostPort) : (s.setPrimary p).narrowed = s.narrowed := by unfold State.setPrimary; split <;> rfl
@[simp] theorem setPrimary_soRx (s : State) (p : HostPort) : (s.setPrimary p).soRx = s.soRx := by unfold State.setPrimary; split <;> rfl
@[simp] theorem setPrimary_soTx (s : State) (p : HostPort) : (s.setPrimary p).soTx = s.soTx := by unfold State.setPrimary; split <;> rfl
@[simp] theorem setPrimary_soIn (s : State) (p : HostPort) : (s.setPrimary p).soIn = s.soIn := by unfold State.setPrimary; split <;> rfl
@[simp] theorem setPrimary_soOut (s : State) (p : HostPort) : (s.setPrimary p).soOut = s.soOut := by unfold State.setPrimary; split <;> rfl
@[simp] theorem setPrimary_fresh (s : State) (p : HostPort) : (s.setPrimary p).fresh = s.fresh := by unfold State.setPrimary; split <;> rfl

/-! interrupt -/

@[simp] theorem interrupt_mem (s : State) (v : Nat) : (s.interrupt v).mem = s.mem := by unfold State.interrupt State.setPrimary; simp only; split <;> first | rfl | (split <;> rfl)
@[simp] theorem interrupt_bad (s : State) (v : Nat) : (s.interrupt v).bad = s.bad := by unfold State.interrupt State.setPrimary; simp only; split <;> first | rfl | (split <;> rfl)
@[simp] theorem interrupt_cur (s : State) (v : Nat) : (s.interrupt v).cur = s.cur := by unfold State.interrupt State.setPrimary; simp only; split <;> first | rfl | (split <;> rfl)
@[simp] theorem interrupt_cl (s : State) (v : Nat) : (s.interrupt v).cl = s.cl := by unfold State.interrupt State.setPrimary; simp only; split <;> first | rfl | (split <;> rfl)
@[simp] theorem interrupt_park (s : State) (v : Nat) : (s.interrupt v).park = s.park := by unfold State.interrupt State.setPrimary; simp only; split <;> first | rfl | (split <;> rfl)
@[simp] theorem interrupt_dies (s : State) (v : Nat) : (s.interrupt v).dies = s.dies := by unfold State.interrupt State.setPrimary; simp only; split <;> first | rfl | (split <;> rfl)
@[simp] theorem interrupt_jobs (s : State) (v : Nat) : (s.interrupt v).jobs = s.jobs := by unfold State.interrupt State.setPrimary; simp only; split <;> first | rfl | (split <;> rfl)
@[simp] theorem interrupt_ctx (s : State) (v : Nat) : (s.interrupt v).ctx = s.ctx := by unfold State.interrupt State.setPrimary; simp only; split <;> first | rfl | (split <;> rfl)
@[simp] theorem interrupt_turns (s : State) (v : Nat) : (s.interrupt v).turns = s.turns := by unfold State.interrupt State.setPrimary; simp only; split <;> first | rfl | (split <;> rfl)
@[simp] theorem interrupt_clk (s : State) (v : Nat) : (s.interrupt v).clk = s.clk := by unfold State.interrupt State.setPrimary; simp only; split <;> first | rfl | (split <;> rfl)
@[simp] theorem interrupt_mtime (s : State) (v : Nat) : (s.interrupt v).mtime = s.mtime := by unfold State.interrupt State.setPrimary; simp only; split <;> first | rfl | (split <;> rfl)
@[simp] theorem interrupt_nsAcc (s : State) (v : Nat) : (s.interrupt v).nsAcc = s.nsAcc := by unfold State.interrupt State.setPrimary; simp only; split <;> first | rfl | (split <;> rfl)
@[simp] theorem interrupt_net (s : State) (v : Nat) : (s.interrupt v).net = s.net := by unfold State.interrupt State.setPrimary; simp only; split <;> first | rfl | (split <;> rfl)
@[simp] theorem interrupt_wire (s : State) (v : Nat) : (s.interrupt v).wire = s.wire := by unfold State.interrupt State.setPrimary; simp only; split <;> first | rfl | (split <;> rfl)
@[simp] theorem interrupt_claims (s : State) (v : Nat) : (s.interrupt v).claims = s.claims := by unfold State.interrupt State.setPrimary; simp only; split <;> first | rfl | (split <;> rfl)
@[simp] theorem interrupt_hold (s : State) (v : Nat) : (s.interrupt v).hold = s.hold := by unfold State.interrupt State.setPrimary; simp only; split <;> first | rfl | (split <;> rfl)
@[simp] theorem interrupt_inputs (s : State) (v : Nat) : (s.interrupt v).inputs = s.inputs := by unfold State.interrupt State.setPrimary; simp only; split <;> first | rfl | (split <;> rfl)
@[simp] theorem interrupt_boot (s : State) (v : Nat) : (s.interrupt v).boot = s.boot := by unfold State.interrupt State.setPrimary; simp only; split <;> first | rfl | (split <;> rfl)
@[simp] theorem interrupt_answers (s : State) (v : Nat) : (s.interrupt v).answers = s.answers := by unfold State.interrupt State.setPrimary; simp only; split <;> first | rfl | (split <;> rfl)
@[simp] theorem interrupt_freq (s : State) (v : Nat) : (s.interrupt v).freq = s.freq := by unfold State.interrupt State.setPrimary; simp only; split <;> first | rfl | (split <;> rfl)
@[simp] theorem interrupt_gaddr (s : State) (v : Nat) : (s.interrupt v).gaddr = s.gaddr := by unfold State.interrupt State.setPrimary; simp only; split <;> first | rfl | (split <;> rfl)
@[simp] theorem interrupt_goven (s : State) (v : Nat) : (s.interrupt v).goven = s.goven := by unfold State.interrupt State.setPrimary; simp only; split <;> first | rfl | (split <;> rfl)
@[simp] theorem interrupt_opns (s : State) (v : Nat) : (s.interrupt v).opns = s.opns := by unfold State.interrupt State.setPrimary; simp only; split <;> first | rfl | (split <;> rfl)
@[simp] theorem interrupt_uvMet (s : State) (v : Nat) : (s.interrupt v).uvMet = s.uvMet := by unfold State.interrupt State.setPrimary; simp only; split <;> first | rfl | (split <;> rfl)
@[simp] theorem interrupt_images (s : State) (v : Nat) : (s.interrupt v).images = s.images := by unfold State.interrupt State.setPrimary; simp only; split <;> first | rfl | (split <;> rfl)
@[simp] theorem interrupt_stretch (s : State) (v : Nat) : (s.interrupt v).stretch = s.stretch := by unfold State.interrupt State.setPrimary; simp only; split <;> first | rfl | (split <;> rfl)
@[simp] theorem interrupt_narrowed (s : State) (v : Nat) : (s.interrupt v).narrowed = s.narrowed := by unfold State.interrupt State.setPrimary; simp only; split <;> first | rfl | (split <;> rfl)
@[simp] theorem interrupt_soRx (s : State) (v : Nat) : (s.interrupt v).soRx = s.soRx := by unfold State.interrupt State.setPrimary; simp only; split <;> first | rfl | (split <;> rfl)
@[simp] theorem interrupt_soTx (s : State) (v : Nat) : (s.interrupt v).soTx = s.soTx := by unfold State.interrupt State.setPrimary; simp only; split <;> first | rfl | (split <;> rfl)
@[simp] theorem interrupt_soIn (s : State) (v : Nat) : (s.interrupt v).soIn = s.soIn := by unfold State.interrupt State.setPrimary; simp only; split <;> first | rfl | (split <;> rfl)
@[simp] theorem interrupt_soOut (s : State) (v : Nat) : (s.interrupt v).soOut = s.soOut := by unfold State.interrupt State.setPrimary; simp only; split <;> first | rfl | (split <;> rfl)
@[simp] theorem interrupt_fresh (s : State) (v : Nat) : (s.interrupt v).fresh = s.fresh := by unfold State.interrupt State.setPrimary; simp only; split <;> first | rfl | (split <;> rfl)

end Sys2Proof.Machine
end

