-- ==== Sys2Proof/Laws/Ops.lean ====
section
/-! SUPPORT. Once for each shared operation, everything that it can do: block moves of memory, event records and faults,
scratchpad accesses, semaphores, waits, the checks and the issue of a command, vector results. -/
namespace Sys2Proof.Machine

/-! Block moves keep the canonical form and move what they say. -/

theorem shift_wf (m : SMap Byte) (f : Nat → Nat) (p : Nat × Byte → Bool) (h : Memory.wf m = true)
    (hf : ∀ e ∈ m, ∀ e' ∈ m, p e = true → p e' = true → e.1 < e'.1 → f e.1 < f e'.1) :
    Memory.wf ((m.filter p).map fun e => (f e.1, e.2)) = true := by
  have hw : SMap.wf 0 (m.filter p) = true := SMap.wf_filter 0 p m h
  rw [SMap.wf_iff] at hw
  refine (SMap.wf_iff 0 _).2 ⟨?_, ?_⟩
  · have h1 := hw.1
    rw [List.map_map, List.pairwise_map]
    rw [List.pairwise_map] at h1
    refine List.Pairwise.imp_of_mem ?_ h1
    intro a b ha hb hab
    have ha' := List.mem_filter.1 ha
    have hb' := List.mem_filter.1 hb
    exact hf a ha'.1 b hb'.1 ha'.2 hb'.2 hab
  · intro e he
    obtain ⟨x, hx, rfl⟩ := List.mem_map.1 he
    exact hw.2 x hx

/-- Entries whose numbers f moves without joining any two hold what they held. -/
theorem get_shift (m : SMap Byte) (f : Nat → Nat) (p : Nat → Bool) (k : Nat) (hk : p k = true)
    (hf : ∀ x, p x = true → f x = f k → x = k) :
    SMap.get 0 ((m.filter fun e => p e.1).map fun e => (f e.1, e.2)) (f k) = SMap.get 0 m k := by
  induction m with
  | nil => rfl
  | cons e t ih =>
    obtain ⟨a, v⟩ := e
    by_cases ha : a = k
    · subst ha
      simp [hk]
    · cases hp : p a
      · simpa [hp, ha] using ih
      · have hne : f a ≠ f k := fun c => ha (hf a hp c)
        simpa [hp, ha, hne] using ih

theorem moveMem_wf (s : State) (a b n : Nat) (h : Memory.wf s.mem = true) : Memory.wf (s.moveMem a b n).mem = true := by
  have hs : Memory.wf (shifted s.mem a n b) = true := by
    refine shift_wf s.mem (fun x => x - a + b) _ h ?_
    intro e _ e' _ hp hp' hlt
    simp only [Bool.and_eq_true, decide_eq_true_eq] at hp hp'
    omega
  have keys : ∀ e ∈ shifted s.mem a n b, b ≤ e.1 ∧ e.1 < b + n := by
    intro e he
    obtain ⟨x, hx, rfl⟩ := List.mem_map.1 he
    have := (List.mem_filter.1 hx).2
    simp only [Bool.and_eq_true, decide_eq_true_eq] at this
    simp only
    omega
  refine SMap.wf_append 0 _ _ (SMap.wf_append 0 _ _ (SMap.wf_filter 0 _ _ h) hs ?_) (SMap.wf_filter 0 _ _ h) ?_
  · intro e he f hf
    have h1 : e.1 < b := by simpa using (List.mem_filter.1 he).2
    exact Nat.lt_of_lt_of_le h1 (keys f hf).1
  · intro e he f hf
    have h2 : b + n ≤ f.1 := by simpa using (List.mem_filter.1 hf).2
    rcases List.mem_append.1 he with he | he
    · have h1 : e.1 < b := by simpa using (List.mem_filter.1 he).2
      omega
    · have := keys e he
      omega

theorem swapRegions_wf (s : State) (a n : Nat) (h : Memory.wf s.mem = true) :
    Memory.wf (s.swapRegions a n).mem = true := by
  have lowWf : Memory.wf ((s.mem.filter fun e => decide (a + n ≤ e.1) && decide (e.1 < a + 2 * n)).map
      fun e => (e.1 - n, e.2)) = true := by
    refine shift_wf s.mem (fun x => x - n) _ h ?_
    intro e _ e' _ hp hp' hlt
    simp only [Bool.and_eq_true, decide_eq_true_eq] at hp hp'
    omega
  have highWf : Memory.wf ((s.mem.filter fun e => decide (a ≤ e.1) && decide (e.1 < a + n)).map
      fun e => (e.1 + n, e.2)) = true := by
    refine shift_wf s.mem (fun x => x + n) _ h ?_
    intro e _ e' _ _ _ hlt
    omega
  have lowKeys : ∀ e ∈ (s.mem.filter fun e => decide (a + n ≤ e.1) && decide (e.1 < a + 2 * n)).map
      fun e => (e.1 - n, e.2), a ≤ e.1 ∧ e.1 < a + n := by
    intro e he
    obtain ⟨x, hx, rfl⟩ := List.mem_map.1 he
    have := (List.mem_filter.1 hx).2
    simp only [Bool.and_eq_true, decide_eq_true_eq] at this
    simp only
    omega
  have highKeys : ∀ e ∈ (s.mem.filter fun e => decide (a ≤ e.1) && decide (e.1 < a + n)).map
      fun e => (e.1 + n, e.2), a + n ≤ e.1 ∧ e.1 < a + 2 * n := by
    intro e he
    obtain ⟨x, hx, rfl⟩ := List.mem_map.1 he
    have := (List.mem_filter.1 hx).2
    simp only [Bool.and_eq_true, decide_eq_true_eq] at this
    simp only
    omega
  refine SMap.wf_append 0 _ _ (SMap.wf_append 0 _ _ (SMap.wf_append 0 _ _ (SMap.wf_filter 0 _ _ h) lowWf ?_) highWf ?_)
    (SMap.wf_filter 0 _ _ h) ?_
  · intro e he f hf
    have h1 : e.1 < a := by simpa using (List.mem_filter.1 he).2
    exact Nat.lt_of_lt_of_le h1 (lowKeys f hf).1
  · intro e he f hf
    have h2 := (highKeys f hf).1
    rcases List.mem_append.1 he with he | he
    · have h1 : e.1 < a := by simpa using (List.mem_filter.1 he).2
      omega
    · have := (lowKeys e he).2
      omega
  · intro e he f hf
    have h2 : a + 2 * n ≤ f.1 := by simpa using (List.mem_filter.1 hf).2
    rcases List.mem_append.1 he with he | he
    · rcases List.mem_append.1 he with he | he
      · have h1 : e.1 < a := by simpa using (List.mem_filter.1 he).2
        omega
      · have := (lowKeys e he).2
        omega
    · have := (highKeys e he).2
      omega

/-! Streams and registers: what memory, context and the other engines keep. -/

@[simp] theorem updStrm_mem (s : State) (f : StreamSt → StreamSt) : (s.updStrm f).mem = s.mem := rfl
@[simp] theorem updStrm_ctx (s : State) (f : StreamSt → StreamSt) : (s.updStrm f).ctx = s.ctx := rfl
@[simp] theorem updStrm_cur (s : State) (f : StreamSt → StreamSt) : (s.updStrm f).cur = s.cur := rfl
@[simp] theorem updCluster_mem (s : State) (k : Nat) (f : Cluster → Cluster) : (s.updCluster k f).mem = s.mem :=
  setCluster_mem s k _

@[simp] theorem setReg_mem (s : State) (r : BitVec 6) (v : Word64) : (s.setReg r v).mem = s.mem := by
  unfold State.setReg
  split <;> simp

@[simp] theorem setReg_ctx (s : State) (r : BitVec 6) (v : Word64) : (s.setReg r v).ctx = s.ctx := by
  unfold State.setReg
  split <;> simp

@[simp] theorem waits_mem (s : State) (cap : Option Nat) : (s.waits cap).mem = s.mem := rfl
@[simp] theorem waits_cl_s (s : State) (cap : Option Nat) : (s.waits cap).cl.s = s.cl.s := by
  unfold State.waits State.updStrm Cluster.setStr
  cases s.ctx.str <;> rfl

@[simp] theorem waits_cl_sem (s : State) (cap : Option Nat) : (s.waits cap).cl.sem = s.cl.sem := by
  unfold State.waits State.updStrm Cluster.setStr
  cases s.ctx.str <;> rfl

@[simp] theorem waits_cl_flt (s : State) (cap : Option Nat) : (s.waits cap).cl.flt = s.cl.flt := by
  unfold State.waits State.updStrm Cluster.setStr
  cases s.ctx.str <;> rfl

@[simp] theorem waits_ctx (s : State) (cap : Option Nat) : (s.waits cap).ctx = { s.ctx with wait := true } := rfl

@[simp] theorem overruns_mem (s : State) : s.overruns.mem = s.mem := rfl

@[simp] theorem waitsLate_mem (s : State) (late : Bool) : (s.waitsLate late).mem = s.mem := by
  unfold State.waitsLate
  split <;> simp

/-! Event records (R421): only host memory, the primary port, the vectors and EVLOST. -/

@[simp] theorem postEvent_cl (s : State) (code srck die idx : Nat) (b : List Byte) :
    (s.postEvent code srck die idx b).cl = s.cl := by
  unfold State.postEvent
  simp only
  split
  · rw [interrupt_cl, setPrimary_cl, wrBytes_cl]
  · rfl

@[simp] theorem postEvent_ctx (s : State) (code srck die idx : Nat) (b : List Byte) :
    (s.postEvent code srck die idx b).ctx = s.ctx := by
  unfold State.postEvent
  simp only
  split
  · rw [interrupt_ctx, setPrimary_ctx, wrBytes_ctx]
  · rfl

@[simp] theorem postEvent_cur (s : State) (code srck die idx : Nat) (b : List Byte) :
    (s.postEvent code srck die idx b).cur = s.cur := by
  unfold State.postEvent
  simp only
  split
  · rw [interrupt_cur, setPrimary_cur, wrBytes_cur]
  · rfl

theorem postEvent_wf (s : State) (code srck die idx : Nat) (b : List Byte) (h : Memory.wf s.mem = true) :
    Memory.wf (s.postEvent code srck die idx b).mem = true := by
  unfold State.postEvent
  simp only
  split
  · rw [interrupt_mem, setPrimary_mem]
    exact wrBytes_wf s _ _ h
  · exact h

/-- A record goes to host memory: every byte below it reads as before. -/
theorem rd8_postEvent (s : State) (code srck die idx : Nat) (b : List Byte) (x : Nat) (hx : x < 2 ^ 51) :
    (s.postEvent code srck die idx b).rd8 x = s.rd8 x := by
  unfold State.postEvent
  simp only
  split
  · rw [rd8_congr (interrupt_mem _ _) x, rd8_congr (setPrimary_mem _ _) x]
    rw [rd8_wrBytes, if_neg (by omega)]
  · rfl

/-! Taking a fault (R383): the record, the freeze and the held causes of the cluster, and nothing else of it. -/

@[simp] theorem meetUE_cl (s : State) (a : Nat) (j : Option (Nat × Nat)) : (s.meetUE a j).cl = s.cl := by
  unfold State.meetUE
  split <;> rfl

@[simp] theorem noteUE_cl (s : State) (a d : Nat) (j : Option (Nat × Nat)) : (s.noteUE a d j).cl = s.cl := by
  unfold State.noteUE
  rw [meetUE_cl]
  rfl

@[simp] theorem countTrap_cl (s : State) (t : Trap) : (s.countTrap t).cl = s.cl := by
  unfold State.countTrap
  split
  · exact noteUE_cl ..
  · rfl

@[simp] theorem meetUE_mem (s : State) (a : Nat) (j : Option (Nat × Nat)) : (s.meetUE a j).mem = s.mem := by
  unfold State.meetUE
  split <;> rfl

@[simp] theorem noteUE_mem (s : State) (a d : Nat) (j : Option (Nat × Nat)) : (s.noteUE a d j).mem = s.mem := by
  unfold State.noteUE
  rw [meetUE_mem]
  rfl

@[simp] theorem countTrap_mem (s : State) (t : Trap) : (s.countTrap t).mem = s.mem := by
  unfold State.countTrap
  split
  · exact noteUE_mem ..
  · rfl

@[simp] theorem meetUE_ctx (s : State) (a : Nat) (j : Option (Nat × Nat)) : (s.meetUE a j).ctx = s.ctx := by
  unfold State.meetUE
  split <;> rfl

@[simp] theorem noteUE_ctx (s : State) (a d : Nat) (j : Option (Nat × Nat)) : (s.noteUE a d j).ctx = s.ctx := by
  unfold State.noteUE
  rw [meetUE_ctx]
  rfl

@[simp] theorem countTrap_ctx (s : State) (t : Trap) : (s.countTrap t).ctx = s.ctx := by
  unfold State.countTrap
  split
  · exact noteUE_ctx ..
  · rfl

@[simp] theorem countFault_cl (s : State) : s.countFault.cl = s.cl := by
  unfold State.countFault
  split <;> rfl

@[simp] theorem countFault_mem (s : State) : s.countFault.mem = s.mem := by
  unfold State.countFault
  split <;> rfl

@[simp] theorem countFault_ctx (s : State) : s.countFault.ctx = s.ctx := by
  unfold State.countFault
  split <;> rfl

/-- Everything that taking a fault can do to the cluster. -/
theorem takeFault_cl (s : State) (t : Trap) : ∃ f z h n, (s.takeFault t).cl =
    { s.cl with flt := f, frz := z, heldF := h, fltNow := n } := by
  unfold State.takeFault State.recordFault State.postFault
  simp only [countTrap_cl]
  split
  · split
    · exact ⟨_, s.cl.frz, s.cl.heldF, s.cl.fltNow, by rw [postEvent_cl]⟩
    · exact ⟨s.cl.flt, s.cl.frz, _, s.cl.fltNow, rfl⟩
  · exact ⟨_, _, s.cl.heldF, _, by rw [countFault_cl, postEvent_cl]⟩

@[simp] theorem takeFault_ctx (s : State) (t : Trap) : (s.takeFault t).ctx = s.ctx := by
  unfold State.takeFault State.recordFault State.postFault
  simp only
  split
  · split <;> simp
  · simp

theorem takeFault_wf (s : State) (t : Trap) (h : Memory.wf s.mem = true) : Memory.wf (s.takeFault t).mem = true := by
  unfold State.takeFault State.recordFault State.postFault
  simp only
  split
  · split
    · exact postEvent_wf _ _ _ _ _ _ (by simpa using h)
    · simpa using h
  · rw [countFault_mem]
    exact postEvent_wf _ _ _ _ _ _ (by simpa using h)

theorem rd8_takeFault (s : State) (t : Trap) (x : Nat) (hx : x < 2 ^ 51) : (s.takeFault t).rd8 x = s.rd8 x := by
  have hc : ∀ u : State, u.mem = s.mem → u.rd8 x = s.rd8 x := fun u hu => rd8_congr hu x
  unfold State.takeFault State.recordFault State.postFault
  simp only
  split
  · split
    · rw [rd8_postEvent _ _ _ _ _ _ x hx]
      exact hc _ (by simp)
    · exact hc _ (by simp)
  · rw [rd8_congr (countFault_mem _) x, rd8_postEvent _ _ _ _ _ _ x hx]
    exact hc _ (by simp)

/-- With no valid record the record is written and the task freezes. -/
theorem takeFault_fresh (s : State) (t : Trap) (h : s.cl.flt.valid = false) :
    (s.takeFault t).cl.flt = (s.countTrap t).record t ∧
      (s.takeFault t).cl.frz = { s.cl.frz with fault := !t.memErr || s.cl.frz.fault, memErr := t.memErr || s.cl.frz.memErr } := by
  unfold State.takeFault State.recordFault State.postFault
  simp [h]

/-- The trap of a syllable: the context keeps it, the cluster is as taking the fault leaves it. -/
@[simp] theorem trapped_cl (s : State) (t : Trap) : (s.trapped t).cl = (s.takeFault t).cl := rfl
@[simp] theorem trapped_ctx (s : State) (t : Trap) : (s.trapped t).ctx = { s.ctx with trap := some t } := by
  unfold State.trapped
  simp

theorem trapped_wf (s : State) (t : Trap) (h : Memory.wf s.mem = true) : Memory.wf (s.trapped t).mem = true :=
  takeFault_wf s t h

theorem raise_eq (c : Cause) (s : State) (d a : Nat) : raise c s d a = .next (s.trapped (s.trapOf c d a)) := rfl

/-! The scratchpad (R154, R155). -/

/-- An access runs, or raises one of its three causes. -/
theorem spadAccess_cases (ea size : Nat) (w : Bool) (s : State) (f : Out) :
    (spadAccess ea size w s f = f ∧ ea % size = 0 ∧ ea + size ≤ 2 ^ 21) ∨
    ∃ c a, spadAccess ea size w s f = raise c s 0 a ∧ (c = .misaligned ∨ c = .spadRange ∨ c = .memUncorr) := by
  unfold spadAccess
  split
  · exact .inr ⟨_, _, rfl, .inl rfl⟩
  · split
    · exact .inr ⟨_, _, rfl, .inr (.inl rfl)⟩
    · split
      · exact .inr ⟨_, _, rfl, .inr (.inr rfl)⟩
      · exact .inl ⟨rfl, by omega, by omega⟩

/-- A load writes its register, has no effect under a false guard, or raises a cause. -/
theorem loadOp_cases (sg : Bool) (size : Nat) (rd ra : BitVec 6) (off : Imm 5) (g : BitVec 5) (s : State) :
    loadOp sg size rd ra off g s = .next s ∨ (∃ v, loadOp sg size rd ra off g s = .next (s.setS rd.toNat v)) ∨
    ∃ c a, loadOp sg size rd ra off g s = raise c s 0 a := by
  unfold loadOp
  split
  · rcases spadAccess_cases (s.ea ra off size) size false s
      (.next (s.setS rd.toNat (extendLoad sg size (s.rdLE (s.spad (s.ea ra off size)) size)))) with h | ⟨c, a, h, -⟩
    · exact .inr (.inl ⟨_, h.1⟩)
    · exact .inr (.inr ⟨c, a, h⟩)
  · exact .inl rfl

/-- A store stores its bytes, has no effect under a false guard, or raises a cause. -/
theorem storeOp_cases (size : Nat) (rs ra : BitVec 6) (off : Imm 5) (g : BitVec 5) (s : State) :
    storeOp size rs ra off g s = .next s ∨
    storeOp size rs ra off g s = .next (s.store (s.spad (s.ea ra off size)) (bytesOf (s.sreg rs.toNat).toNat size)) ∨
    ∃ c a, storeOp size rs ra off g s = raise c s 0 a := by
  unfold storeOp
  split
  · rcases spadAccess_cases (s.ea ra off size) size true s
      (.next (s.store (s.spad (s.ea ra off size)) (bytesOf (s.sreg rs.toNat).toNat size))) with h | ⟨c, a, h, -⟩
    · exact .inr (.inl h.1)
    · exact .inr (.inr ⟨c, a, h⟩)
  · exact .inl rfl

/-- An atomic stores its bytes and writes its register, or raises a cause. -/
theorem amoOp_cases (op : Nat) (rd ra rb : BitVec 6) (w : BitVec 1) (s : State) :
    (∃ l v, amoOp op rd ra rb w s = .next ((s.store (s.spad (s.sreg ra.toNat).toNat) l).setS rd.toNat v)) ∨
    ∃ c a, amoOp op rd ra rb w s = raise c s 0 a := by
  unfold amoOp
  simp only
  rcases spadAccess_cases (s.sreg ra.toNat).toNat (if w = 0 then 4 else 8) true s _ with h | ⟨c, a, h, -⟩
  · rw [h.1]
    rcases spadAccess_cases (s.sreg ra.toNat).toNat (if w = 0 then 4 else 8) false s _ with h | ⟨c, a, h, -⟩
    · exact .inl ⟨_, _, h.1⟩
    · exact .inr ⟨c, a, h⟩
  · exact .inr ⟨c, a, h⟩

/-! Semaphores and waits. -/

/-- SEMW takes its units or waits. -/
theorem semAcquire_cases (n c : Nat) (s : State) :
    (c ≤ s.semVal n ∧ semAcquire n c s = .next (s.setSem n (s.semVal n - c))) ∨
    (s.semVal n < c ∧ semAcquire n c s = .next s.waits) := by
  unfold semAcquire
  split
  · exact .inl ⟨‹_›, rfl⟩
  · exact .inr ⟨by omega, rfl⟩

/-- SEMP is added to the releases of the cycle, or overflows. -/
theorem semRelease_cases (n c : Nat) (s : State) :
    semRelease n c s = raise .semOverflow s ∨
    semRelease n c s =
      .next { s with cl := { s.cl with semP := s.cl.semP ++ [{ str := s.ctx.str, sem := n, n := c }] } } := by
  unfold semRelease
  split
  · exact .inl rfl
  · exact .inr rfl

/-- A wait for a transfer retires, waits, or overruns. -/
theorem waitXfer_cases (ch : Nat) (id : Word32) (s : State) :
    waitXfer ch id s = .next s ∨ waitXfer ch id s = .next s.waits ∨ waitXfer ch id s = .next s.overruns := by
  unfold waitXfer State.waitsLate
  split
  · exact .inl rfl
  · split
    · exact .inr (.inr rfl)
    · exact .inr (.inl rfl)

/-- LOOP sets its level, branching past the body for a count of 0, or raises ILLEGAL_BUNDLE. -/
theorem loopOp_cases (l e n : Nat) (s : State) :
    (e ≤ s.ctx.len ∧ loopOp l e n s = raise .illegalBundle s) ∨
    ∃ f : StreamSt → StreamSt, s.ctx.len < e ∧
      (loopOp l e n s = .next (s.updStrm f) ∨ ∃ t, loopOp l e n s = .next ((s.updStrm f).branch t)) := by
  unfold loopOp
  split
  · exact .inl ⟨‹_›, rfl⟩
  · refine .inr ⟨fun t => t.setLevel l { lc := .ofNat 32 n, ls := s.seqPc, le := pcRel s.ctx.str s.ctx.addr e }, by omega, ?_⟩
    by_cases h : n = 0
    · exact .inr ⟨pcRel s.ctx.str s.ctx.addr e, by simp only [h, if_true]⟩
    · exact .inl (by simp only [h, if_false])

/-! The issue of engine operations and commands. -/

theorem whenReady_cases (b : Bool) (s : State) (f : Out) :
    (b = true ∧ whenReady b s f = f) ∨ (b = false ∧ whenReady b s f = .next s.waits) := by
  cases b
  · exact .inr ⟨rfl, rfl⟩
  · exact .inl ⟨rfl, rfl⟩

/-- The first check that fails is raised; with none the operation goes on. -/
theorem checked_cases (l : List Check) (s : State) (f : Out) :
    ((∀ x ∈ l, x.1 = false) ∧ checked l s f = f) ∨ ∃ x ∈ l, x.1 = true ∧ checked l s f = raise x.2.1 s 0 x.2.2 := by
  unfold checked
  cases h : l.find? (·.1) with
  | none => exact .inl ⟨by simpa using h, rfl⟩
  | some x => exact .inr ⟨x, List.mem_of_find?_eq_some h, List.find?_some h, rfl⟩

@[simp] theorem pinAll_mem (s : State) (ch : Nat) (id : Word32) (l : List Page) : (s.pinAll ch id l).mem = s.mem := rfl
@[simp] theorem pinAll_cl (s : State) (ch : Nat) (id : Word32) (l : List Page) : (s.pinAll ch id l).cl = s.cl := rfl
@[simp] theorem pinAll_ctx (s : State) (ch : Nat) (id : Word32) (l : List Page) : (s.pinAll ch id l).ctx = s.ctx := rfl

/-- A transfer that enters its channel: the engine's channels, and the pins of the die, change. -/
theorem enqueue_cl (s : State) (ch : Nat) (t : Transfer) (p d : List (Nat × Page)) :
    ∃ x, (s.enqueue ch t p d).cl = s.cl.setChan ch { s.cl.chan ch with
      nextId := (s.cl.chan ch).nextId + 1, q := (s.cl.chan ch).q ++ [x] } := ⟨_, rfl⟩

@[simp] theorem enqueue_mem (s : State) (ch : Nat) (t : Transfer) (p d : List (Nat × Page)) :
    (s.enqueue ch t p d).mem = s.mem := rfl
@[simp] theorem enqueue_ctx (s : State) (ch : Nat) (t : Transfer) (p d : List (Nat × Page)) :
    (s.enqueue ch t p d).ctx = s.ctx := rfl

/-- The last step of an issue: XLATE_MISS detail 4, a wait, or the transfer in its channel with its identifier delivered. -/
theorem issueXfer_cases (ch : BitVec 2) (t : Transfer) (src dst : List (Nat × Page)) (dv : BitVec 1) (did : BitVec 3)
    (s : State) :
    (∃ a, issueXfer ch t src dst dv did s = raise .xlateMiss s 4 a) ∨ issueXfer ch t src dst dv did s = .next s.waits ∨
    issueXfer ch t src dst dv did s = .next (
      let s1 := s.enqueue ch.toNat t (src ++ dst) dst
      if dv = 1 then s1.setReg (did.setWidth 6) (t.id.setWidth 64) else s1) := by
  unfold issueXfer
  simp only
  split
  · exact .inl ⟨_, rfl⟩
  · split
    · exact .inr (.inl rfl)
    · exact .inr (.inr rfl)

/-- No issue of a command writes memory other than a fault's record. -/
theorem issueXfer_wf (ch : BitVec 2) (t : Transfer) (src dst : List (Nat × Page)) (dv : BitVec 1) (did : BitVec 3)
    (s u : State) (h : Memory.wf s.mem = true) (hu : issueXfer ch t src dst dv did s = .next u) :
    Memory.wf u.mem = true := by
  rcases issueXfer_cases ch t src dst dv did s with ⟨a, e⟩ | e | e <;> rw [e] at hu
  · rw [raise_eq] at hu
    injection hu with hu
    exact hu ▸ trapped_wf s _ h
  · injection hu with hu
    exact hu ▸ h
  · injection hu with hu
    subst hu
    simp only
    split
    · simpa using h
    · exact h

/-! Vector results (R173): added to those not yet visible. -/

@[simp] theorem pendAdd_mem (s : State) (n : Nat) (l : List (VDest × Word32 × BitVec 6)) : (s.pendAdd n l).mem = s.mem := rfl
@[simp] theorem pendAdd_ctx (s : State) (n : Nat) (l : List (VDest × Word32 × BitVec 6)) : (s.pendAdd n l).ctx = s.ctx := rfl
@[simp] theorem landLanes_mem (s : State) (n : Nat) (f : Nat → Nat → VRes) : (s.landLanes n f).mem = s.mem := rfl
@[simp] theorem landLanes_ctx (s : State) (n : Nat) (f : Nat → Nat → VRes) : (s.landLanes n f).ctx = s.ctx := rfl

theorem pendAdd_cl (s : State) (n : Nat) (l : List (VDest × Word32 × BitVec 6)) :
    ∃ r, (s.pendAdd n l).cl = { s.cl with ve := { s.cl.ve with pend := s.cl.ve.pend ++ r } } ∧ r.length = l.length ∧
      ∀ p ∈ r, p.due = s.cyc + n :=
  ⟨_, rfl, List.length_map _, fun p hp => by obtain ⟨x, -, rfl⟩ := List.mem_map.1 hp; rfl⟩

/-- An element-wise operation adds one result for each lane where the slot acts. -/
theorem vElemK_next (n : Nat) (f : (g l k a b c : Nat) → VRes) (s : State) :
    ∃ r, vElemK n f s = .next { s with cl := { s.cl with ve := { s.cl.ve with pend := s.cl.ve.pend ++ r } } } ∧
      r.length = s.lanes.length ∧ ∀ p ∈ r, p.due = s.cyc + n :=
  ⟨_, rfl, by simp, fun p hp => by obtain ⟨x, -, rfl⟩ := List.mem_map.1 hp; rfl⟩

end Sys2Proof.Machine
end

