-- ==== Sys2Proof/Tests/Slice0.lean ====
section
/-! SUPPORT. Tests on fixed values: the smoke test of well-formedness, decoding of words written out from the spec, witnesses
of the hypotheses of the statements, and single steps. -/
open Sys2Proof Sys2Proof.Machine
namespace Sys2Proof.Tests

/-! Well-formedness: one ill-formed term for each check. -/

/-- R102, R103, R106: a V-only, C-only, M-only or X-only instruction in another stream. -/
theorem test_wf_stream : [wellFormed .v .nop, wellFormed .m (.add 1 2 3 0), wellFormed .c (.mhdr 0 0), wellFormed .c (.xfence 0),
    wellFormed .x .vend, wellFormed .c .vaAdd].all not = true := by decide

/-- R103: index operands 8 to 31 name nothing in M and X; a destination is i0 to i7. -/
theorem test_wf_reg : [wellFormed .m (.bxi 0 8 ⟨0, []⟩ 0), wellFormed .x (.bxx 0 1 31 0), wellFormed .m (.loopReg 0 9 1),
    wellFormed .x (.iadd 1 20 ⟨0, []⟩), wellFormed .m (.imov 8 ⟨0, []⟩), wellFormed .x (.iadd 32 0 ⟨0, []⟩),
    wellFormed .m (.mwait 8), wellFormed .x (.xnext 0 32), wellFormed .m (.mcfg 0 (.reg 8)), wellFormed .m (.pcfg 0 (.reg 31)),
    wellFormed .m (.wcode 8 0 0), wellFormed .x (.shw 0 0 9)].all not = true := by decide

/-- R104: guard !p0; R105: a third EXT. -/
theorem test_wf_guard_ext : [wellFormed .c (.add 1 2 3 16), wellFormed .c (.ldw 1 2 ⟨0, []⟩ 16),
    wellFormed .c (.imov 1 ⟨0, [0, 0, 0]⟩), wellFormed .x (.copy 0 0 0 0 0 ⟨0, [0, 0, 0]⟩)].all not = true := by decide

/-- Reserved codes and counts of C and the common set (R106, R138, R139, R150, R152, R156, R158). -/
theorem test_wf_control : [wellFormed .c (.gate 0 16 ⟨0, []⟩), wellFormed .c (.gate 1 4 ⟨0, []⟩), wellFormed .c (.gate 3 0 ⟨0, []⟩),
    wellFormed .c (.bxi 6 1 ⟨0, []⟩ 0), wellFormed .c (.bxx 7 1 1 0), wellFormed .c (.loopReg 0 1 0), wellFormed .c (.semp 0 0),
    wellFormed .c (.semw 0 0), wellFormed .c (.cmp 1 2 3 8 0), wellFormed .c (.cmpi 1 2 ⟨0, []⟩ 9 0), wellFormed .c (.btree []),
    wellFormed .c (.btree (List.replicate 5 ⟨0, 0, 0⟩)), wellFormed .c (.crr 1 2 0), wellFormed .c (.crrd 1 0 1),
    wellFormed .c (.lrd 1 6), wellFormed .c (.lwr 1 7)].all not = true := by decide

/-- Reserved codes of M (R223, R225, R228, R229, R235, R239, R240, R261, R262). -/
theorem test_wf_matrix : [wellFormed .m (.wcvt 1 0 10 0 0), wellFormed .m (.nld 1 3 0 0 0 0), wellFormed .m (.nld 1 0 1 0 0 0),
    wellFormed .m (.nld 1 1 10 0 0 0), wellFormed .m (.nld 1 2 0 1 0 0), wellFormed .m (.mcfg 26 (.imm 0)),
    wellFormed .m (.pass 3 0 0 1 0), wellFormed .m (.pass 0 2 1 1 0), wellFormed .m (.drn 0 0 0 1 0 0 0),
    wellFormed .m (.drn 0 0 0 0 1 0 0), wellFormed .m (.drn 0 0 0 0 0 0 1), wellFormed .m (.rstat 0 0 2 1),
    wellFormed .m (.skw 1 1), wellFormed .m (.skn 1 1), wellFormed .m (.pcfg 12 (.imm 0)), wellFormed .m (.pcell 1 0 0 0 0 0),
    wellFormed .m (.psets 1 0 1 0 1 0 0)].all not = true := by decide

/-- Reserved codes of X and VC (R211, R277, R278). -/
theorem test_wf_copy_vc : [wellFormed .x (.copy 0 0 0 0 1 ⟨0, []⟩), wellFormed .x (.send 0 0 1 0 1 ⟨0, []⟩), wellFormed .x (.xcfg 10 1),
    wellFormed .v (.vbrm 0 3 0), wellFormed .v (.vloop 0 (.imm 1) 0), wellFormed .v (.vlwr 6 0), wellFormed .v (.vsemp 0 0),
    wellFormed .v (.vsemw 0 0), wellFormed .v (.vgate 0 31 0), wellFormed .v (.statrx 62)].all not =
    true := by decide

/-- Slot fields (R119, R121, R179 to R189, R195, R199 to R206). -/
theorem test_wf_slot : [slotWellFormed .vaAdd { mu := 0, ms := 1 }, slotWellFormed .vaAdd { fmt := 4 },
    slotWellFormed .mov { fmt := 6 }, slotWellFormed .vaShli { imm := 32 }, slotWellFormed .vaCmp { imm := 6 },
    slotWellFormed .qshr { rnd := 2 }, slotWellFormed .fadd { fmt := 3 }, slotWellFormed .fadd { fmt := 4, rnd := 2 },
    slotWellFormed .fcmp { fmt := 4, imm := 5 }, slotWellFormed .mset { imm := 8 }, slotWellFormed .qset { mu := 1 },
    slotWellFormed .dot { fmt := 0 }, slotWellFormed .fdot2 { fmt := 4 }, slotWellFormed .vld { vb := 16 },
    slotWellFormed .vld { swa := 1 }, slotWellFormed .vamoAdd { imm := 1 }, slotWellFormed .exte { fmt := 1, imm := 2 },
    slotWellFormed .redAdd { imm := 1 }, slotWellFormed .redFadd { imm := 8 }, slotWellFormed .xbc { imm := 0 },
    slotWellFormed .rand { imm := 2 }, slotWellFormed .cbd { fmt := 5, imm := 16 }, slotWellFormed .nop {}].all not =
    true := by decide

/-! Decoding: the word of every encoded instruction, written out from the spec's encodings. -/

/-- Words of the common set and of C, from the match and fields that the opcode table gives each row. -/
def wordsC0 : List (Nat × Instr) :=
  [(0x815A5A5A, .nop),
   (0x82000000, .endStream),
   (0x8400A5C3, .br 42435),
   (0x8744B6A5, .bxi 5 4 ⟨45, []⟩ 677),
   (0x88C4095A, .bxx 3 4 2 346),
   (0x8B120025, .loopReg 1 9 37),
   (0x8BC8D025, .loopImm 1 ⟨4660, []⟩ 37),
   (0x8CABA5A5, .gate 2 21 ⟨107941, []⟩),
   (0x8E009A5C, .check 9 2652),
   (0x90D4A000, .semp 6 165),
   (0x92CB4000, .semw 6 90),
   (0x94000000, .mark),
   (0x962DA5A5, .imov 5 ⟨370085, []⟩),
   (0x9828DA5A, .iadd 5 6 ⟨6746, []⟩),
   (0x9A00BEEF, .brk 48879),
   (0x9B00CAFE, .syscall 51966),
   (0xA028C385, .add 5 6 7 5),
   (0xA028C3A5, .sub 5 6 7 5),
   (0xA028C3C5, .min 5 6 7 5),
   (0xA028C3E5, .max 5 6 7 5),
   (0xA228C385, .and 5 6 7 5),
   (0xA228C3A5, .or 5 6 7 5),
   (0xA228C3C5, .xor 5 6 7 5),
   (0xA228C3E5, .andn 5 6 7 5),
   (0xA428C385, .shl 5 6 7 5)]

/-- Words of the common set and of C, from the match and fields that the opcode table gives each row. -/
def wordsC1 : List (Nat × Instr) :=
  [(0xA428C3A5, .shr 5 6 7 5),
   (0xA428C3C5, .sra 5 6 7 5),
   (0xA428C3E5, .mulh 5 6 7 5),
   (0xA628C385, .mul 5 6 7 5),
   (0xA628C3A5, .mulhu 5 6 7 5),
   (0xA628C3C5, .minu 5 6 7 5),
   (0xA628C3E5, .maxu 5 6 7 5),
   (0xA828C525, .andi 5 6 ⟨41, []⟩ 5),
   (0xA828CD25, .ori 5 6 ⟨41, []⟩ 5),
   (0xA828D525, .xori 5 6 ⟨41, []⟩ 5),
   (0xA828DD25, .muli 5 6 ⟨41, []⟩ 5),
   (0xAA28C525, .shli 5 6 41 5),
   (0xAA28CD25, .shri 5 6 41 5),
   (0xAA28D525, .srai 5 6 41 5),
   (0xAC28C525, .mini 5 6 ⟨41, []⟩ 5),
   (0xAC28CD25, .maxi 5 6 ⟨41, []⟩ 5),
   (0xAC28D525, .minui 5 6 ⟨41, []⟩ 5),
   (0xAC28DD25, .maxui 5 6 ⟨41, []⟩ 5),
   (0xAE28C525, .subfi 5 6 ⟨41, []⟩ 5),
   (0xB1230E85, .cmp 9 6 7 4 5),
   (0xB3235285, .cmpi 9 6 ⟨41, []⟩ 4 5),
   (0xB4ACE005, .pand 5 6 7 5),
   (0xB4ACE405, .por 5 6 7 5),
   (0xB4ACE805, .pxor 5 6 7 5),
   (0xB4ACEC05, .pandn 5 6 7 5)]

/-- Words of the common set and of C, from the match and fields that the opcode table gives each row. -/
def wordsC2 : List (Nat × Instr) :=
  [(0xB4AC1005, .pnot 5 6 5),
   (0xB4281805, .pget 5 5),
   (0xB400DC05, .pput 6 5),
   (0xB852E185, .brc 42435 5),
   (0xB8AD6185, .jal 23235 5),
   (0xB9555285, .jalr 42 677 5),
   (0xBA28C325, .ldb 5 6 ⟨25, []⟩ 5),
   (0xBA28C725, .ldbu 5 6 ⟨25, []⟩ 5),
   (0xBA28CB25, .ldh 5 6 ⟨25, []⟩ 5),
   (0xBA28CF25, .ldhu 5 6 ⟨25, []⟩ 5),
   (0xBA28D325, .ldw 5 6 ⟨25, []⟩ 5),
   (0xBA28D725, .ldwu 5 6 ⟨25, []⟩ 5),
   (0xBA28DB25, .ldd 5 6 ⟨25, []⟩ 5),
   (0xBC18C325, .stb 3 6 ⟨25, []⟩ 5),
   (0xBC18C725, .sth 3 6 ⟨25, []⟩ 5),
   (0xBC18CB25, .stw 3 6 ⟨25, []⟩ 5),
   (0xBC18CF25, .std 3 6 ⟨25, []⟩ 5),
   (0xBE28C384, .amoadd 5 6 7 1),
   (0xBE28C38C, .amoand 5 6 7 1),
   (0xBE28C394, .amoor 5 6 7 1),
   (0xBE28C39C, .amoxor 5 6 7 1),
   (0xBE28C3A4, .amomin 5 6 7 1),
   (0xBE28C3AC, .amomax 5 6 7 1),
   (0xBE28C3B4, .amominu 5 6 7 1),
   (0xBE28C3BC, .amomaxu 5 6 7 1)]

/-- Words of the common set and of C, from the match and fields that the opcode table gives each row. -/
def wordsC3 : List (Nat × Instr) :=
  [(0xBE28C3C4, .amoswap 5 6 7 1),
   (0xBE28C3CC, .amocas 5 6 7 1),
   (0xC02135A5, .crr 33 1 5541),
   (0xC06235A4, .crrd 34 1 5540),
   (0xC0A30A5A, .crw 35 0 2650),
   (0xC0C90015, .krd 9 21),
   (0xC109000A, .kwr 9 10),
   (0xC1490002, .seedr 9 2),
   (0xC1890002, .seedw 9 2),
   (0xC2A80005, .lrd 42 5),
   (0xC3540005, .lwr 21 5),
   (0xC5540000, .waitx 2 42),
   (0xC4ABA000, .testx 1 21 10),
   (0xC6000000, .fenceT),
   (0xC6800000, .fenceD),
   (0xC7000000, .fenceM),
   (0xC7800000, .fenceS),
   (0xC8000000, .ifence),
   (0xC8800000, .iswap)]

/-- Words of X, from the match and fields that the opcode table gives each row. -/
def wordsX0 : List (Nat × Instr) :=
  [(0xA029C84D, .copy 0 5 3 1 1 ⟨77, []⟩),
   (0xA229B94D, .cvt 0 5 3 1 1 1 1 ⟨77, []⟩),
   (0xA429C84D, .xpose 0 5 3 1 1 ⟨77, []⟩),
   (0xA61B124D, .cmpr 0 1 11 4 1 1 ⟨13, []⟩),
   (0xA65B124D, .expd 0 1 11 4 1 1 ⟨13, []⟩),
   (0xA829B24D, .decode 0 5 3 1 1 1 ⟨77, []⟩),
   (0xAA18924D, .send 0 3 4 1 1 ⟨77, []⟩),
   (0xAD5125A5, .recv 21 4 ⟨9637, []⟩),
   (0xAE07134D, .ramoAdd 0 1 6 1 1 1 ⟨77, []⟩),
   (0xAE0F134D, .ramoAnd 0 1 6 1 1 1 ⟨77, []⟩),
   (0xAE17134D, .ramoOr 0 1 6 1 1 1 ⟨77, []⟩),
   (0xAE1F134D, .ramoXor 0 1 6 1 1 1 ⟨77, []⟩),
   (0xAE27134D, .ramoMin 0 1 6 1 1 1 ⟨77, []⟩),
   (0xAE2F134D, .ramoMax 0 1 6 1 1 1 ⟨77, []⟩),
   (0xAE37134D, .ramoMinu 0 1 6 1 1 1 ⟨77, []⟩),
   (0xAE3F134D, .ramoMaxu 0 1 6 1 1 1 ⟨77, []⟩),
   (0xAE47134D, .ramoSwap 0 1 6 1 1 1 ⟨77, []⟩),
   (0xAE4F134D, .ramoCas 0 1 6 1 1 1 ⟨77, []⟩),
   (0xB0020000, .xwait 0 4),
   (0xB0805400, .xwaitb 21),
   (0xB1000000, .xfence 0),
   (0xB1828000, .xnext 0 5),
   (0xB2A84000, .shw 10 2 4),
   (0xB3488000, .xcfg 9 4),
   (0xB40624CD, .ldhcw 0 3 4 1 1 ⟨77, []⟩)]

/-- Words of X, from the match and fields that the opcode table gives each row. -/
def wordsX1 : List (Nat × Instr) :=
  [(0xB42624CD, .ldpln 0 3 4 1 1 ⟨77, []⟩),
   (0xB44624CD, .ldpair 0 3 4 1 1 ⟨77, []⟩)]

theorem test_decode_c0 : (wordsC0.all fun e => (decodeSyl .c e.1 []).toOption == some e.2) = true := by decide

theorem test_decode_c1 : (wordsC1.all fun e => (decodeSyl .c e.1 []).toOption == some e.2) = true := by decide

theorem test_decode_c2 : (wordsC2.all fun e => (decodeSyl .c e.1 []).toOption == some e.2) = true := by decide

theorem test_decode_c3 : (wordsC3.all fun e => (decodeSyl .c e.1 []).toOption == some e.2) = true := by decide

theorem test_decode_x0 : (wordsX0.all fun e => (decodeSyl .x e.1 []).toOption == some e.2) = true := by decide

theorem test_decode_x1 : (wordsX1.all fun e => (decodeSyl .x e.1 []).toOption == some e.2) = true := by decide

theorem test_decode_mhdr : (decodeSyl .m 0xA14E9700 []).toOption = some (.mhdr 83 2652) := by decide

theorem test_decode_v : decodeV 0xAD5C = some (.vInstruction 346 5 1 1) := by decide

/-- Sub-slot words from R223 to R240 and R261 to R263: sub-unit, first syllable, payload of the second. -/
def wordsM : List (SubUnit × Nat × Nat × Instr) :=
  [(.ew, 0x25152800, 0x0B4B400, .wcode 34 0xA5 0x5A5A),
   (.ew, 0x262AD4E0, 0x14B8600, .wcvt 5 0x5A 9 3 0xA5C3),
   (.ew, 0x29FC0810, 0x1000200, .wc4 63 0x81 2 0x8001),
   (.ew, 0x22000000, 0x0000000, .midle .ew),
   (.en, 0x22000000, 0x0000000, .midle .en),
   (.ar, 0x22000000, 0x0000000, .midle .ar),
   (.dr, 0x22000000, 0x0000000, .midle .dr),
   (.rs, 0x22000000, 0x0000000, .midle .rs),
   (.pe, 0x22000000, 0x0000000, .midle .pe),
   (.xa, 0x22000000, 0x0000000, .midle .xa),
   (.en, 0x2D133000, 0x14B8600, .nld 34 1 9 2 0 0xA5C3),
   (.en, 0x2C240600, 0x0000200, .nld 4 2 0 0 3 1),
   (.en, 0x2E000000, 0x0000000, .nswp),
   (.en, 0x31150000, 0x0000000, .cbld 34 2 1),
   (.ar, 0x35944000, 0x0000000, .mcfg 25 (.reg 34)),
   (.ar, 0x352DA5A5, 0x0000000, .mcfg 18 (.imm 0x5A5A5)),
   (.ar, 0x372D52C4, 0x14B8600, .pass 2 0x5A 0xA5 34 0xA5C3),
   (.ar, 0x38280000, 0x0000000, .mwait 5),
   (.dr, 0x3D528B20, 0x0000000, .drn 0x2A 0 1 0 34 1 9),
   (.dr, 0x3CAF0C00, 0x0000000, .drn 0x15 1 1 1 3 0 0),
   (.dr, 0x3F694000, 0x0000000, .drv 2 1 0xA5),
   (.dr, 0x41400000, 0x0000000, .aclr 10),
   (.rs, 0x4552DA00, 0x0B54A00, .rstat 0x2A5 0x5A 0x5A 0xA5),
   (.pe, 0x48B44000, 0x0000000, .pcfg 11 (.reg 34)),
   (.pe, 0x487DA5A5, 0x0000000, .pcfg 7 (.imm 0x5A5A5)),
   (.pe, 0x4B16C800, 0x152D280, .pcell 34 1 2 1 9 0x2A5A5),
   (.pe, 0x4C2BB000, 0x14B4B4A, .psets 5 0 3 1 6 0xA5A 0x5A5),
   (.pe, 0x4F100000, 0x14B8600, .pcidx 34 0xA5C3),
   (.pe, 0x50280000, 0x0B58600, .paclr 5 0x5AC3),
   (.xa, 0x59100000, 0x0000000, .skw 34 0),
   (.xa, 0x58040000, 0x0000000, .skw 0 1),
   (.xa, 0x5B180000, 0x0000000, .skn 35 0),
   (.xa, 0x5A040000, 0x0000000, .skn 0 1)]

theorem test_decode_m : (wordsM.all fun e => (decodeSub e.1 e.2.1 e.2.2.1).toOption == some e.2.2.2) = true := by decide

/-- VC slots from R211. -/
def wordsVC : List (Nat × Instr) :=
  [(0x040000, .vend),
   (0x09A5A5, .vbr 0x1A5A5),
   (0x0ED5A5, .vbrm 5 2 0x15A5),
   (0x13A55A, .vloop 1 (.imm 0xA5) 0x5A),
   (0x12A8A5, .vloop 1 (.kreg 21) 0xA5),
   (0x16D400, .vlwr 5 21),
   (0x1AA940, .vsemp 10 0xA5),
   (0x1D5680, .vsemw 5 0x5A),
   (0x2156A5, .vgate 2 21 0x2A5),
   (0x240000, .vmark),
   (0x2A0000, .blend 2),
   (0x2F0000, .bret 3),
   (0x33D000, .statrx 61),
   (0x34BEEF, .vbrk 0xBEEF)]

theorem test_decode_vc : (wordsVC.all fun e => (decodeVC e.1).toOption == some (some e.2)) = true := by decide

/-- Slots of VA, from R119 with the opcodes of R178 to R184: word, operation, FMT, IMM, MU; VD 0x2A, VA 0x15, VC 0x26, RND 1, SAT 1. -/
def wordsVA : List (Nat × Instr × Nat × Nat × Nat) :=
  [(0x01152B4CDD6DD5, .vaAdd, 0, 85, 1),
   (0x02352B4CDD6DD5, .addu, 1, 85, 1),
   (0x03552B4CDD6DD5, .vaSub, 2, 85, 1),
   (0x04752B4CDD6DD5, .subu, 3, 85, 1),
   (0x05152B4CDD6DD5, .vaMin, 0, 85, 1),
   (0x06352B4CDD6DD5, .vaMinu, 1, 85, 1),
   (0x07552B4CDD6DD5, .vaMax, 2, 85, 1),
   (0x08752B4CDD6DD5, .vaMaxu, 3, 85, 1),
   (0x09152B4CDD6DD5, .abs, 0, 85, 1),
   (0x0A352B4CDD6DD5, .neg, 1, 85, 1),
   (0x0B552B4CDD6DD5, .vaAnd, 2, 85, 1),
   (0x0C752B4CDD6DD5, .vaOr, 3, 85, 1),
   (0x0D152B4CDD6DD5, .vaXor, 0, 85, 1),
   (0x0E352B4CDD6DD5, .vaAndn, 1, 85, 1),
   (0x0F552B4CDD6DD5, .vaShl, 2, 85, 1),
   (0x10752B4CDD6DD5, .vaShr, 3, 85, 1),
   (0x11152B4CDD6DD5, .vaSra, 0, 85, 1),
   (0x12352B4CDD6D95, .vaShli, 1, 21, 1),
   (0x13552B4CDD6D8A, .vaShri, 2, 10, 1),
   (0x14752B4CDD6D9F, .vaSrai, 3, 31, 1),
   (0x15352B4CDD6DD5, .addi, 1, 85, 1),
   (0x16552B4CDD6DAA, .movi, 2, 42, 1),
   (0x17752B4CDD6D85, .vaCmp, 3, 5, 1),
   (0x18152B4CDD6D95, .qshr, 0, 21, 1),
   (0x20B52B4CDD6DD5, .mov, 5, 85, 1),
   (0x21952B4CDD6DAA, .sel, 4, 42, 1),
   (0x30952B4CDD6DD5, .fadd, 4, 85, 1),
   (0x31B52B4CDD6DD5, .fsub, 5, 85, 1),
   (0x32952B4CDD6DD5, .vaFmul, 4, 85, 1),
   (0x33B52B4CDD6DD5, .fmin, 5, 85, 1),
   (0x34952B4CDD6DD5, .fmax, 4, 85, 1),
   (0x35B52B4CDD6DD5, .fabs, 5, 85, 1),
   (0x36952B4CDD6DD5, .fneg, 4, 85, 1),
   (0x37B52B4CDD6D84, .fcmp, 5, 4, 1),
   (0x38952B4CDD6DD5, .cvtif, 4, 85, 1),
   (0x39152B4CDD6DD5, .cvtuf, 0, 85, 1),
   (0x3A952B4CDD6DD5, .cvtfi, 4, 85, 1),
   (0x3B152B4CDD6DD5, .cvtfu, 0, 85, 1),
   (0x3C152B4CDD6D9F, .cvtqf, 0, 31, 1),
   (0x3D952B4CDD6D81, .cvtfq, 4, 1, 1),
   (0x40152B4CDD6D87, .mset, 0, 7, 1),
   (0x41152B4CDD6D85, .mget, 0, 5, 1),
   (0x42152B4CC06DD5, .qset, 0, 85, 0),
   (0x43152B4CDD6DAA, .qget, 0, 42, 1),
   (0x44152B4CC06D8F, .bwr, 0, 15, 0),
   (0x45152B4CDD6D8A, .brd, 0, 10, 1),
   (0x46152B4CC06D9F, .rpw, 0, 31, 0)]

theorem test_decode_va : (wordsVA.all fun e => (decodeSlot 0 e.1).toOption == some (some (e.2.1,
    { fmt := .ofNat 3 e.2.2.1, vd := 0x2A, va := 0x15, vb := 0x29, vc := 0x26, mu := .ofNat 1 e.2.2.2.2, mi := .ofNat 1 e.2.2.2.2
      ms := .ofNat 3 (5 * e.2.2.2.2), swa := 1, swb := 2, swc := 3, rnd := 1, sat := 1, imm := .ofNat 7 e.2.2.2.1 }))) = true := by
  decide

/-- Slots of VB, from R119 with the opcodes of R185 to R188: word, operation, FMT, IMM, MU; VD 0x2A, VA 0x15, VC 0x26, RND 1, SAT 1. -/
def wordsVB : List (Nat × Instr × Nat × Nat × Nat) :=
  [(0x01152B4CDD6DD5, .vbMul, 0, 85, 1),
   (0x02352B4CDD6D81, .mulu, 1, 1, 1),
   (0x03552B4CDD6D82, .vbMulh, 2, 2, 1),
   (0x04752B4CDD6D83, .vbMulhu, 3, 3, 1),
   (0x05152B4CDD6D84, .mad, 0, 4, 1),
   (0x06352B4CDD6D85, .madu, 1, 5, 1),
   (0x07552B4CDD6D9F, .mulq, 2, 31, 1),
   (0x08752B4CDD6D90, .madq, 3, 16, 1),
   (0x09352B4CDD6D86, .dot, 1, 6, 1),
   (0x0A752B4CDD6D87, .dotu, 3, 7, 1),
   (0x10952B4CDD6D80, .fma, 4, 0, 1),
   (0x11B52B4CDD6D81, .fms, 5, 1, 1),
   (0x12952B4CDD6D82, .fnma, 4, 2, 1),
   (0x13B52B4CDD6D83, .fnms, 5, 3, 1),
   (0x14952B4CDD6D84, .vbFmul, 4, 4, 1),
   (0x18B52B4CDD6D85, .fdot2, 5, 5, 1)]

theorem test_decode_vb : (wordsVB.all fun e => (decodeSlot 1 e.1).toOption == some (some (e.2.1,
    { fmt := .ofNat 3 e.2.2.1, vd := 0x2A, va := 0x15, vb := 0x29, vc := 0x26, mu := .ofNat 1 e.2.2.2.2, mi := .ofNat 1 e.2.2.2.2
      ms := .ofNat 3 (5 * e.2.2.2.2), swa := 1, swb := 2, swc := 3, rnd := 1, sat := 1, imm := .ofNat 7 e.2.2.2.1 }))) = true := by
  decide

/-- Slots of VL, from R119 with the opcodes of R189 to R195: word, operation, FMT, IMM, MU; VD 0x2A, VA 0x15, VC 0x26, RND 1, SAT 1. -/
def wordsVL : List (Nat × Instr × Nat × Nat × Nat) :=
  [(0x01152A4CDD01D5, .vld, 0, 85, 1),
   (0x02152A4CDD01AA, .vst, 0, 42, 1),
   (0x03152A4CDD0181, .vldr, 0, 1, 1),
   (0x04152A4CDD0182, .vldc, 0, 2, 1),
   (0x05152A4CDD0183, .vstr, 0, 3, 1),
   (0x06152A4CDD0184, .vstc, 0, 4, 1),
   (0x07152A4CDD0185, .vlds, 0, 5, 1),
   (0x08152A4CDD0186, .vldu, 0, 6, 1),
   (0x09152A4CDD0187, .vstu, 0, 7, 1),
   (0x0A152A4CDD0180, .vamoAdd, 0, 0, 1),
   (0x0A152A4CDD0181, .vamoAnd, 0, 1, 1),
   (0x0A152A4CDD0182, .vamoOr, 0, 2, 1),
   (0x0A152A4CDD0183, .vamoXor, 0, 3, 1),
   (0x0A152A4CDD0184, .vamoMin, 0, 4, 1),
   (0x0A152A4CDD0185, .vamoMax, 0, 5, 1),
   (0x0A152A4CDD0186, .vamoMinu, 0, 6, 1),
   (0x0A152A4CDD0187, .vamoMaxu, 0, 7, 1),
   (0x0A152A4CDD0188, .vamoSwap, 0, 8, 1),
   (0x0A152A4CDD0189, .vamoCas, 0, 9, 1)]

theorem test_decode_vl : (wordsVL.all fun e => (decodeSlot 2 e.1).toOption == some (some (e.2.1,
    { fmt := .ofNat 3 e.2.2.1, vd := 0x2A, va := 0x15, vb := 9, vc := 0x26, mu := .ofNat 1 e.2.2.2.2, mi := .ofNat 1 e.2.2.2.2
      ms := .ofNat 3 (5 * e.2.2.2.2), swa := 0, swb := 0, swc := 0, rnd := 1, sat := 1, imm := .ofNat 7 e.2.2.2.1 }))) = true := by
  decide

/-- Slots of VX, from R119 with the opcodes of R199 to R206: word, operation, FMT, IMM, MU; VD 0x2A, VA 0x15, VC 0x26, RND 1, SAT 1. -/
def wordsVX : List (Nat × Instr × Nat × Nat × Nat) :=
  [(0x01152B4CDD6DD5, .perm, 0, 85, 1),
   (0x02152B4CDD6D8D, .lrot, 0, 13, 1),
   (0x03152B4CDD6DD5, .fshl, 0, 85, 1),
   (0x04152B4CDD6DAA, .fshr, 0, 42, 1),
   (0x05152B4CDD6D81, .psum, 0, 1, 1),
   (0x06152B4CDD6D82, .clz, 0, 2, 1),
   (0x07152B4CDD6D83, .popc, 0, 3, 1),
   (0x08752B4CDD6D8F, .exte, 3, 15, 1),
   (0x09352B4CDD6D89, .inse, 1, 9, 1),
   (0x10152B4CDD6D80, .redAdd, 0, 0, 1),
   (0x10152B4CDD6D81, .redMin, 0, 1, 1),
   (0x10152B4CDD6D82, .redMax, 0, 2, 1),
   (0x10152B4CDD6D83, .redMinu, 0, 3, 1),
   (0x10152B4CDD6D84, .redMaxu, 0, 4, 1),
   (0x10152B4CDD6D85, .redAnd, 0, 5, 1),
   (0x10152B4CDD6D86, .redOr, 0, 6, 1),
   (0x10152B4CDD6D87, .redXor, 0, 7, 1),
   (0x10952B4CDD6D88, .redFadd, 4, 8, 1),
   (0x10952B4CDD6D89, .redFmin, 4, 9, 1),
   (0x10952B4CDD6D8A, .redFmax, 4, 10, 1),
   (0x11152B4CDD6D80, .xredAdd, 0, 0, 1),
   (0x11152B4CDD6D81, .xredMin, 0, 1, 1),
   (0x11152B4CDD6D82, .xredMax, 0, 2, 1),
   (0x11152B4CDD6D83, .xredMinu, 0, 3, 1),
   (0x11152B4CDD6D84, .xredMaxu, 0, 4, 1),
   (0x11152B4CDD6D85, .xredAnd, 0, 5, 1),
   (0x11152B4CDD6D86, .xredOr, 0, 6, 1),
   (0x11152B4CDD6D87, .xredXor, 0, 7, 1),
   (0x11952B4CDD6D88, .xredFadd, 4, 8, 1),
   (0x11952B4CDD6D89, .xredFmin, 4, 9, 1),
   (0x11952B4CDD6D8A, .xredFmax, 4, 10, 1),
   (0x12152B4CDD6D85, .xcopy, 0, 5, 1),
   (0x12152B4CDD6D8D, .xbc, 0, 13, 1),
   (0x20952B4CDD6D80, .exp2, 4, 0, 1),
   (0x21B52B4CDD6D80, .log2, 5, 0, 1),
   (0x22952B4CDD6D80, .rcp, 4, 0, 1),
   (0x23B52B4CDD6D80, .rsqrt, 5, 0, 1),
   (0x24152B4CDD6D81, .rand, 0, 1, 1),
   (0x28B52B4CDD6D80, .cvtfb, 5, 0, 1),
   (0x29B52B4CDD6D81, .cvtbf, 5, 1, 1),
   (0x2A952B4CDD6D9F, .fcvtq, 4, 31, 1),
   (0x2BB52B4CDD6D8F, .cbd, 5, 15, 1)]

theorem test_decode_vx : (wordsVX.all fun e => (decodeSlot 3 e.1).toOption == some (some (e.2.1,
    { fmt := .ofNat 3 e.2.2.1, vd := 0x2A, va := 0x15, vb := 0x29, vc := 0x26, mu := .ofNat 1 e.2.2.2.2, mi := .ofNat 1 e.2.2.2.2
      ms := .ofNat 3 (5 * e.2.2.2.2), swa := 1, swb := 2, swc := 3, rnd := 1, sat := 1, imm := .ofNat 7 e.2.2.2.1 }))) = true := by
  decide
/-- BTREE with three tests (R109): predicates 1, 4, 9, inverts 0, 1, 0, n − 1 = 2, offsets 5, −1 and 0x7FF. -/
theorem test_decode_btree : (decodeBundle .c [0xB6000000 + 1 * 2 ^ 21 + 4 * 2 ^ 17 + 9 * 2 ^ 13 + 1 * 2 ^ 7 + 2 * 2 ^ 3,
    0x1E000000 + 5 * 2 ^ 12 + 0xFFF, 0x1E000000 + 0x7FF * 2 ^ 12]).toOption =
    some [(0, .btree [⟨1, 0, 5⟩, ⟨4, 1, 0xFFF⟩, ⟨9, 0, 0x7FF⟩])] := by decide

/-- A reserved major, a reserved minor and a nonzero must-be-zero field raise ILLEGAL_OPCODE (R109, R112, R124); EXT after a
syllable that is not extensible, and a header whose words do not match CHG, raise ILLEGAL_BUNDLE (R105, R113). -/
theorem test_decode_illegal : (decodeSyl .c 0xF0000000 []).toOption = none ∧ (decodeSyl .c 0xCA000000 []).toOption = none ∧
    (decodeSyl .c 0xC7000000 []).toOption = some .fenceM ∧ (decodeSyl .c 0xC7000001 []).toOption = none ∧
    (match decodeBundle .c [0xA0000000, 0x1E000000] with | .error (.bundle, 0) => true | _ => false) = true ∧
    (match decodeBundle .m [0xA1000000] with | .error (.bundle, _) => true | _ => false) = true := by decide

/-- R105: payloads of two EXT syllables stand above the field; the value is sign-extended from its full width. -/
theorem test_imm_ext : immRaw (⟨1, [2, 3]⟩ : Imm 6) = 1 + 2 * 2 ^ 6 + 3 * 2 ^ 31 ∧ immWidth (⟨1, [2, 3]⟩ : Imm 6) = 56 ∧
    toSigned (immWidth (⟨0, [0x1FFFFFF]⟩ : Imm 6)) (immRaw (⟨0, [0x1FFFFFF]⟩ : Imm 6)) = -64 := by decide

/-! Witnesses: for each clause of each statement with hypotheses, a state and operands that meet them together. -/

/-- A task in the cluster in focus. -/
def busy : State := { cl := { task := some ⟨0, 0, 0⟩ } }

/-- Scalar register r holds v. -/
def withS (r v : Nat) : State := busy.setS r (.ofNat 64 v)

/-- The stream st issues. -/
def inStr (st : Str) : State := { busy with ctx := { str := st } }

theorem witness_guard : busy.guard 0 = true ∧ busy.guard (guardOf (.add 1 2 3 1)) = false := by decide

theorem witness_register_writes : (1 : BitVec 6) ≠ 0 ∧ (15 : BitVec 4) ≠ 0 ∧ (7 : BitVec 4).toNat < 8 := by decide

theorem witness_branch : busy.ctx.str ≠ .v ∧ (5 : BitVec 3).toNat < 6 ∧ (busy.reg 1 == busy.reg 2) = true ∧
    (busy.reg 1 != busy.reg 2) = false ∧ ([⟨0, 0, 5⟩].find? fun e : BTest => busy.preg e.p.toNat ^^ (e.inv == 1)).isSome = true ∧
    ([⟨0, 1, 5⟩].find? fun e : BTest => busy.preg e.p.toNat ^^ (e.inv == 1)) = none := by decide

theorem witness_loops : (1 : BitVec 10).toNat ≤ busy.ctx.len ∧ ¬ (2 : BitVec 10).toNat ≤ busy.ctx.len ∧ (5 : BitVec 3).toNat < 6 := by
  decide

/-- Level 1 stands at its end with two iterations left, or with one; so does level 0. -/
def atLoopEnd (n m : Word32) : State :=
  { busy with cl := { busy.cl with c := { l0 := { lc := m, ls := 0, le := 1 }, l1 := { lc := n, ls := 0, le := 1 } } } }

theorem witness_loop_end : ∀ n < 3, ∀ m < 3, let s := atLoopEnd (.ofNat 32 n) (.ofNat 32 m)
    s.ctx.fin = false ∧ s.ctx.next = none ∧ s.strm.l1.le = pcWrap s.ctx.str (s.ctx.addr.toNat + s.ctx.len) := by decide

theorem witness_access : let s := withS 1 (2 ^ 21 - 8)
    let ea := (s.sreg 1).toNat
    ea % 8 = 0 ∧ ea + 8 ≤ 2 ^ 21 ∧ s.badRead (s.spad ea) 8 = none ∧ s.badWrite (s.spad ea) 8 = none := by decide

theorem witness_access_traps : ((withS 1 (2 ^ 21 - 1)).sreg 1).toNat % 2 ≠ 0 ∧ ((withS 1 (2 ^ 21)).sreg 1).toNat % 8 = 0 ∧
    2 ^ 21 < ((withS 1 (2 ^ 21)).sreg 1).toNat + 1 := by decide

theorem witness_control_registers : (1 : BitVec 3).toNat ≤ 1 ∧ (0x1FFE : BitVec 13).toNat % 2 = 0 ∧ (0 : BitVec 3).toNat = 0 ∧
    (17 : BitVec 13).toNat ≠ 16 ∧ busy.cl.setNow.get 0 0x28 = 0 := by decide

/-- Semaphore 3 holds n. -/
def withSem (n : Nat) : State := busy.setSem 3 n

theorem witness_semaphores : (255 : BitVec 8).toNat ≤ ((withSem 255).cl.sem.get 0 3).toNat ∧
    ((withSem 254).cl.sem.get 0 3).toNat < (255 : BitVec 8).toNat ∧
    ((withSem 254).cl.sem.get 0 3).toNat + 0 + 1 - busy.ctx.later.get 0 3 ≤ 255 ∧
    255 < ((withSem 255).cl.sem.get 0 3).toNat + 0 + 1 - busy.ctx.later.get 0 3 := by decide

/-- Barrier 3 as given. -/
def withXb (b : Barrier) (locked : Bool) : State :=
  { busy with cl := { (busy.cl.setXb 3 b) with locked := locked } }

theorem witness_gates : busy.cyc < busy.captured (busy.since + 1) ∧ busy.captured (busy.since + 0) ≤ busy.cyc ∧
    1 ≤ (withSem 1).semVal 3 ∧ busy.semVal 3 = 0 ∧ (withXb {} true).cl.locked = true ∧ (withXb {} true).semVal 3 = 0 ∧
    (∀ x ∈ (busy.cl.chan 3).q, x.issue < busy.since → x.done = true) ∧ (withXb { state := .zero } false).xbZero 3 = true ∧
    ((withXb { state := .error } false).cl.xb 3).state = .error := by decide

theorem witness_completion : ((busy.cl.chan 0).wmark - 0).toNat < 2 ^ 31 ∧ ¬ ((busy.cl.chan 0).wmark - 1).toNat < 2 ^ 31 ∧
    busy.cl.locked = false ∧ busy.cl.me.drs = [] ∧ busy.cl.me.pass = none ∧ busy.cl.pe.job = none ∧
    (∀ ch < 4, (busy.cl.chan ch).q = []) ∧ ({ busy with cl := { busy.cl with pcie := 2 } } : State).cl.pcie = 2 := by decide

/-- A task record of die 0, cluster n, in a stage. -/
def taskRec (n : Nat) (st : TStage) : TaskRec :=
  { die := 0, ord := n, lcl := n, scyc := 0, pcs := [], dly := [], sp := 0, segs := [], seedk := 0, diga := 0, digb := 0, k := []
    stage := st }

/-- A job of slot 0 led by die 0. -/
def job (l : List TaskRec) : Job :=
  { lead := 0, slot := 0, tag := 7, queue := 0, index := 0, locked := false, cexp := 0, dies := [0], root := 0, tasks := l
    steps := [{ port := false, nr := true, per := 1 }] }

/-- A job of which this cluster runs the first task and cluster 1 the second. -/
def inJob (st : TStage) : State := { busy with clk := 5, jobs := [job [taskRec 0 .running, taskRec 1 st]] }

theorem witness_check : (inJob .retired).cl.task = some ⟨0, 0, 0⟩ ∧
    (∃ j ∈ (inJob .retired).jobs, j.lead = 0 ∧ j.slot = 0 ∧ ∃ t ∈ j.tasks, t.die = (inJob .retired).curDie ∧ t.ord = 1 ∧
      t.lcl = 1 ∧ t.stage = .retired ∧ t.retClk < (inJob .retired).clk) ∧
    ¬ (∃ j ∈ (inJob .running).jobs, ∃ t ∈ j.tasks, t.ord = 1 ∧ t.stage = .retired) := by decide

theorem witness_traps : busy.strm.served = false ∧ busy.cl.flt.valid = false ∧
    ({ busy with cl := { busy.cl with c := { busy.cl.c with served := true } } } : State).strm.served = true := by decide

/-- Base register 9 of every group holds v. -/
def withBase (v : Nat) : State :=
  { busy with
    ctx := { str := .v, slot := { vb := 9 } }
    cl := { busy.cl with ve := { busy.cl.ve with b := (List.range 8).map fun g => (16 * g + 9, .ofNat 32 v) } } }

theorem witness_vector_access : let s := withBase (2 ^ 21 - 64)
    (∀ g < 8, s.groupOn g = true ∧ s.baseOf g 9 % 4 = 0 ∧ s.baseOf g 9 + 64 ≤ 2 ^ 21) ∧
    (∀ x ∈ s.lanes, s.badRead (s.spad (s.baseOf x.1 9 + 4 * x.2)) 4 = none ∧
      s.badWrite (s.spad (s.baseOf x.1 9 + 4 * x.2)) 4 = none) := by decide +kernel

theorem witness_vector_tile : let s := withBase (2 ^ 21 - 4)
    ∀ g < 8, s.groupOn g = true ∧ s.baseOf g 9 % 4 = 0 ∧ s.baseOf g 9 / 4096 * 4096 + 4096 ≤ 2 ^ 21 := by decide

theorem witness_vector_atomic : let s := withBase (2 ^ 21 - 4)
    ∀ x ∈ s.lanes, let ea := (s.baseOf x.1 9 + s.srcA x.1 x.2) % 2 ^ 32
      ea % 4 = 0 ∧ ea + 4 ≤ 2 ^ 21 ∧ s.badRead (s.spad ea) 4 = none := by decide +kernel

/-- Banks n are lent, and r is the queue of row statistics. -/
def lending (n : BitVec 4) (r : List RsEntry) : State :=
  { (inStr .v) with cl := { busy.cl with ve := { busy.cl.ve with lent := n, rsq := r } } }

/-- A drain of pass 1 with operation i. -/
def drain (i : Instr) : DrJob := { op := i, addr := 0, pass := 1, issue := 0, baddr := 0 }

theorem witness_vector_control : let s := lending 0b0010 [{ id := 1, ready := true, rows := 64 }]
    let t : State := { s with cl := { s.cl with taskcyc := 1, me := { s.cl.me with drs := [drain (.drv 1 0 0)] } } }
    (∃ g < 8, (inStr .v).groupOn g = true ∧ (inStr .v).maskOf g 7 ≠ 0) ∧
    (∀ g < 8, (inStr .v).groupOn g = true → (inStr .v).maskOf g 7 = 0xFFFF) ∧
    ¬ (∀ g < 8, (inStr .v).groupOn g = true → (inStr .v).maskOf g 7 = 0) ∧
    s.cl.ve.lent.toNat.testBit 3 = false ∧ s.bankPending 3 = false ∧ s.cl.ve.lent.toNat.testBit 1 = true ∧
    bankBusy s.cl.me 1 s.cyc = false ∧ bankBusy t.cl.me 1 t.cyc = true ∧
    s.cl.ve.rsq = [{ id := 1, ready := true, rows := 64 }] ∧ s.lentReg 61 = false ∧ s.lentReg 62 = false ∧ s.lentReg 63 = false := by
  decide

/-- The matrix engine as f makes it. -/
def withMe (f : MEng → MEng) : State := { (inStr .m) with cl := { busy.cl with me := f busy.cl.me } }

def somePass : PassSt :=
  { id := 1, cfg := [], key := 0, west := none, c0 := 0, c1 := 0, k := 1, k0 := 0, stop := 0, issue := 0, baddr := 0, phase := 3 }
def someNld : NldJob :=
  { op := .nld 0 0 0 0 0 0, base := 0, eps := 0, cfg := [], key := 0, skn := none, issue := 0, baddr := 0 }

theorem witness_matrix_issue : let s := inStr .m
    s.cl.me.nld = none ∧ s.cl.me.pass = none ∧ lastByte (2 ^ 21 - 65536) 65535 (kindWidth 0 0) < 2 ^ 21 ∧
    lastByte 0x1FFFF8 0 (kindWidth 1 7) < 2 ^ 21 ∧ 0x1FFFF8 % (kindWidth 1 7 / 8) = 0 ∧ s.cl.me.skn = none ∧
    scaleOk (s.mcf 12) = true ∧ scaleOk (s.mcf 11) = true ∧ 0x1FFFE0 % 2 = 0 ∧
    (∀ c ∈ s.passChecks 1 1 0, c.1 = false) ∧ mpeBusy s.cl s.cyc 3 = false ∧ s.cl.me.banksFree [15] = true ∧
    s.cl.ve.rsq.length < 4 ∧ (1023 : BitVec 10).toNat + ((0 : BitVec 7).toNat + 1) ≤ 1024 ∧ Memory.wf s.mem = true := by decide +kernel

theorem witness_matrix_binding : let v : Word32 := 0x3F
    v.toNat < 2 ^ 7 ∧ v.toNat % 8 ≠ 0 ∧ v.toNat / 8 % 8 ≤ v.toNat % 8 := by decide

theorem witness_matrix_waits : (withMe fun e => { e with nld := some someNld }).cl.me.nld.isSome = true ∧
    (withMe fun e => { e with pass := some somePass }).cl.me.pass.isSome = true ∧
    (let s := withMe fun e => { e with nld := some someNld }
     mpeBusy { s.cl with taskcyc := 1 } 1 3 = true) ∧
    (withMe fun e => { e with aclrs := [{ op := .aclr 3, addr := 3, issue := 0, due := 16 }] }).cl.me.bankBusy 3 = true := by
  decide +kernel

theorem witness_drains : (inStr .m).cl.me.banksFree [63 % 16] = true ∧ (2 ^ 23 - 4) % 4 = 0 ∧ 2 ^ 23 - 4 < 2 ^ 23 ∧
    (lending 0b0100 []).cl.ve.lent.toNat.testBit 2 = true ∧ (lending 0b0100 []).ctx.ret.toNat.testBit 2 = false ∧
    (lending 0b0100 []).cl.ve.lent.toNat.testBit 3 = false := by decide +kernel

/-- A drain that is due, with an absolute maximum to merge. -/
def drained : DrJob := { op := .drn 4 0 1 0 0 1 2, addr := 4, pass := 1, issue := 0, start := some 0, read := true, row := 64, baddr := 0 }

theorem witness_drain_completion : let s := { (withMe fun e => { e with drs := [drained] }) with bad := [] }
    ({ s with cl := { s.cl with taskcyc := 200 } } : State).cl.me.drs = [drained] ∧ drained.due 200 = true ∧ drained.am = true ∧
    s.badWrite drained.word 4 = none ∧ (drained.satte && drained.sat) = false ∧
    ({ drained with op := .drn 4 0 0 0 0 0 0 } : DrJob).am = false := by decide +kernel

/-- A pair engine with a grid of 4 by 4 by 4 cells in a box of 2^17 units. -/
def withPe (j : Option PeJob) : State :=
  { (inStr .m) with cl := { busy.cl with
      taskcyc := 100
      pe := { cfg := [(0, 0x20000), (1, 0x20000), (2, 0x20000), (3, 7), (8, 0x30C3)], job := j } } }

def peJob (i : Instr) (level : Nat) (fin : Bool) : PeJob :=
  { op := i, xr := 0, cfg := (withPe none).cl.pe.cfg, issue := 0, baddr := 0, level := level, at_ := 20, fin := fin }

theorem witness_pair_issue : let s := withPe none
    s.cl.pe.job = none ∧ (∀ c ∈ s.psetsChecks (peJob (.psets 0 0 2 0 0 0 0) 2 false) 0 1 0 1, c.1 = false) ∧
    (∀ c ∈ s.pcellChecks { peJob (.pcell 0 0 2 0 0 63) 3 false with h := 0 } 0 64, c.1 = false) ∧
    s.cl.pe.cf 6 % 16 = 0 ∧ s.cl.pe.cf 6 + 16 * 65536 ≤ 2 ^ 21 ∧ s.cl.pe.cf 5 % 32 = 0 ∧ s.cl.pe.cf 5 + 32 * 65536 ≤ 2 ^ 21 := by
  decide +kernel

/-- Parts run in turn from s: the state after the first k of them; `none` where one does not go on without a trap. -/
def runTo (l : List (Nat × SlotF × (State → Out))) (s : State) : Nat → Option State
  | 0 => some s
  | k + 1 =>
    match runTo l s k, l[k]? with
    | some u, some p =>
      (match p.2.2 { u with ctx := { u.ctx with pos := p.1, trap := none, slot := p.2.1 } } with
       | .next v => if v.ctx.trap.isNone then some v else none
       | _ => none)
    | _, _ => none

theorem witness_header : let s : State := { (inStr .m) with ctx := { str := .m, words := [(1, .mcfg 0 (.imm 0x24))] } }
    let l := (s.headerParts 0b0010000).map fun p => (p.pos, s.ctx.slot, p.run)
    s.bankClash 0b0010000 = false ∧ l.length = 7 ∧
    ((runTo l { s with ctx := { s.ctx with wait := false } } 7).any fun t => !t.ctx.wait && t.cl.me.cfgP == [(0, 0x24)]) = true := by
  decide +kernel

/-- The HCW of the example after R206: ADDI in VA, FMA in VB, in table entry 5. -/
def withHcw : State :=
  (inStr .v).wrBytes (0x60000 + 0xA0) (bytesOf 0xFF15010400000001109453551300000000000000000000000000000000000000 32)

theorem witness_hcw : (match decodeSlots (withHcw.hcw 5) with
    | .ok l => decide (l.map (·.ins) = [.addi, .fma]) && (withHcw.crossBad l).isNone &&
        ((runTo (l.map fun x => (x.pos, x.f, slotMeaning x.ins))
          { withHcw with ctx := { withHcw.ctx with gen := (withHcw.hcw 5).gen, wait := false } } 2).any fun t => !t.ctx.wait)
    | .error _ => false) = true := by decide +kernel

theorem witness_matrix_completions :
    let s := withMe fun e => { e with pass := some somePass, drs := [{ (drain (.drn 4 0 0 0 0 0 0)) with read := false }] }
    let t := withMe fun e => { e with
      nld := some { someNld with pos := 1 }
      aclrs := [{ op := .aclr 3, addr := 3, issue := 0, due := 0 }]
      cblds := [{ cb := 2, issue := 0, base := 0x1FFFE0, slen := 0x3F, scale := 0x3F800000, due := 0 }]
      rstats := [{ op := .rstat 448 63 0 15, addr := 448, issue := 0, due := 0, id := 1 }] }
    s.cl.me.pass = some somePass ∧ (∀ j ∈ s.cl.me.drs, j.read = true ∨ somePass.id ≤ j.pass) ∧
    someNld.count = 1 ∧ someNld.issue + 4 + (someNld.count + 255) / 256 ≤ 5 ∧ t.cl.me.aclrs.length = 1 ∧
    t.badRead (t.spad 0x1FFFE0) 32 = none ∧
    (∀ i ≤ 63, t.badRead (t.accAddr ((448 + i) / 64) ((448 + i) % 64) 0) (4 * 16) = none) := by decide +kernel

theorem witness_pair_units :
    let b := peJob (.psets 0 0 2 0 0 0 1) 2 false
    let c := peJob (.paclr 0 7) 0 false
    let s := withPe (some b)
    s.cl.pe.job = some b ∧ b.isIndex = false ∧ s.blockCause b = none ∧ b.at_ + s.blockCost b ≤ s.cyc ∧ b.sat = false ∧
    c.groupCycle < s.cyc ∧ c.i < c.indices ∧ (peJob (.psets 0 0 2 0 0 0 0) 2 true).fin = true ∧
    (peJob (.psets 0 0 2 0 0 0 0) 2 true).at_ ≤ s.cyc := by decide +kernel

/-- Two results due for one register, and one not yet due. -/
def landing : State :=
  { busy with cl := { busy.cl with ve := { busy.cl.ve with
      pend := [{ dest := .lane 0 9 0, val := 1, due := 0 }, { dest := .lane 0 9 0, val := 2, flags := 1, due := 0 },
        { dest := .lane 0 9 1, val := 3, due := 9 }] } } }

theorem witness_results_land : (∀ p ∈ landing.cl.ve.pend, p.due ≤ landing.cyc → p.dest ≠ .lane 0 9 1) ∧
    (∀ p ∈ landing.cl.ve.pend, p.due ≤ landing.cyc → p.dest = .lane 0 9 0) ∧
    (∀ q ∈ landing.cl.ve.pend.drop 2, ¬ q.due ≤ landing.cyc) := by decide

/-! The stream array, drains and pairs. -/

/-- A pass of one row, one column and one inner index, with the stream length l and early stop n. -/
def smallPass (l : Word32) (n phase : Nat) : PassSt :=
  { somePass with
    cfg := [(0, l)], stop := n, phase := phase
    west := some { kind := 0, base := 0, eps := 0, rows := 1, pitch := 1, fmt := 0, rnd := 0, cb := 0, skw := none } }

/-- A pass that streams: packed with P = 2 and D = 1, and one outer index after another with P = D = 7. -/
theorem witness_pass_counts : (∀ l : Word32, ∀ n, let p := smallPass l n 2
      p.phase = 2 ∧ p.stop = n ∧ p.c 0 0x3F = l ∧ p.outer = 0 ∧ p.kstep = 0 ∧ p.cnt = [] ∧ p.k = 1 ∧ p.rows = 1 ∧ p.c0 = 0 ∧
      p.c1 = 0) ∧
    0x0A % 8 + 0x0A / 8 % 8 ≤ 7 ∧ ¬ 0x3F % 8 + 0x3F / 8 % 8 ≤ 7 :=
  ⟨fun _ _ => ⟨rfl, rfl, rfl, rfl, rfl, rfl, rfl, rfl, rfl, rfl⟩, by decide, by decide⟩

/-- A pass in setup: raw codes 1 and 5 (P = 1 admits levels 0 and 1), and elements that convert or go out. -/
def settingUp (p : PassSt) (raw : Nat) : State := (withMe fun e => { e with pass := some p }).wrLE (winBase 0 + offSpad) 4 raw

def okE {α : Type} (r : Except Trap α) : Bool := match r with | .ok _ => true | .error _ => false

theorem witness_pass_setup :
    (let p := smallPass 1 0 1
     let s := settingUp p 1
     s.cl.me.pass = some p ∧ p.phase = 1 ∧ (p.rows + (p.c1 - p.c0 + 1)) * p.k = 2 ∧ p.setup = 0 ∧ okE (s.setupElem p 0) = true ∧
       okE (s.setupElem p 1) = true ∧ s.bad = [] ∧ 0 < p.rows * p.k ∧ p.rows * p.k ≤ 1 ∧ okE ((settingUp p 5).setupElem p 0) = false) ∧
    (let b : WestBind := { kind := 1, base := 0, eps := 0, rows := 1, pitch := 1, fmt := 7, rnd := 0, cb := 0, skw := none }
     let p := { smallPass 0x3F 0 1 with west := some b }
     okE ((settingUp p 0x3F800000).convElem true (p.conv b) 0 0 0 none false 0) = true ∧
     okE ((settingUp p 0x7F800000).convElem true (p.conv b) 0 0 0 none false 0) = false) := by decide +kernel

theorem witness_edge_conversion : fval 0x3F800000 = .fin false (2 ^ 23) (-23) ∧
    (let b := { (withMe id).cl.me with cb := [(0, { codes := [(3, 7)], flags := 2 })] }
     let c (kind : Nat) : Conv :=
       { kind := kind, fmt := 7, rnd := 0, cb := 0, slen := 0x3F, scale := 0x3F800000, key := 0, csid := 0, ctid := 0 }
     (c 0).kind = 0 ∧ (c 1).kind = 1 ∧ (c 2).kind = 2 ∧ ((c 2).code b 0 3).2 = none ∧ ((c 2).code b 0 1).2.isSome = true ∧
     ((c 1).code b 0 0x7F800000).2.isSome = true) ∧
    (let s (n : Nat) : State := (withMe id).wrLE (winBase 0 + offSpad) 8 (n * 2 ^ 32 + 1)
     (s 0).rdLE ((s 0).spad 4) 4 < (s 0).rdLE ((s 0).spad 0) 4 ∧ (s 1).rdLE ((s 1).spad 0) 4 ≤ (s 1).rdLE ((s 1).spad 4) 4 ∧
     0 + (s 0).ahead true (some 0) + ((s 0).cl.me.later.filter (·.1 == 0)).length < 1) := by
  decide +kernel

theorem witness_shadow_load :
    (let j := { someNld with op := .nld 0 0 0 0 0 0 }
     let s := withMe fun e => { e with nld := some j }
     s.cl.me.nld = some j ∧ min j.count (256 * (4 - j.issue - 3)) - j.pos = 1 ∧ s.bad = [] ∧ j.base + j.eps + 0 < 2 ^ 21 ∧
     s.badWrite (winBase s.cur + offShadow) 1 = none ∧
     okE (s.convElem false j.conv j.base (j.eps + j.pos) 0 j.skn (s.passFirst j) j.baddr) = true) ∧
    (let j := { someNld with op := .nld 0 1 7 0 0 0 }
     let s := (withMe fun e => { e with nld := some j }).wrLE (winBase 0 + offSpad) 4 0x7F800000
     s.cl.me.nld = some j ∧ okE (s.convElem false j.conv j.base (j.eps + j.pos) 0 j.skn (s.passFirst j) j.baddr) = false) := by
  decide +kernel

theorem witness_drain_rows :
    (let j : DrJob := { (drain (.drn 4 1 0 0 0 0 0)) with start := some 0 }
     j.read = false ∧ j.start = some 0 ∧ j.row = 0 ∧ j.mag = 0 ∧ j.sat = false ∧ 0 + 16 ≤ 16 ∧
       (withMe id).badRead ((withMe id).accAddr (j.addr % 16) 0 0) 0x10000 = none) ∧
    ({ (drain (.drv 1 0 0)) with start := some 0 } : DrJob).op = .drv 1 0 0 := by decide +kernel

theorem witness_pair_arithmetic :
    (let w := (withPe none).rdLE ((withPe none).pmem 0x18000) 8
     w / 2 ^ 40 % 2 ^ 10 + 1 < 0 / 2 ^ (w / 2 ^ 34 % 2 ^ 6) + 2) ∧
    (let s := (withPe none).wrLE ((withPe none).pmem 0x18000) 8 (2 ^ 40)
     let w := s.rdLE (s.pmem 0x18000) 8
     0 / 2 ^ (w / 2 ^ 34 % 2 ^ 6) + 2 ≤ w / 2 ^ 40 % 2 ^ 10 + 1) ∧
    (1 : Nat) ≠ 2 ∧ (peJob (.psets 0 0 3 0 0 1 1) 2 false).half = true ∧ ((withPe none).prec 0 1).fixed = false ∧
    (let s := (withPe none).wrLE ((withPe none).spad 0) 4 1
     s.rdLE (s.spad 4) 4 < s.rdLE (s.spad 0) 4 ∧ (withPe none).rdLE ((withPe none).spad 0) 4 ≤ (withPe none).rdLE ((withPe none).spad 4) 4) := by
  decide +kernel

theorem witness_pair_causes :
    (let j := peJob (.pcell 0 0 2 0 0 63) 0 false
     let s := withPe (some j)
     j.trapAt = none ∧ j.isIndex = false ∧ j.fin = false ∧ j.level = 0 ∧ j.at_ ≤ s.cyc ∧ s.hdrBad j = none) ∧
    (let j := peJob (.psets 0 0 2 0 0 0 1) 2 false
     let s := { (withPe (some j)) with bad := [(withPe none).spad 0 / 8] }
     j.level = 2 ∧ (s.blockCause j).isSome = true ∧ j.at_ ≤ s.cyc) ∧
    (let j := { peJob (.psets 0 0 2 0 0 0 1) 2 false with trapAt := some 100 }
     (∃ c ∈ j.trapAt, c ≤ (withPe (some j)).cyc) ∧ (withPe (some j)).cl.flt.valid = false) ∧
    (let j := { peJob (.pcidx 0 7) 0 false with cfg := (10, 0x1000) :: (withPe none).cl.pe.cfg }
     let s := withPe (some j)
     j.groupCycle < s.cyc ∧ j.i < j.indices ∧ s.bad = [] ∧ j.cf 6 + 16 * (0 + j.groupLeft) ≤ j.cf 10 + 4 * 0) := by
  decide +kernel

theorem witness_configuration : let e := (withMe fun e => { e with
      cfgP := [(3, 5), (3, 7)], pcfgP := [(4, 9)], bindP := [(true, some 16), (false, none)] }).cl.me
    e.cfgP = [(3, 5)] ++ (3, 7) :: [] ∧ (∀ w ∈ e.cfgP, w.1 ≠ 4) ∧ e.pcfgP = [] ++ (4, 9) :: [] ∧
    e.bindP = [] ++ (true, some 16) :: [(false, none)] ∧ (∀ w ∈ [(false, (none : Option Nat))], w.1 ≠ true) := by decide

theorem witness_loop_offsets : (1 : BitVec 10) ≠ 0 ∧ (1 : BitVec 8) ≠ 0 ∧ (⟨8, [0, 1]⟩ : Imm 13).ext.length ≤ 2 ∧
    ∀ n ∈ [10, 14, 16, 48], (BitVec.ofNat 13 n).toNat = n ∧ (0 : BitVec 3).toNat = 0 := by decide
/-- A shape in the data scratchpad at base b: format f, e0 by e1 elements, rows s1 elements apart. -/
def padShape (f b e0 e1 s1 : Nat) : List Nat := [2 ^ 63 + f * 2 ^ 59 + b, (e0 - 1) + (e1 - 1) * 2 ^ 16, s1, 0]

/-- Shape registers 0 and 1, configuration, and one page of the die pool at virtual 0. -/
def xWith (a d : List Nat) (cfg : SMap Word64) : State :=
  { (inStr .x) with
    cl := { busy.cl with xe := { cfg := cfg, sh := (a ++ d).zipIdx.map fun e => (e.2, .ofNat 64 e.1) } }
    dies := [(0, { present := true, tlb := [{ root := 0, vbase := 0, size := 65536, phys := 0x4000000, perm := 3 }] })] }

/-- What a command over local shapes needs to issue. -/
def canIssue (s : State) (src dst : List Shape) : Bool :=
  match s.sides src dst with
  | .ok (ps, pd) => decide ((distinctPages (ps ++ pd)).length ≤ 128) && decide ((s.cl.chan 0).inFlight < 16) &&
      !s.overPinned ((distinctPages (ps ++ pd)).map (·.2))
  | .error _ => false

def legalB (sh : Shape) : Bool :=
  decide (sh.fmt < 12) && !sh.mbz && decide (sh.count ≤ 2 ^ 32) && (decide (sh.bits < 8) || sh.base % (sh.bits / 8) == 0) &&
    (!sh.loc || (decide (sh.base < 2 ^ 21) && decide (0 ≤ sh.loByte) && decide (sh.hiByte < 2 ^ 21)))

theorem legalB_iff (sh : Shape) (h : legalB sh = true) : sh.legal := by
  simp only [legalB, Bool.and_eq_true, decide_eq_true_eq, Bool.not_eq_true', Bool.or_eq_true, beq_iff_eq] at h
  obtain ⟨⟨⟨⟨h1, h2⟩, h3⟩, h4⟩, h5⟩ := h
  refine ⟨h1, h2, h3, fun hb => ?_, fun hl => ?_⟩
  · rcases h4 with h4 | h4
    · omega
    · exact h4
  · rcases h5 with h5 | h5
    · simp_all
    · exact ⟨h5.1.1, h5.1.2, h5.2⟩

/-- COPY, XPOSE, CVT, DECODE of shapes that end at the last byte of the scratchpad. -/
theorem witness_copies :
    let a := shapeOf ((padShape 2 (2 ^ 21 - 24) 2 3 2).map (.ofNat 64))
    let d := shapeOf ((padShape 2 0 3 2 3).map (.ofNat 64))
    let b := shapeOf ((padShape 3 0 6 1 0).map (.ofNat 64))
    let s := xWith (padShape 2 (2 ^ 21 - 24) 2 3 2) (padShape 2 0 3 2 3) []
    s.ctx.str = .x ∧ shapeOf (s.shapeW 0) = a ∧ shapeOf (s.shapeW 1) = d ∧ legalB a = true ∧ legalB d = true ∧ legalB b = true ∧
    a.count = d.count ∧ a.bits = d.bits ∧ d.e0 = a.e1 ∧ d.e1 = a.e0 ∧ d.e2 = a.e2 ∧ d.e3 = a.e3 ∧ a.fmt ≤ 9 ∧ d.fmt ≤ 9 ∧
    b.count = d.count ∧ a.bits ≠ b.bits ∧ b.fmt = 3 ∧ canIssue s [a] [d] = true ∧
    (shapeOf ((padShape 9 0 8 1 0).map (.ofNat 64))).fmt = 9 ∧
    (∀ q ∈ codeChecks s (shapeOf ((padShape 11 0 6 1 0).map (.ofNat 64))), q.1 = false) := by decide +kernel

/-- Loads that end at the last byte, and regions of one tile. -/
theorem witness_loads_tiles :
    let a := shapeOf ((padShape 3 0 32 1 0).map (.ofNat 64))
    let t := shapeOf ((padShape 2 0 1024 1 0).map (.ofNat 64))
    let g : Word64 := .ofNat 64 (0 * 2 ^ 42 + 8192 * 2 ^ 21 + (2 ^ 21 - 8192))
    let s := xWith (padShape 3 0 32 1 0) (padShape 2 0 1024 1 0) [(6, g)]
    legalB a = true ∧ a.fmt = 3 ∧ 0x3FE0 % 32 = 0 ∧ a.count % 32 = 0 ∧ 0x3FE0 + a.count ≤ 0x4000 ∧ canIssue s [a] [] = true ∧
    legalB t = true ∧ t.bits = 32 ∧ t.count % 1024 = 0 ∧ s.xcf 6 = g ∧ ¬ (crgnTiles g = 1 ∧ crgnLen g = 0) ∧
    0 + t.count / 1024 ≤ crgnTiles g ∧ crgnBase g + crgnLen g ≤ 2 ^ 21 ∧ canIssue s [t] [] = true := by decide +kernel

/-- A channel with sixteen transfers in flight; a page that nothing maps. -/
def someXfer (i : Instr) : Transfer := { id := 1, op := i, issue := 0, start := 0, least := 0, baddr := 0 }
def withChan (l : List Transfer) (s : State) : State := { s with cl := s.cl.setChan 0 { q := l } }

theorem witness_issue_stops :
    ¬ ((withChan (List.replicate 16 (someXfer .nop)) busy).cl.chan 0).inFlight < 16 ∧
    (match busy.sides [shapeOf [0, 0, 0, 0]] [] with | .error _ => true | .ok _ => false) = true := by decide +kernel

/-- SEND to the die's own cluster 1, RECV, and an atomic on the pool. -/
theorem witness_exchange :
    let a := shapeOf ((padShape 3 0 64 1 0).map (.ofNat 64))
    let s := xWith (padShape 3 0 64 1 0) [] []
    let r : Word64 := .ofNat 64 (0 * 2 ^ 30 + 1 * 2 ^ 26 + 5 * 2 ^ 21 + (2 ^ 21 - 64))
    let p : PlanEnt := { start := 0, len := 1, cl := 0, ch := 0, ddie := 0, dcl := 1, slack := false, bytes := 64 }
    legalB a = true ∧ r.toNat / 2 ^ 36 = 0 ∧ r.toNat % 2 ^ 21 + a.bytes a.count ≤ 2 ^ 21 ∧
    (s.die (r.toNat / 2 ^ 30 % 64)).present = true ∧ (s.hops s.curDie (r.toNat / 2 ^ 30 % 64)).isSome = true ∧
    canIssue s [a] [] = true ∧ s.cl.locked = false ∧ s.plan = [] ∧
    ({ s with jobs := [{ (job []) with plans := [(0, [p])] }] } : State).plan = [p] ∧
    (s.cl.xb 31).state ≠ .armed ∧ (8 : Word32) ≠ 0 ∧ (withXb { state := .armed } false).cl.xb 3 = { state := .armed } ∧
    (65528 : Nat) % 8 = 0 ∧ (2 ^ 21 - 8) % 8 = 0 ∧
    (match s.checkPages (fun _ => .ramo true) [] [65528] with
     | .ok pd => decide ((distinctPages pd).length ≤ 128) && !s.overPinned ((distinctPages pd).map (·.2))
     | .error _ => false) = true := by decide +kernel

theorem witness_copy_registers : let s := inStr .x
    s.ctx.str = .x ∧ (1 = 1 ∧ (128 : Nat) % 8 = 0) ∧ (5 = 5 ∧ 2 ^ 21 / 2 ^ 21 % 2 ^ 10 ≠ 0) ∧ (6 ≤ 9 ∧ 2 ^ 54 / 2 ^ 54 ≠ 0) ∧
    ¬ (127 % 8 = 0 ∨ 128 ≤ 127) ∧ ¬ (64 * 2 ^ 21 + 64) / 2 ^ 54 ≠ 0 ∧ (7 : BitVec 6).toNat < 8 ∧
    (∀ t ∈ (s.cl.chan 0).q, t.issue ≠ s.cyc) ∧ s.cl.x.wait = none ∧
    ((s.cl.chan 0).wmark - ((s.cl.chan 0).nextId - 1)).toNat < 2 ^ 31 ∧
    2 ^ 31 ≤ ((s.cl.chan 0).wmark - (({ (s.cl.chan 0) with nextId := 2 } : Chan).nextId - 1)).toNat ∧ s.cl.locked = false := by
  decide +kernel

/-- A COPY at work, and finished. -/
def copyXfer (fin : Bool) : Transfer :=
  { someXfer (.copy 0 1 0 0 0 ⟨0, []⟩) with
    src := (padShape 2 0 4 1 0).map (.ofNat 64), dst := (padShape 2 (2 ^ 21 - 16) 4 1 0).map (.ofNat 64), fin := fin, due := some 3 }

theorem witness_transfer_completion : let t := copyXfer true
    let s := withChan [t, { copyXfer false with id := 2 }] (inStr .x)
    s.xferOf s.cur 0 1 = some t ∧ t.done = false ∧ t.fin = true ∧ t.out = [] ∧ t.heldW = [] ∧ t.start + t.least ≤ s.xnow ∧ t.failed = none ∧
    (s.cl.chan 0).q = [t, { copyXfer false with id := 2 }] ∧
    (let u := withChan [{ copyXfer false with id := 2 }, t] (inStr .x)
     u.xferOf u.cur 0 1 = some t ∧ ({ t with failed := some (1, 2) } : Transfer).failed ≠ none) ∧
    (let v : State := { s with cl := { s.cl with locked := true, taskcyc := 3 } }
     v.cl.locked = true ∧ (∃ d ∈ t.due, d ≤ v.cyc) ∧ (∃ d ∈ t.due, ({ v with cl := { v.cl with taskcyc := 2 } } : State).cyc < d)) := by
  decide +kernel

/-- C waits at GATE 0, 3, 5 since cycle 0. -/
def gated (cyc : Nat) : State :=
  let s := (busy.wrLE 0 4 (0x8C000000 + 3 * 2 ^ 17 + 5)).wrLE 4 4 0x80000000
  { s with cl := { s.cl with locked := true, taskcyc := .ofNat 64 cyc, c := { wait := some { since := 0 }, ended := false } } }

theorem witness_cluster_events : (gated 4).gatesAt .c = [(0, 0, 3, 5)] ∧ (gated 4).cl.late = false ∧ (gated 4).cyc < 0 + 5 ∧
    0 + 5 ≤ (gated 5).cyc ∧ (gated 5).semVal 3 = 0 ∧ 1 ≤ ((gated 5).setSem 3 1).semVal 3 ∧
    (inJob .running).cl.task = some ⟨0, 0, 0⟩ ∧ (∀ st, ((inJob .running).cl.str st).ended = true) ∧ (inJob .running).cl.idle = true ∧
    ((withXb { state := .armed, due := some 0 } true).cl.xb 3).due = some 0 ∧
    ({ busy with cl := { busy.cl with pcie := 1 } } : State).cl.pcie = 1 := by
  refine ⟨by decide, by decide, by decide, by decide, by decide, by decide, by decide, fun st => by cases st <;> decide, by decide,
    by decide, by decide⟩

/-! Queues and launches. -/

/-- Die 0 runs; queue 3 holds one entry at DRAM address 0x1000000000; memory holds the given words (address, bytes, value). -/
def ready (l : List (Nat × Nat × Nat)) : State :=
  l.foldl (fun s w => s.wrLE w.1 w.2.1 w.2.2)
    { boot := { bstate := 5 }, mtime := 9
      dies := [(0, { present := true, queues := [(3, { en := true, qbase := 0x1000000000, qtail := 1 })] })] }

/-- A launch entry, its block with one record, and its tables (R357 to R359, R389, R458). -/
def launchWords (locked : Nat) : List (Nat × Nat × Nat) :=
  let e := 0x1000000000
  let b := e + 0x1000
  [(e, 1, 1), (e + 4, 4, 7), (e + 8, 8, b), (e + 16, 4, 736), (b, 4, 0x4C424C31), (b + 4, 4, 1), (b + 8, 8, 1),
   (b + 0x10, 1, locked), (b + 0x11, 1, 10), (b + 0x14, 4, 1), (b + 64, 8, e + 0x2000), (b + 72, 8, e + 0x3000),
   (b + 80, 8, e + 0x4000), (b + 88, 2, 1), (e + 0x2004, 1, 10), (e + 0x3000, 4, 1), (e + 0x3008, 4, 1), (e + 0x4000, 2, 1),
   (e + 0x4008, 8, 1)]

def headIs (s : State) (h : Head) : Prop :=
  ∃ p a, (s.die 0).pick = some (p, 3, a) ∧ s.boot.bstate = 5 ∧ (s.die 0).present = true ∧ (s.recordPick 0 p a).headOf 0 3 = h

theorem witness_heads : headIs (ready []) .nop ∧ headIs (ready [(0x1000000000, 1, 1)]) (.refuse 2) ∧
    headIs (ready [(0x1000000000, 1, 9)]) (.refuse 1) ∧ headIs { (ready []) with bad := [0x1000000000 / 8] } (.refuse 13) ∧
    ({ (ready []) with bad := [0x1000000000 / 8] } : State).errs (0x1000000000 + 4) 4 = true ∧
    (ready [(0x1000000000, 1, 1)]).errs (0x1000000000 + 4) 4 = false ∧ headIs (ready (launchWords 1)) (.claim [0]) ∧
    headIs (ready (launchWords 0)) (.admits [0]) :=
  ⟨⟨0, { q := 3, u := 1, sel := some 3 }, by decide +kernel⟩, ⟨0, { q := 3, u := 1, sel := some 3 }, by decide +kernel⟩,
    ⟨0, { q := 3, u := 1, sel := some 3 }, by decide +kernel⟩, ⟨0, { q := 3, u := 1, sel := some 3 }, by decide +kernel⟩,
    by decide +kernel, by decide +kernel, ⟨0, { q := 3, u := 1, sel := some 3 }, by decide +kernel⟩,
    ⟨0, { q := 3, u := 1, sel := some 3 }, by decide +kernel⟩⟩

/-- Words and then others, the later ones in place of the former. -/
def block (l : List (Nat × Nat × Nat)) : State := ready (launchWords 1 ++ l)

/-- Claims.EntryForm, Claims.TablesGood and Claims.LoopsGood are decidable. -/
def entryFormDec (s : State) (e : Nat) : Decidable (Claims.EntryForm s e) := by
  unfold Claims.EntryForm Claims.zeros; dsimp only; infer_instance
set_option synthInstance.maxSize 2000 in
set_option synthInstance.maxHeartbeats 200000 in
def tablesGoodDec (s : State) (e : Nat) : Decidable (Claims.TablesGood s e) := by
  unfold Claims.TablesGood Claims.zeros; dsimp only; infer_instance
def loopsGoodDec (s : State) (e : Nat) : Decidable (Claims.LoopsGood s e) := by
  unfold Claims.LoopsGood Claims.zeros; dsimp only; infer_instance

/-- Which of the three hold of a block with the given words. -/
def checks (l : List (Nat × Nat × Nat)) : Bool × Bool × Bool :=
  let e := 0x1000000000
  (@decide _ (entryFormDec (block l) e), @decide _ (tablesGoodDec (block l) e), @decide _ (loopsGoodDec (block l) e))

/-- An entry that passes every check, and one for each check that stops it there. -/
theorem witness_launch_checks : let b := 0x1000001000
    checks [] = (true, true, true) ∧ (checks [(b, 4, 0)]).1 = false ∧ (checks [(b + 0x11, 1, 9)]).1 = true ∧
    (checks [(b + 0x11, 1, 17)]).1 = true ∧ (checks [(b + 8, 8, 2)]).1 = true ∧
    (Claims.diesOf (block [(b + 8, 8, 2)]) b).head? ≠ some 0 ∧ (checks [(b + 88, 2, 2)]) = (true, false, true) ∧
    checks [(0x1000004000, 2, 0)] = (true, true, false) := by decide +kernel

theorem witness_launch_heads : let x := (block []).die 0
    (block []).bad = [] ∧ Memory.wf (block []).mem = true ∧ Claims.num (block []) 0x1000000000 1 = 1 ∧
    Claims.num (ready []) 0x1000000000 1 = 0 ∧ Claims.num (ready [(0x1000000000, 1, 9)]) 0x1000000000 1 = 9 ∧
    ((x.queue 3).qhead - (x.queue 3).qchead).toNat < 2 ^ (x.queue 3).log2n.toNat ∧
    ((block []).jobs.filter fun j => j.lead == 0).length < 64 ∧ (block []).claims = [] ∧
    (∀ k ∈ Claims.diesOf (block []) 0x1000001000, ((block []).die k).present = true) ∧
    ¬ (∀ k ∈ Claims.diesOf (block []) 0x1000001000, (({ (block []) with dies := [] } : State).die k).present = true) ∧
    (Claims.diesOf (block []) 0x1000001000).head? = some 0 := by decide +kernel

theorem witness_queue_words : let x := ((ready []).die 0).queue 3
    let w : Word32 := 0x80000004
    let v : Word32 := 0xC0000008
    (ready []).boot.bstate = 5 ∧ ({} : State).boot.bstate ≠ 5 ∧
    0 < (x.qtail - x.qhead).toNat ∧ x.log2n = 4 ∧ w.toNat % 16 = 4 ∧ (0x80000005 : Word32).toNat % 16 = 5 ∧
    ((({} : Queue).qtail - ({} : Queue).qhead).toNat = 0 ∧ ({} : Queue).owed = [] ∧ v.toNat % 16 = 8) ∧
    (let full : Die := { queues := (List.range 17).map fun n => (n, { en := true, wgt := 15 }) }
     256 < (((full.setQueue 16 { en := true, wgt := 0 }).queues.filter fun e => e.2.en && e.2.pri == 0).map
       fun e => e.2.wgt.toNat + 1).foldl (· + ·) 0) ∧
    ((([(3, x)] : SMap Queue).filter fun e => e.2.en && e.2.pri == 0).map fun e => e.2.wgt.toNat + 1).foldl (· + ·) 0 ≤ 256 := by
  decide +kernel

/-- Cluster 0 awaits task 0 of a job, with a record as given. -/
def loading (t : TaskRec) : State := { clk := 5, cl := { pendl := [⟨0, 0, 0⟩] }, jobs := [job [t]] }

/-- Segments: a bytes for the first half of the instruction scratchpad at offset o; n bytes at DRAM for the last bytes of the data
scratchpad. -/
def segs (a o n off : Nat) : List Seg := [⟨0x1000000000, a, o⟩, ⟨0, 0, 0⟩, ⟨0x1000000000, n, off⟩, ⟨0, 0, 0⟩, ⟨0, 0, 0⟩]

theorem witness_loads :
    (∃ j, (loading { taskRec 0 .loaded with first := true }).job? 0 0 = some j ∧
      (loading { taskRec 0 .loaded with first := true }).firstDue j = true) ∧
    (let t := { taskRec 0 .waiting with segs := segs 0 0 4 0x1FFFFD }
     let s := loading t
     ∃ j, s.job? 0 0 = some j ∧ j.taskAt 0 0 = some (0, t) ∧ s.loadDue j 0 t = true ∧ (s.loadTask t).2 = false) ∧
    (let t := { taskRec 0 .waiting with segs := segs 8 0x1FFF9 0 0 }
     let s := loading t
     ∃ j, s.job? 0 0 = some j ∧ s.loadDue j 0 t = true ∧ (s.loadTask t).2 = false ∧ (s.cluster 0).tagA ≠ some t.diga ∧
       0x20000 < 0x1FFF9 + 8) ∧
    (let t := { taskRec 0 .waiting with segs := segs 8 0 4 0x1FFFFC }
     let s := { loading t with cl := { (loading t).cl with tagA := some t.diga } }
     ∃ j, s.job? 0 0 = some j ∧ s.loadDue j 0 t = true ∧ (s.loadTask t).2 = true ∧ winBase 0 + 0x400000 ≤ 0x1000000000) ∧
    (let t := { taskRec 0 .loaded with startAt := some 5 }
     let s := loading t
     ∃ j, s.job? 0 0 = some j ∧ j.taskAt 0 0 = some (0, t) ∧ s.startDue j 0 t = true) :=
  ⟨⟨job [{ taskRec 0 .loaded with first := true }], by decide +kernel⟩, ⟨_, rfl, by decide +kernel⟩, ⟨_, rfl, by decide +kernel⟩,
    ⟨_, rfl, by decide +kernel⟩, ⟨_, rfl, by decide +kernel⟩⟩

/-! Hosting. -/

/-- Logical clusters 0 and 1 on physical cluster 0, the others one each; physical clusters 15 to 17 are defective. -/
def doubled : SMap Byte :=
  [(0, 0xC0), (1, 0xE0)] ++ (List.range 14).map fun n => (n + 2, .ofNat 8 (0x80 + n + 1))

def dieWith (m : SMap Byte) (d : BitVec 18) : State := { dies := [(0, { present := true, staged := m, clmap := m, defmask := d })] }

/-- What R366 asks of a table. -/
def mapIsLegal (m : SMap Byte) (def_ : BitVec 18) : Bool :=
  let ent (n : Nat) : Byte := m.get 0 n
  let phys (n : Nat) : Nat := (ent n).toNat % 32
  let here (p : Nat) : List Nat := (List.range 16).filter fun n => phys n == p
  (List.range 16).all (fun n => (ent n).getLsbD 7 && decide (phys n < 18) && !def_.getLsbD (phys n)) &&
  (List.range 18).all (fun p => decide ((here p).length ≤ 2)) &&
  (decide (2 < ((List.range 18).filter def_.getLsbD).length) || (List.range 18).all fun p => decide ((here p).length ≤ 1)) &&
  (List.range 16).all fun n => if (here (phys n)).length = 1 then !(ent n).getLsbD 6 && !(ent n).getLsbD 5
    else (ent n).getLsbD 6 && (List.range 16).all fun k =>
      decide (k = n) || phys k != phys n || (ent k).getLsbD 5 != (ent n).getLsbD 5

theorem witness_remap : mapIsLegal doubled 0x38000 = true ∧
    mapIsLegal ((List.range 16).map fun n => (n, .ofNat 8 (0x80 + n))) 0x30000 = true ∧
    mapIsLegal doubled 0x30000 = false ∧
    (∀ n < 16, ((dieWith doubled 0x38000).cluster n).task = none ∧ ((dieWith doubled 0x38000).cluster n).pendl = []) ∧
    (0x000F00FF : Word32).toNat / 2 ^ 20 = 0 ∧ (0x000F00FF : Word32).toNat / 2 ^ 8 % 2 ^ 8 = 0 ∧
    (0x00100000 : Word32).toNat / 2 ^ 20 ≠ 0 ∧ 1 < (2 : Word32).toNat := by
  decide +kernel

/-- Cluster 0 is resident with the given state, cluster 1 switched out; the words stand in memory. -/
def sliced (a b : Cluster) (l : List (Nat × Nat × Nat)) : State :=
  l.foldl (fun s w => s.wrLE w.1 w.2.1 w.2.2)
    { (dieWith doubled 0x38000) with cl := a, park := [(1, { b with frz := { out := true } })] }

/-- An image of the given kind at a, of die 0, cluster 0, job slot 0 (R373). -/
def imageWords (a kind : Nat) : List (Nat × Nat × Nat) := [(a, 4, 0x43585431), (a + 8, 8, geometryFull), (a + 24, 4, kind)]

theorem witness_slices :
    (sliced { task := some ⟨0, 0, 0⟩, quantum := 65536 } {} []).quantumDue 0 = true ∧
    (let s := sliced { task := some ⟨0, 0, 0⟩, expired := true } { task := some ⟨1, 0, 0⟩ } (imageWords 0x15F0000000 2)
     s.slicePair 0 0 = some (0, 1) ∧ s.switchDue 0 0 = true ∧ s.checkImage (s.sliceSlot 0 0) 2 = .ok false) ∧
    (let s := sliced { task := some ⟨0, 0, 0⟩, expired := true } { task := some ⟨1, 0, 0⟩ }
       [(0x15F0000000, 4, 0x43585431), (0x15F0000008, 8, geometryPortable), (0x15F0000018, 4, 2)]
     s.switchDue 0 0 = true ∧ s.checkImage (s.sliceSlot 0 0) 2 = .ok true) ∧
    (let s : State := { sliced {} { pendl := [⟨0, 0, 0⟩] } [] with jobs := [job [taskRec 1 .waiting]] }
     s.switchDue 0 0 = true ∧ (s.cluster 1).task.isSome = false) := by decide +kernel

/-! Saves and restores. -/

/-- Cluster 0 as given; its pre-emption registers name an image in DRAM. -/
def saving (c : Cluster) (p : Preempt) (l : List (Nat × Nat × Nat)) : State :=
  l.foldl (fun s w => s.wrLE w.1 w.2.1 w.2.2)
    { cl := c, dies := [(0, { present := true, pre := [(0, { p with addr := 0x1000000000 })] })] }

/-- The task that the image of cluster 0 names. -/
def imageOwner (s : State) : Option TaskRef :=
  (s.imageCluster 0x1000000000).task.or (s.cl.saved.find? fun r => r.slot == s.imageSlot 0x1000000000)

theorem witness_context : let r : TaskRef := ⟨0, 0, 0⟩
    ({} : Cluster).task = none ∧ ({ task := some r, locked := true } : Cluster).locked = true ∧
    busy.cl.task ≠ none ∧ busy.cl.locked = false ∧
    (let s := saving { task := some r, c := { ended := false } } { req := true } []
     s.saveDue 0 = true ∧ s.cl.frz.save = false) ∧
    (let s := saving { task := some r, c := { ended := false }, frz := { save := true } } { req := true, busy := true } []
     s.saveDue 0 = true ∧ s.cl.frz.save = true ∧ winBase 0 + 0x400000 ≤ 0x1000000000) ∧
    imageOwner (saving {} { rst := true } []) = none ∧ (saving { saved := [r] } {} []).checkImage 0x1000000000 1 = .kind ∧
    (saving { saved := [r] } {} [(0x1000000010, 4, 1)]).imageKey 0x1000000000 ≠ 0 ∧
    (let s := saving { saved := [r] } { rst := true } (imageWords 0x1000000000 1)
     imageOwner s = some r ∧ s.cl.task = none ∧ s.imageKey 0x1000000000 = 0 ∧ s.checkImage 0x1000000000 1 = .ok false) ∧
    (let s := { saving {} { rst := true } [(0x1000000000, 4, 0x43585431), (0x1000000008, 8, geometryPortable), (0x1000000018, 4, 1)]
       with images := [{ task := some r }] }
     imageOwner s = some r ∧ s.imageKey 0x1000000000 = 0 ∧ s.checkImage 0x1000000000 1 = .ok true) ∧
    (let s := saving { saved := [r] } { rst := true } [(0x1000000000, 4, 0x43585431), (0x1000000018, 4, 1)]
     imageOwner s = some r ∧ s.imageKey 0x1000000000 = 0 ∧ s.checkImage 0x1000000000 1 = .geometry) := by decide +kernel

/-- A locked job of cluster 0 alone, in its period 0. -/
def lockedJob : Job := { (job [{ taskRec 0 .running with first := true }]) with
  locked := true, t0 := some 0, cexp := 10, steps := [{ port := false, nr := true, per := 1 }] }

/-- Cluster 0 runs it, at job cycle 1,024. -/
def inLocked (j : Job) : State :=
  { clk := 2000, jobs := [j], dies := [(0, { present := true })]
    cl := { task := some ⟨0, 0, 0⟩, locked := true, taskcyc := 1024, frz := { held := true } } }

theorem witness_locked_save :
    (inLocked lockedJob).job? 0 0 = some lockedJob ∧ lockedJob.locked = true ∧ lockedJob.closed = false ∧ lockedJob.saved = false ∧
    (job []).locked = false ∧
    (inLocked { lockedJob with saveReq := true, dones := [0], stepP := 1, phase := 2 }).jobSaveDue
      { lockedJob with saveReq := true, dones := [0], stepP := 1, phase := 2 } = true ∧
    (inLocked lockedJob).jobKeys lockedJob = [0] ∧ (inLocked lockedJob).cl.frz.out = false ∧
    (sliced { task := some ⟨0, 0, 0⟩ } {} []).jobKeys lockedJob = [0] ∧
    (let s := sliced {} { task := some ⟨0, 0, 1⟩ } []
     s.jobKeys { lockedJob with tasks := [taskRec 0 .running, taskRec 1 .running] } = [1] ∧ (s.cluster 1).frz.out = true) ∧
    ({ lockedJob with saved := true } : Job).saved = true ∧ (∀ y ∈ lockedJob.tasks, y.key < 1024) ∧
    (let s := saving {} {} (imageWords (lockedImage 0) 3)
     s.checkImage (lockedImage 0) 3 = .ok false) ∧
    (let s := saving {} {} [(lockedImage 0, 4, 0x43585431), (lockedImage 0 + 24, 4, 3)]
     s.checkImage (lockedImage 0) 3 = .geometry) := by decide +kernel

/-! Faults, invalidation and steps. -/

/-- Cluster 0 stands frozen by a fault. -/
def faulted (j : Job) (l : Bool) : State :=
  { (inLocked j) with
    dies := [(0, { present := true, ckbase := 0x1000000000 })]
    cl := { task := some ⟨0, 0, 0⟩, locked := l, flt := { valid := true, cause := 0x17 }, frz := { fault := true } } }

/-- A checkpoint of the task of job j in cluster 0 stands at 0x1000000000. -/
def checkpointed (j : Job) : State :=
  (imageWords 0x1000000000 4).foldl (fun s w => s.wrLE w.1 w.2.1 w.2.2)
    { jobs := [j], cl := { task := some ⟨0, 0, 0⟩ }, images := [{ task := some ⟨0, 0, 0⟩ }]
      dies := [(0, { present := true, ckbase := 0x1000000000 })] }

theorem witness_fault_actions :
    (faulted (job []) false).cl.flt.valid = true ∧ (faulted (job []) false).cl.heldF = [] ∧
    (faulted (job []) false).stoppedOf 0 = [] ∧ busy.cl.flt.valid = false ∧
    (faulted (job [taskRec 0 .running]) false).job? 0 0 = some (job [taskRec 0 .running]) ∧
    (faulted lockedJob true).cl.locked = true ∧ (faulted lockedJob true).job? 0 0 = some lockedJob ∧
    (faulted lockedJob true).jobOf (faulted lockedJob true).cl = some lockedJob ∧ lockedJob.rollback = false ∧
    (let j := { lockedJob with rollback := true }
     (faulted j true).rollDue j = true ∧ (faulted j true).rollCause j ≠ 0) ∧
    (let j := { lockedJob with rollback := true, ckpt := true, steps := [{ port := false, nr := false, per := 1 }] }
     (faulted j true).rollDue j = true ∧ (faulted j true).rollCause j = 0 ∧
       ((faulted j true).cluster 0).saved.contains ⟨0, 0, 0⟩ = false) ∧
    (let f := (faulted (job []) false).cl
     ({ f with heldF := [{ str := .x, cause := 0x0A, xfer := some (1, 7) }] } : Cluster).heldF.length = 1) ∧
    (let t := { taskRec 0 .running with ck := true }
     let j := { (job [t]) with rollback := true, ckpt := true, steps := [{ port := false, nr := false, per := 1 }] }
     let s := checkpointed j
     s.rollDue j = true ∧ s.rollCause j = 0 ∧ t.key = 0 ∧ s.ckptAt 0 j.gen = 0x1000000000 ∧ s.rdLE (0x1000000000 + 0x1000) 8 = 0 ∧
       s.images.length = 1 ∧ s.checkImage (s.ckptAt 0 j.gen) 4 = .ok false ∧ winBase 0 + 0x400000 ≤ 0x1000000000 ∧
       0x1000000000 + 0x430000 ≤ s.sliceSlot 0 ((s.die 0).physOf 0)) := by decide +kernel

theorem witness_invalidation :
    let e : TlbEntry := { root := 0, vbase := 0, size := 65536, phys := 0, perm := 1 }
    let d : Die := { tlb := [e, { e with pins := [(0, 0, 1)] }, { e with root := 5, pins := [(0, 0, 2)] }] }
    let s (kind : BitVec 2) (b : Bool) : State := { dies := [(0, { d with invbusy := b, invwait := b, invrun := kind }), (1, d)] }
    ((s 0 false).dies.map Prod.fst).Nodup ∧ ((s 0 false).die 0).invbusy = false ∧ (((s 0 false).die 0).queue 0).qxroot.toNat = 0 ∧
    (e.root = 0 ∧ e.vbase ≤ 65535 / 65536 * 65536 ∧ 65535 / 65536 * 65536 < e.vbase + e.size) ∧
    (∀ k : BitVec 2, k ≠ 3 → ((s k true).die 0).invbusy = true ∧ ((s k true).die 0).invwait = true ∧ ((s k true).die 0).invrun = k) ∧
    ((s 0 true).die 1).invwait = false ∧ ((s 0 true).die 1).invbusy = false ∧ (s 0 true).die 1 ≠ {} ∧
    (({ invall := true, invwide := true } : Die).invwide = true) := by decide

/-- A copy's held write of one byte in DRAM of die 0. -/
def heldCopy : HeldEff := { lead := 0, slot := 0, cl := 0, ch := 0, writes := [{ addr := 0x1000000000, bytes := [1] }] }

def holding (j : Job) (bad : List Nat) : State :=
  { (inLocked j) with dies := [(0, { present := true, commit := [heldCopy] })], bad := bad }

def okS (r : Except Nat State) : Bool := match r with | .ok _ => true | .error _ => false

theorem witness_steps :
    (inLocked { lockedJob with dones := [0] }).stepDue { lockedJob with dones := [0] } = true ∧
    (let j := { lockedJob with phase := 1 }
     (holding j []).releaseDue j = true ∧ (holding j []).holdsEffects j = true ∧ okS (releaseDies j j.dies (holding j [])) = true ∧
     okS (releaseDies j j.dies (holding j [0x1000000000 / 8])) = false ∧ (inLocked j).releaseDue j = true ∧
     (inLocked j).holdsEffects j = false ∧ j.done = false) ∧
    (let j := { lockedJob with dones := [0], phase := 2 }
     (inLocked j).issueDue j = true) ∧
    (let j := { lockedJob with tick := some (1, 2000), got := [0] }
     (inLocked j).tickActs j = true) := by decide +kernel
/-! The fabric, the host, boot and power. -/

/-- A message of the given type from cluster 0, channel 0 of die 1 to die 0, SEQ 5. -/
def aMsg (typ : BitVec 8) (arg : Nat) (data : List Byte) : Msg :=
  { typ := typ, sdie := 1, ddie := 0, seq := 5, arg := .ofNat 64 arg, data := data }

def aReq (m : Msg) : Req := { seq := 5, msg := m, cl := 0, ch := 0, id := 1 }

/-- Die 1 holds the request; cluster 0 of each die runs a task of one job; die 0's logical cluster 0 is its physical one. -/
def talking (m : Msg) (b : Barrier) : State :=
  { cl := { ({} : Cluster).setXb 3 b with task := some ⟨0, 0, 0⟩ }
    park := [(16, { task := some ⟨0, 0, 1⟩ })]
    dies := [(0, { present := true, clmap := [(0, 0x80)] }), (1, { present := true, reqs := [aReq m] })] }

/-- Die 0 asked, and transfer 1 of its cluster 0 waits for the answer. -/
def asking (r : Req) : State :=
  (withChan [{ someXfer .nop with out := [5] }]
    { busy with dies := [(0, { present := true, reqs := [r] })] })

theorem witness_messages :
    (let m := aMsg mWrite 0x1000000000 [1]
     (talking m {}).reqOf 1 5 ≠ none ∧ (talking m {}).badWrite 0x1000000000 1 = none ∧ busy.reqOf 1 5 = none) ∧
    busy.badRead 0x1000000000 (0xFFFFFFFFFFFFFFFF / 2 ^ 52 % 64 + 1) = none ∧
    (let m := aMsg mAtomic (9 * 2 ^ 52 + 2 ^ 56 + 0x1000000000) (bytesOf 0 16)
     let s := talking m {}
     s.recorded m = none ∧ s.behindStopped m = false ∧ s.badRead 0x1000000000 8 = none ∧ m.arg.toNat / 2 ^ 52 % 16 ≤ 9) ∧
    (let m := aMsg mAtomic 0x1000000000 (bytesOf 1 8)
     ({ dies := [(0, { window := [(1, [(5, m)])] })] } : State).recorded m = some m) ∧
    (let r := aReq (aMsg mAtomic 0 [])
     (asking r).reqOf 0 5 = some r ∧ r.held = none ∧ r.orphan = none ∧ ((asking r).cluster 0).frz.out = false ∧ ((asking r).xferOf 0 0 1).isSome = true ∧ r.nacks + 1 < 64 ∧
       (asking { r with retry := some 0 }).retryDue 0 { r with retry := some 0 } = true) := by decide +kernel

theorem witness_sends : let m := aMsg mSend (3 * 2 ^ 21 + (2 ^ 21 - 8)) (bytesOf 1 8)
    (talking m {}).recorded m = none ∧ (talking m {}).reqOf 1 5 = some (aReq m) ∧
    ((talking m {}).cluster (clKey 1 0)).task = some ⟨0, 0, 1⟩ ∧
    (talking m {}).sendRefusal 0 0 0 false 3 = some 2 ∧
    (∀ n ∈ [4, 8, 16], let s := talking m { state := .armed, rem := .ofNat 32 n }
      s.sendRefusal 0 0 0 false 3 = none ∧ s.badWrite (winBase 0 + offSpad + (2 ^ 21 - 8)) 8 = none ∧
      (s.cluster 0).frz.out = false) ∧
    (talking m { state := .zero }).sendRefusal 0 0 0 false 3 = none := by decide +kernel

theorem witness_ticks : let j := { (job []) with tick := some (4, 300) }
    ({ jobs := [j] } : State).job? 0 0 = some j ∧ j.tick = some (4, 300) ∧
    (let k := { (job []) with period := 4 }
     ({ jobs := [k] } : State).job? 0 0 = some k ∧ k.period = 4 ∧ k.tick = none) := by decide

/-- Link 2 of die 0 and its other end in the given state. -/
def linked (l : Link) : State := { clk := 2 ^ 20 + 4, dies := [(0, { links := [(2, l)] }), ((otherEnd 0 2).1, { links := [((otherEnd 0 2).2, l)] })] }

theorem witness_links : let f (n : BitVec 16) (a : Bool) : Flit := flitOf n 0 a []
    let s (l : Link) : State := linked l
    ((s { state := 2 }).die 0).link 2 = { state := 2 } ∧ badFlit (f 0 true) = false ∧ badFlit (f 0 false) = false ∧
    (f 0 true).msgs = [] ∧ (f 0 true).fseq = 0 ∧ (f 0 true).ackv = true ∧ (f 0 false).ackv = false ∧ (f 1 true).fseq ≠ 0 ∧
    badFlit { payload := (f 0 true).payload.set 6 1 } = true ∧
    (([11, 12, 13, 14, 15, 16, 17, 18] : List Nat).filter fun c => decide (2 ^ 20 + 4 < c + 2 ^ 20)).length = 8 ∧
    ({ state := 2, width := 64, fails := [1] } : Link).recent (2 ^ 20 + 4) < 8 ∧
    8 ≤ ({ state := 2, width := 32, fails := [11, 12, 13, 14, 15, 16, 17, 18] } : Link).recent (2 ^ 20 + 4) ∧
    ({ state := 1 } : Link).dead = false ∧ ({ state := 1, width := 32 } : Link).width ≠ 0 ∧
    (((s { state := 2, width := 64, again := [f 0 true] }).chances 0 2).find? (·.again)).isSome = true ∧
    (let u := s { state := 2, width := 64, out := [aMsg mAck 0 []] }
     ((u.chances 0 2).find? fun c => !c.msgs.isEmpty).isSome = true ∧ u.hold = none ∧ ((u.die 0).link 2).freeAt ≤ u.clk) ∧
    ({ hold := some 5, clk := 5 } : State).hold = some 5 := by decide +kernel

/-- R403: a link that waits for the other end's first flit, one that sends its own, a flit that it has had, one with a message to
deliver and one to pass on, and one that fails. -/
theorem witness_links_again : let f (n : BitVec 16) (l : List Msg) : Flit := flitOf n 0 true l
    let here : Msg := aMsg mAck 0 []
    let on : Msg := { here with ddie := 3 }
    (let l : Link := { state := 2, await := true, expRx := 1 }
     badFlit (f 0 []) = false ∧ (f 0 []).fseq ≠ l.expRx ∧ l.await = true ∧ (l.expRx - 1 - (f 0 []).fseq).toNat < 2 ^ 15 ∧
       ¬ (l.expRx - 1 - (f 2 []).fseq).toNat < 2 ^ 15) ∧
    (f 0 [here, on]).msgs = [here, on] ∧ badFlit (f 0 [here, on]) = false ∧ here.ddie.toNat = 0 ∧ on.ddie.toNat ≠ 0 ∧
    (let l : Link := { state := 2, width := 64, greet := true, await := true, replay := [f 0 []] }
     (((linked l).chances 0 2).find? (·.again)).isSome = true ∧ l.greet = true ∧ l.freeAt ≤ (linked l).clk) ∧
    (let l : Link := { state := 2, width := 64, await := true }
     l.greet = false ∧ l.again = [] ∧ l.await = true) ∧
    (({ state := 2, width := 16, fails := [11, 12, 13, 14, 15, 16, 17, 18] } : Link).width ≠ 64 ∧
     8 ≤ ({ state := 2, width := 64, fails := [11, 12, 13, 14, 15, 16, 17, 18] } : Link).recent (2 ^ 20 + 4)) := by decide +kernel

/-- Requests that take no second answer, and one that does. -/
theorem witness_refused : let r := aReq (aMsg mSend 0 [])
    ({ r with retry := some 9 } : Req).retry ≠ none ∧ ({ r with away := some ⟨0, 0, 0⟩ } : Req).away ≠ none ∧
    ({ r with stopped := true } : Req).msg.typ = mSend ∧ r.retry = none ∧ r.away = none ∧ r.stopped = false ∧
    ({ r with held := some (0, 3) } : Req).held = some (0, 3) := by decide

/-- The module runs with die 0 present. -/
def running : State := { boot := { bstate := 5 }, dies := [(0, { present := true })] }

/-- The last bytes of BAR 2, and of the window on die 0's DRAM. -/
theorem witness_host : running.boot.bstate = 5 ∧ running.bad = [] ∧ ({} : State).boot.bstate ≠ 5 ∧
    (let s : State := { running with port0 := { pwbase := 1 } }
     (s.portOf false).mapped 0 = 0x1000000000 ∧
     ∀ i < 3, let a := (s.portOf false).mapped (0x5FFFFFFFD + i)
       (tierOf a = .dram ∨ tierOf a = .lpddr) ∧ (s.die (paDie a)).present = true) ∧
    (let s : State := { running with port1 := { pwbase := 19 } }
     2 ^ 36 - 4 + 4 ≤ 2 ^ 36 ∧ ∀ i < 4, let a := (s.portOf true).mapped (2 ^ 36 - 4 + i)
       (tierOf a = .dram ∨ tierOf a = .lpddr) ∧ (s.die (paDie a)).present = true) ∧
    (2 : BitVec 2) ≠ 3 ∧ (0x7FFE + 1 < 0x8000 ∧ 0xFFFF < 0x10000) ∧ 0x7FFF < 0x8000 := by decide +kernel

/-- Registers: the module running or not, a die with a task and one without, a request pending or not. -/
theorem witness_registers : running.dieBusy 0 = false ∧
    ({ running with cl := { task := some ⟨0, 0, 0⟩ } } : State).dieBusy 0 = true ∧ running.boot.attReq = false ∧
    running.boot.certReq = false ∧ ({ certReq := true } : Boot).certReq = true ∧ (6 : Word32).toNat < 8 ∧
    (6 : Word32).getLsbD 0 = false ∧ (0x10FFFC % 4 = 0 ∧ 0x10FFFC < 0x110000) ∧ (0x10FFF8 % 8 = 0 ∧ 0x10FFF8 ≠ 0xB10) ∧
    2 ^ 51 ≤ (2 ^ 51 : BitVec 52).toNat ∧ (0x1EFFFFFFFFFF : BitVec 52).toNat % 2 ^ 45 < 0x1F0000000000 ∧
    0x1F0000110000 ≤ (0x1F0000110000 : BitVec 52).toNat % 2 ^ 45 ∧ (3 : BitVec 4) ≠ 4 ∧ (3 : BitVec 4) ≠ 8 ∧
    (0x1F0000000002 : BitVec 52).toNat % (4 : BitVec 4).toNat ≠ 0 ∧ (0x6FF < 0x700 ∧ 0x740 ≤ 0x740) := by decide +kernel

/-- A boot in state n. -/
def booting (n : BitVec 4) (answer : Nat) : State :=
  { boot := { bstate := n, sent := 1 }, clk := 2 ^ 24 + 1, dies := (List.range 64).map fun d => (d, { answer := answer }) }

theorem witness_boot :
    ({} : State).boot.bstate = 0 ∧ (∀ n : BitVec 4, (booting n 0).boot.bstate = n) ∧
    ((booting 3 0).die 9).answer = 0 ∧ 9 ∈ (booting 3 0).dies.map Prod.fst ∧ ((booting 3 0).hops 0 0).isSome = true ∧
    (∀ d < 64, ((booting 3 1).die d).answer ≠ 0) ∧ (booting 2 0).headerGood = false ∧
    ((booting 4 0).die 0).present = false ∧ (({ (booting 4 0) with dies := [(0, { present := true })] } : State).die 0).present = true ∧
    (let s : State := { boot := { bstate := 3 }, clk := 2 ^ 24 }
     s.boot.bstate = 3 ∧ (s.die 63).answer = 0 ∧ s.boot.sent + 2 ^ 24 ≤ s.clk) ∧
    (let s : State := { boot := { bstate := 3 }, dies := (List.range 64).map fun d => (d, { answer := 2 }) }
     s.boot.bstate = 3 ∧ ∀ d < 64, (s.die d).answer ≠ 0) ∧
    running.errs (2 ^ 51 + running.boot.attnonce.toNat % 2 ^ 51) 64 = false ∧ running.boot.bstate ≠ 0 := by decide +kernel

/-- Cluster 0 met an error in its scratchpad at offset 0 of its window, hosted on domain 0 of die 0. -/
def snapping (v : BitVec 7) : State :=
  { cl := { task := some ⟨0, 0, 0⟩, flt := { valid := true, cause := 0x0C, uvs := true, faddr := 0x100000 } }
    uvMet := [(0x100000, some (0, 0))]
    dies := [(0, { present := true, clmap := [(0, 0x80)], doms := [(0, { voff := v })] })] }

/-- R441: currents beyond 0.10 and below 0.05 of their mean, each layer at each level of the table, and temperatures. -/
theorem witness_throttle : 100 + 90 < 20 * (100 - 90 + (90 - 100)) ∧ 40 * (100 - 98 + (98 - 100)) < 100 + 98 ∧
    ¬ 100 + 91 < 20 * (100 - 91 + (91 - 100)) ∧ ¬ 40 * (100 - 91 + (91 - 100)) < 100 + 91 ∧
    (105 : BitVec 8).toNat = 105 ∧ (94 : BitVec 8).toNat < 95 ∧ (104 : BitVec 8).toNat < 105 ∧
    ({ hot := true } : PhysSt).hot = true ∧ ({ hi := 1, thr := 1, atLvl := 4 } : PhysSt).thr = 1 ∧
    ({ lo := 15, thr := 2 } : PhysSt).lo = 15 ∧ (0 : BitVec 16).toNat < (1 : BitVec 16).toNat := by decide

theorem witness_frequency :
    (let s : State := { running with freq := { pend := true } }
     s.freq.pend = true ∧ s.freq.ramp = false ∧ ∀ e ∈ s.dies, ∀ y ∈ e.2.doms, y.2.snap = false) ∧
    ({ freq := { ramp := true, fcur := 400 } } : State).switchNow = true ∧
    ({ freq := { ramp := true, tf := 400 } } : State).switchNow = true ∧
    (let s : State := { freq := { ramp := true, settled := 9 } }
     s.freq.ramp = true ∧ s.clk < s.freq.settled) ∧
    (let s : State := { freq := { ramp := true, switched := true } }
     s.freq.settled ≤ s.clk ∧ s.freq.switched = true) ∧
    (let s : State := { freq := { ramp := true, fcur := 400 } }
     s.freq.settled ≤ s.clk ∧ s.freq.switched = false ∧ s.freq.fcur.toNat ≤ s.freq.tf.toNat) := by decide +kernel

theorem witness_domains : (8 : BitVec 4).toNat < 9 ∧ ((running.die 0).dom 8).snap = false ∧ running.snapJobs 0x100000 = [] ∧
    running.badRead 0x100000 1 = none ∧ (({ running with bad := [0x20000] } : State).badRead 0x100000 1).isSome = true := by
  decide +kernel

theorem witness_snap_back : (0x100000, some (0, 0)) ∈ (snapping 50).uvMet ∧ ((snapping 50).die 0).dom 0 = { voff := 50 } ∧
    ((snapping 0).die 0).dom 0 = {} ∧ ((running.die 0).dom 15).snap = false ∧ (9 : BitVec 4).toNat = 9 ∧
    ({ snap := true, limit := 100, wants := [(0, 0)] } : Domain).settle ≤ 0 ∧
    (({ (snapping 0) with jobs := [{ (job []) with rollback := true }] } : State).replaying { after := [(0, 0)] } = true) ∧
    (snapping 0).replaying {} = false := by decide +kernel

theorem witness_clean_day : (let s : State := { running with goven := true, opns := 24 * 3600000000000 }
     s.cleanDue 0 8 = true) := by decide +kernel

/-! Faults, cycles, steps and time. -/

theorem witness_faults : let x : Trap := { str := .m, cause := 0x0A }
    busy.cl.flt.valid = false ∧ busy.job? 0 0 = none ∧ (inJob .running).job? 0 0 = some (job [taskRec 0 .running, taskRec 1 .running]) ∧
    (faulted lockedJob true).cl.flt.valid = true ∧
    (faulted lockedJob true).cl.flt.sec.toNat / 2 ^ (24 - 8 * x.str.num) % 256 = 0 ∧ x.cause < 256 ∧
    ({ valid := true, sec := 0x00FF0000 } : FaultRec).sec.toNat / 2 ^ (24 - 8 * x.str.num) % 256 ≠ 0 ∧ x.memErr = false := by
  decide +kernel

theorem witness_counters : let c : Cluster := { sem := [(3, 250)], semP := [⟨.c, 3, 4⟩], engP := [(3, 0)], kP := [(7, 9)] }
    (c.sem.get 0 3).toNat + (((c.semP.filter fun r => r.sem == 3).map (·.n)).sum + (c.engP.filter fun r => r.1 == 3).length) = 255 ∧
    c.kP = [(7, 9)] := by decide

/-- END alone in C's bundle; the other streams have ended. -/
def oneEnd : State := State.reset.withFetchWord 32 0x02000000

/-- What a stream's bundle decodes to. -/
def partsOf (s : State) (st : Str) : List (Nat × Instr) := match s.decoded st with | .ok b => b.parts | .error _ => []

theorem witness_step : oneEnd.inputs = [] ∧ oneEnd.moduleDue = none ∧ oneEnd.turns = [0] ∧ oneEnd.cl.task ≠ none ∧
    oneEnd.cl.frz.hard = false ∧ oneEnd.cl.frz.held = false ∧ oneEnd.outerDue = none ∧ oneEnd.cl.splitLeft = 0 ∧
    oneEnd.splitLen < 2 ∧ (tickMatrix oneEnd.cyc oneEnd).2 = none ∧ oneEnd.engineDue = none ∧ oneEnd.cl.ve.lent = 0 ∧
    (oneEnd.cl.str .c).live oneEnd.cyc = true ∧ partsOf oneEnd .c = [(0, .endStream)] ∧ flowClash [.endStream] = false ∧
    oneEnd.arrived = none ∧ oneEnd.badRead (oneEnd.fetchAddr .c 0) 4 = none ∧
    (oneEnd.sylAt .c 0).testBit 31 = true := by decide +kernel

/-- A completion that is due in the turn, and a piece of SEND that lands in it. -/
theorem witness_turn_events :
    (let s : State := { oneEnd with cl := { oneEnd.cl with me := { aclrs := [{ op := .aclr 3, addr := 3, issue := 0, due := 0 }] } } }
     s.moduleDue = none ∧ s.turns = [0] ∧ s.cur = 0 ∧ s.cl.task ≠ none ∧ s.cl.frz.hard = false ∧ s.cl.frz.held = false ∧
       s.outerDue = none ∧ s.cl.splitLeft < 2 ∧ s.engineDue = some .aclrComplete) ∧
    (let m := aMsg mSend (3 * 2 ^ 21) (bytesOf 1 8)
     let s : State := { oneEnd with net := [m] }
     s.moduleDue = none ∧ s.outerDue = none ∧ s.engineDue = none ∧ s.arrived = some m) := by decide +kernel

/-- The cycle of oneEnd: C issues, the others have nothing to issue, nothing overflows. -/
def cycleOf (s : State) : Option State :=
  match s.issue .c noOverflow 0 with
  | .done a => match a.issue .m noOverflow 0 with
    | .done b => match b.issue .x noOverflow 0 with
      | .done c => match c.issue .v noOverflow 0 with
        | .done d => some d
        | _ => none
      | _ => none
    | _ => none
  | _ => none

theorem witness_cycle : (cycleOf { oneEnd with turns := [], ctx := { oneEnd.ctx with satte := some oneEnd.cl.me.satte } }).map (fun d => (d.cl.overflows, d.cl.late, d.cl.engOverflow.isNone, d.cl.c.ended)) =
    some (false, false, true, true) := by decide +kernel

/-- A V instruction word that decodes, an input that has come, an event that is due. -/
theorem witness_step_sources : (let s := State.reset.withFetchWord 16 0x02B8
      s.badRead (s.fetchAddr .v 0) 2 = none ∧ decodeV (s.rdLE (s.fetchAddr .v 0) 2) = some (.vInstruction 5 3 1 0)) ∧
    ({ inputs := [.powerUp] } : State).inputs = [.powerUp] ∧
    (booting 3 2).bootDue = some .enumeration := by
  decide +kernel

def isNext : Host.Outcome State Fault Refusal → Bool
  | .next _ => true
  | _ => false

theorem witness_memory : Memory.wf State.reset.mem = true ∧ isNext (step State.reset) = true ∧
    Memory.wf oneEnd.mem = true ∧ isNext (step oneEnd) = true := by
  decide +kernel

theorem witness_time : 0 < ({} : State).freq.fcur.toNat ∧ 0 < ({ freq := { fcur := 400 } } : State).freq.fcur.toNat := by decide
/-! Single steps and operations on the spec's worked examples. -/

/-- The state after an instruction, and the state itself where there is none. -/
def after (i : Instr) (s : State) : State :=
  match exec i s with
  | .next t => t
  | _ => s

/-- 02, example of R54: 0x3F80_8000 to BF16 under RNE, RTZ, RAZ and SR with two words; the negative value under SR. -/
theorem test_round_bf16 : (fnarrow 7 .rne 0 false 0x3F808000).bits = 0x3F80 ∧ (fnarrow 7 .rtz 0 false 0x3F808000).bits = 0x3F80 ∧
    (fnarrow 7 .raz 0 false 0x3F808000).bits = 0x3F81 ∧ (fnarrow 7 .sr 0x12345678 false 0x3F808000).bits = 0x3F81 ∧
    (fnarrow 7 .sr 0x9ABCDEF0 false 0x3F808000).bits = 0x3F80 ∧ (fnarrow 7 .sr 0x12345678 false 0xBF808000).bits = 0xBF81 ∧
    (fnarrow 7 .sr 0x9ABCDEF0 false 0xBF808000).bits = 0xBF80 := by decide +kernel

/-- 02, example of R68 and 12, example of R324: tree sums of 2^24 and ones. -/
theorem test_tree_sum : (treeSum [0x4B800000, 0x3F800000, 0x3F800000, 0x3F800000, 0x3F800000]).bits = 0x4B800002 ∧
    (treeSum [0x4B800000, 0x3F800000, 0x3F800000, 0x3F800000, 0x3F800000]).flags = Flags.nx ∧
    (treeSum [0x4B800000, 0x3F800000, 0x3F800000, 0x3F800000]).bits = 0x4B800001 ∧
    (treeSum [0x4B800000, 0x3F800000, 0x3F800000]).bits = 0x4B800000 := by decide +kernel

/-- 03, example of R93: 3.0, -20.0, 15.6 and -0.0 to codes with p = 4, S = 1.0; 15.6 under RTZ. -/
theorem test_codes : toCode 4 false 0x3F800000 .rne 0 (fval 0x40400000) = (0x03, false) ∧
    (toCode 4 false 0x3F800000 .rne 0 (fval 0xC1A00000)).2 = true ∧ (toCode 4 false 0x3F800000 .rne 0 (fval 0x4179999A)).2 = true ∧
    toCode 4 false 0x3F800000 .rne 0 (fval 0x80000000) = (0x00, false) ∧
    toCode 4 false 0x3F800000 .rtz 0 (fval 0x4179999A) = (0x0F, false) := by decide +kernel

/-- RFC 8439, 2.3.2: ten double rounds of its example state give words 0 and 15 (before R70's reduction to four). -/
theorem test_generator :
    let w : ChaRow := ⟨0x61707865, 0x3320646E, 0x79622D32, 0x6B206574⟩
    let z : ChaRow := ⟨1, 0x09000000, 0x4A000000, 0⟩
    let r := doubleRounds 10 (w, ⟨0x03020100, 0x07060504, 0x0B0A0908, 0x0F0E0D0C⟩, ⟨0x13121110, 0x17161514, 0x1B1A1918, 0x1F1E1D1C⟩, z)
    (addRow r.1 w)[0]? = some 0xE4E7F110 ∧ (addRow r.2.2.2 z)[3]? = some 0x4E3C50A2 := by decide +kernel

/-- The ChaCha8 block of the zero key, counter and nonce (eSTREAM test vectors): words 0 and 1. -/
theorem test_generator_eight : (genBlock 0 0 0 0).take 2 = [0x2FEF003E, 0xD6405F89] := by decide +kernel

/-- FIPS 202: SHA3-512 of the empty message begins a6 9f 73. -/
theorem test_sha3 : (sha3 []).toNat % 2 ^ 24 = 0x739FA6 := by decide +kernel

/-- 06, examples of R166 and R172: the rotation, and ADD of v5 = 11 and v6 = 1 visible from cycle 2. -/
theorem test_rotation : physOf 0 40 = 40 ∧ physOf 1 41 = 40 ∧ physOf 16 32 = 48 := by decide

def lane5 (vd : BitVec 6) : State :=
  { busy with
    ctx := { str := .v, gen := 1, slot := { fmt := 2, vd := vd, va := 5, vb := 6 } }
    cl := { busy.cl with ve := { busy.cl.ve with v := [(5 * 16, 11), (6 * 16, 1)] } } }

theorem test_vector_add : (after .vaAdd (lane5 5)).cl.ve.pend.head? = some { dest := .lane 0 5 0, val := 12, due := 2 } ∧
    (after .vaAdd (lane5 5)).vlane 0 5 0 = 11 ∧
    (after .vaSub (lane5 9)).cl.ve.pend.head? = some { dest := .lane 0 9 0, val := 10, due := 2 } := by decide +kernel

/-- 07, example of R196: the slots' encodings. -/
theorem test_vl_encodings : (decodeSlot 2 0x03040018000000).toOption = some (some (.vldr, { vd := 8, vb := 3 })) ∧
    (decodeSlot 2 0x04038018000001).toOption = some (some (.vldc, { vd := 7, vb := 3, imm := 1 })) ∧
    (decodeSlot 2 0x09001229400000).toOption = some (some (.vstu, { va := 9, vb := 5, vc := 10 })) := by decide +kernel

/-- The same example: lanes 0, 1, 2 and 15 of VLDR and VLDC from 0x1_0178. -/
theorem test_tile_lanes : [0, 1, 2, 15].map (addrRow 0 0x10178) = [0x10178, 0x1017C, 0x10100, 0x10134] ∧
    [0, 1, 2, 15].map (addrCol 1 0x10178) = [0x1017C, 0x101FC, 0x1027C, 0x108FC] := by decide

/-- The same example: VSTU stores six bytes from 0x2003 and nothing at 0x2009. -/
theorem test_vstu : let s : State :=
      { (withBase 0x2003) with
        ctx := { str := .v, gen := 1, slot := { va := 9, vb := 9, vc := 10 } }
        cl := { (withBase 0x2003).cl with ve := { (withBase 0x2003).cl.ve with
          v := [(9 * 16, 0x44332211), (9 * 16 + 1, 0x88776655), (10 * 16, 6)] } } }
    (after .vstu s).rdBytes (s.spad 0x2003) 7 = [0x11, 0x22, 0x33, 0x44, 0x55, 0x66, 0] := by decide +kernel

/-- The same example: VAMO.ADD on the word at 0x400, lanes 0 and 5 of group 0 and lane 0 of group 1. -/
theorem test_vamo : let s0 : State := busy.wrLE (busy.spad 0x400) 4 10
    let s : State :=
      { s0 with
        ctx := { str := .v, gen := 3, slot := { vd := 4, va := 2, vb := 1, vc := 6, mu := 1, ms := 0 } }
        cl := { s0.cl with ve := { s0.cl.ve with
          v := [(32, 0x400), (37, 0x400), (96, 1), (101, 2), (1024 + 32, 0x400), (1024 + 96, 4)]
          m := (List.range 8).map fun g => (8 * g, if g = 0 then 0x21 else 1) } } }
    (after .vamoAdd s).rdLE (s.spad 0x400) 4 = 17 ∧ (after .vamoAdd s).cl.ve.pend.map (fun p => p.val) = [10, 11, 13] := by
  decide +kernel

/-- 05, example of R163: STW of the sum, and the loop-end event with the level's last iteration. -/
theorem test_store_word : let s := ((busy.setS 1 0x120).setS 3 36)
    (after (.stw 3 1 ⟨0, []⟩ 0) s).rdBytes (s.spad 0x120) 5 = [0x24, 0, 0, 0, 0] := by decide +kernel

theorem test_loop : let s : State := { busy with ctx := { addr := 2, len := 1 } }
    (after (.loopImm 0 ⟨8, []⟩ 4) s).cl.c.l0 = { lc := 8, ls := 3, le := 6 } := by decide +kernel

/-- 24, example of R455: a snap-back with the limit at 30, and the third within 720 h. -/
theorem test_governor : let s (snaps : List Nat) : State :=
      { opns := 5, goven := true
        dies := [(0, { present := true, doms := [(0, { snap := true, limit := 30, snaps := snaps })] })] }
    (((after (.snapSettle 0 0) (s [])).die 0).dom 0).limit = 10 ∧ (((after (.snapSettle 0 0) (s [])).die 0).dom 0).lock = false ∧
    (((after (.snapSettle 0 0) (s [1, 2])).die 0).dom 0).lock = true := by decide +kernel

/-- 10, example of R281: the CRC-32C check value of RFC 3720, over "123456789". -/
theorem test_crc : 
    Nat.xor ([0x31, 0x32, 0x33, 0x34, 0x35, 0x36, 0x37, 0x38, 0x39].foldl crcByte 0xFFFFFFFF) 0xFFFFFFFF = 0xE3069283 := by decide +kernel

/-- R137: IADD wraps at 2^64; R104: a write to s0 is discarded. -/
theorem test_iadd : (after (.iadd 5 5 ⟨16, []⟩) (withS 5 (2 ^ 64 - 1))).sreg 5 = 15 ∧
    (after (.iadd 0 5 ⟨16, []⟩) (withS 5 1)).sreg 0 = 0 := by decide +kernel

/-- The reset machine runs the instruction that withFetchWord places: IMOV s1, 0x100 in one step. -/
theorem test_first_step : (match step (State.reset.withFetchWord 32 0x16080100) with
    | .next t => t.sreg 1 == 0x100 && t.cl.taskcyc == 1
    | _ => false) = true := by decide +kernel

/-- R402: the bytes of a flit: FSEQ, ACKSEQ, ACKV, the number of messages, two zero bytes, and 232 bytes of messages. -/
theorem test_flit_layout : (flitOf 0x1234 0x5678 true []).payload.take 8 = [0x34, 0x12, 0x78, 0x56, 1, 0, 0, 0] ∧
    (flitOf 0x1234 0x5678 true [aMsg mAck 0 []]).payload.length = 240 ∧
    (flitOf 0 0 true [aMsg mAck 0 []]).msgs = [aMsg mAck 0 []] := by decide +kernel

/-! Clauses over the traps of the VL slot, gates that are not ready, errors, and the blocks' words. -/

theorem witness_vector_traps :
    (let s := withBase 2
     s.groups = [] ++ 0 :: [1, 2, 3, 4, 5, 6, 7] ∧ ofInt 32 ((s.baseOf 0 9 : Int) + toSigned 7 s.immN * 64) % 4 ≠ 0) ∧
    (∀ b ∈ [2 ^ 21 - 60, 2 ^ 21], let s := withBase b
     ofInt 32 ((s.baseOf 0 9 : Int) + toSigned 7 s.immN * 64) % 4 = 0 ∧
       2 ^ 21 < ofInt 32 ((s.baseOf 0 9 : Int) + toSigned 7 s.immN * 64) + 64) ∧
    ((withBase (2 ^ 21)).baseOf 0 9 / 4096 * 4096 + 4096 > 2 ^ 21) ∧
    (∀ b ∈ [3, 2 ^ 21], (withBase b).lanes.head? = some (0, 0) ∧
      (((withBase b).baseOf 0 9 + (withBase b).srcA 0 0) % 2 ^ 32 % 4 ≠ 0 ∨
        2 ^ 21 < ((withBase b).baseOf 0 9 + (withBase b).srcA 0 0) % 2 ^ 32 + 4)) := by decide +kernel

/-- At cycle 9 a transfer issued in cycle 0 with budget cycle d is still at work, and barrier 3 is as given. -/
def notReady (d : Nat) (b : Barrier) (locked : Bool) : State :=
  let s := withChan [{ someXfer .nop with due := some d }] (withXb b locked)
  { s with cl := { s.cl with taskcyc := 9 } }

theorem witness_gates_not_ready : (notReady 9 {} false).semVal 3 = 0 ∧
    (∀ d ∈ [9, 10], ∃ x ∈ ((notReady d {} true).cl.chan 0).q, x.issue < (notReady d {} true).since ∧ x.done = false ∧ x.due = some d) ∧
    (9 : Nat) ≤ (notReady 9 {} true).cyc ∧ (notReady 10 {} true).cyc < 10 ∧
    (∀ b ∈ [({} : Barrier), { state := .armed, due := some 10 }, { state := .zero, due := some 10 }],
      let s := notReady 9 b true
      (s.cl.xb 3).state ≠ .error ∧ s.xbZero 3 = false ∧ ((s.cl.xb 3).state = .idle ∨ s.cyc < (s.cl.xb 3).due.getD 0)) ∧
    (let s := notReady 9 { state := .armed, due := some 9 } true
     s.xbZero 3 = false ∧ (s.cl.xb 3).state ≠ .idle ∧ (s.cl.xb 3).due.getD 0 ≤ s.cyc) := by decide +kernel

/-- The first granule of the HCW table, of the codebook at 0, and of bank 0 holds an error. -/
theorem witness_uncorrectable :
    (({ (inStr .v) with bad := [(winBase 0 + offHcw) / 8] } : State).badRead (winBase 0 + offHcw + 32 * 0) 32).isSome = true ∧
    (let j : CbldJob := { cb := 0, base := 0, slen := 0, scale := 0, issue := 0, due := 0 }
     let s : State := { (withMe fun e => { e with cblds := [j] }) with bad := [(winBase 0 + offSpad + 31) / 8] }
     s.cl.me.cblds = j :: [] ∧ j.due ≤ s.cyc ∧ (s.badRead (s.spad j.base) 32).isSome = true) ∧
    (let j : BankJob := { op := .rstat 0 1 0 255, addr := 0, issue := 0, due := 0 }
     let s : State := { (withMe fun e => { e with rstats := [j] }) with bad := [((inStr .m).accAddr 0 0 255) / 8] }
     s.cl.me.rstats = j :: [] ∧ j.due ≤ s.cyc ∧ (s.badRead (s.accAddr 0 0 0) (4 * 256)).isSome = true) := by decide +kernel

/-- A pass that streams, of one row and one column, with errors in the counters l; a drain of it. -/
theorem witness_counter_errors :
    (∀ l ∈ [[], [0], [1], [128]], let p := { smallPass 0x3F 0 2 with bad := l }
      let e := (withMe fun e => { e with pass := some p }).cl.me
      e.pass = some p ∧ p.phase = 2 ∧ p.outer * p.words + p.kstep < 5 - p.start ∧
        (l = [0] ↔ ∃ g ∈ l, g / 128 < p.rows ∧ p.c0 ≤ 2 * (g % 128) + 1 ∧ 2 * (g % 128) ≤ p.c1)) ∧
    (let j : DrJob := { (drain (.drn 4 0 0 0 0 0 0)) with start := some 0 }
     let s := withMe fun e => { e with dbad := [0x7F] }
     j.read = false ∧ j.row = 0 ∧ j.pass ≠ 0 ∧ s.cl.me.dbad = [0x7F] ∧ 0x7F / 128 = 64 * (j.addr / 16)) := by decide +kernel

theorem witness_words : busy.cl.me.pass = none ∧ busy.cl.pe.job = none ∧ (withMe fun e => { e with pass := some somePass }).cl.me.pass = some somePass ∧
    somePass.phase < 4 ∧ somePass.setup < 2 ^ 25 ∧ somePass.outer < 2 ^ 7 ∧ somePass.kstep < 2 ^ 17 ∧ busy.curDie = 0 ∧
    ({ busy with port0 := { trained := true } } : State).port0.trained = true ∧ (inJob .running).job? 0 0 ≠ none ∧ busy.job? 0 63 = none := by
  decide +kernel

/-! Pieces of transfers. -/

/-- Transfer t of channel 0 as it is at work. -/
def atWork (t : Transfer) : State := withChan [t] (inStr .x)

def movesB (s : State) (id : Word32) (t : Transfer) : Bool :=
  s.xferOf s.cur 0 id == some t && decide (s.cur < 1024) && !t.done && !t.fin && t.held.isEmpty && t.heldW.isEmpty && s.bad.isEmpty &&
    (s.wonBy 0 t).isEmpty && !s.blocked t && !s.noRoute 0 t

theorem moves_of (s : State) (id : Word32) (t : Transfer) (h : movesB s id t = true) : s.Moves 0 id t := by
  simp only [movesB, Bool.and_eq_true, beq_iff_eq, decide_eq_true_eq, Bool.not_eq_true', List.isEmpty_iff] at h
  obtain ⟨⟨⟨⟨⟨⟨⟨⟨⟨h1, h2⟩, h3⟩, h4⟩, h5⟩, h6⟩, h7⟩, h8⟩, h9⟩, h10⟩ := h
  exact ⟨h1, h2, ⟨h3, h4⟩, ⟨h5, h6⟩, h7, h8, h9, h10⟩

theorem moves_here_of (t : Transfer) (h : movesB (atWork t) 1 t = true) (h' : t.far = false)
    (h'' : t.start + t.least ≤ (atWork t).xnow) : (atWork t).MovesHere 0 1 t := ⟨moves_of _ _ _ h, h', h''⟩

def nearDec (s : State) (t : Transfer) (sh : Shape) (f n : Nat) : Decidable (s.Near t sh f n) := by
  unfold State.Near; infer_instance

/-- A transfer of channel 0 with the shapes src and dst. -/
def xfer (i : Instr) (src dst : List Nat) : Transfer :=
  { someXfer i with src := src.map (.ofNat 64), dst := dst.map (.ofNat 64) }

/-- The piece at the cursor of t: it moves, and its run at either end is near. -/
def pieceOk (t : Transfer) (n f : Nat) : Bool :=
  movesB (atWork t) 1 t && !t.far && decide (t.start + t.least ≤ (atWork t).xnow) && decide (0 < n) &&
    (t.dst.isEmpty || @decide _ (nearDec (atWork t) t t.sDst t.cursor n)) && @decide _ (nearDec (atWork t) t t.sSrc f n)

/-- COPY of nibbles, a run of seven that begins in the middle of a byte; XPOSE; CVT to a float and to codes, an outlier with a list and
without. -/
theorem witness_element_pieces :
    (let t := { xfer (.copy 0 1 0 0 0 ⟨0, []⟩) (padShape 9 0 7 2 9) (padShape 9 (2 ^ 21 - 8) 7 2 7) with cursor := 7 }
     pieceOk t (Nat.min (t.sDst.runLen 7) (t.sSrc.runLen 7)) 7 = true ∧ t.sSrc.bits = t.sDst.bits ∧ t.sDst.runLen 7 = 7) ∧
    (let t := { xfer (.xpose 0 1 0 0 0 ⟨0, []⟩) (padShape 2 0 3 2 3) (padShape 2 (2 ^ 21 - 24) 2 3 2) with cursor := 5 }
     pieceOk t 1 (5 / 2 % 3 + 3 * (5 % 2 + 2 * (5 / 2 / 3))) = true) ∧
    (let t := xfer (.cvt 0 1 0 0 0 0 0 ⟨0, []⟩) (padShape 0 0 4 1 0) (padShape 7 64 4 1 0)
     pieceOk t (Nat.min (t.sDst.runLen 0) (t.sSrc.runLen 0)) 0 = true ∧ t.sDst.fmt ≠ 0xB) ∧
    (let t := { xfer (.cvt 0 1 0 0 0 0 0 ⟨0, []⟩) (padShape 0 0 1 1 0) (padShape 11 64 1 1 0) with cfg := [(0, 0x3F800000), (1, 7)] }
     let s (b : Nat) : State := (atWork t).wrLE ((atWork t).spad 0) 1 b
     let code (b : Nat) : Byte × Bool := toCode 7 false 0x3F800000 .rne 0 (elemVal 0 ((s b).elemOf t t.sSrc 0))
     pieceOk t 1 0 = true ∧ t.sDst.fmt = 0xB ∧ (code 5).2 = false ∧ (code 128).2 = true ∧
       (s 128).skepAppend (skepOf (t.cf 5)) 0 0 = none ∧
       (((s 128).wrLE ((s 128).spad 0x1000) 4 1).skepAppend (some 0x1000) 0 0).isSome = true) := by decide +kernel

def oneTile : Word64 := .ofNat 64 (8192 * 2 ^ 21 + (2 ^ 21 - 8192))

/-- CMPR gathers a run of its tile; the region has room for a record of zeros at its start, and none 16 bytes before its end. -/
theorem witness_compression : let base := 2 ^ 21 - 8192
    let t := { xfer (.cmpr 0 0 0 0 0 0 ⟨0, []⟩) (padShape 2 0 1024 1 0) [] with cfg := [(6, oneTile)] }
    pieceOk t (Nat.min (t.sSrc.runLen 0) 1024) 0 = true ∧ crgnBase oneTile = base ∧ crgnLen oneTile = 8192 ∧
    base + 16 + 128 ≤ base + 8192 ∧ base + 8192 < base + 8176 + 128 ∧
    (let u := { t with tile := List.replicate 128 0, tat := 2 ^ 21 - 128, tfull := true }
     movesB (atWork u) 1 u = true ∧ u.tput < u.tile.length ∧ u.tat + u.tile.length ≤ 2 ^ 21 ∧
     (let v := { u with tput := 128 }
      movesB (atWork v) 1 v = true ∧ v.tile.length ≤ v.tput ∧ base + 4 * 0 + 4 ≤ 2 ^ 21)) := by decide +kernel

/-- EXPD with the table's word 0, 16 and beyond, with none, a part and all of a record, and at the last run of a tile. -/
theorem witness_expansion : let base := 2 ^ 21 - 8192
    let t := { xfer (.expd 0 0 0 0 0 0 ⟨0, []⟩) [] (padShape 2 0 1024 1 0) with cfg := [(6, oneTile)] }
    let s (o : Nat) : State := (atWork t).wrLE ((atWork t).spad base) 4 o
    movesB (atWork t) 1 t = true ∧ t.tfull = false ∧ t.tat = 0 ∧ (s 0).rdLE ((s 0).spad base) 4 = 0 ∧
      (s 16).rdLE ((s 0).spad base) 4 = 16 ∧ base + 16 + 128 ≤ base + 8192 ∧ base + 8192 < base + 8065 + 128 ∧
    (∀ n ∈ [0, 64, 128], let u := { t with tat := base + 8064, tile := List.replicate n 0 }
      movesB (atWork u) 1 u = true ∧ u.tat ≠ 0 ∧ u.tat + 128 ≤ base + 8192) ∧
    (let u := { t with tfull := true, tput := 4032 }
     movesB (atWork u) 1 u = true ∧ u.sDst.bits = 32 ∧ Nat.min (u.sDst.runLen (4032 / 4)) (1024 - 4032 / 4) = 16 ∧
       @decide _ (nearDec (atWork u) u u.sDst (4032 / 4) 16) = true) := by decide +kernel

/-- A CMPR and an EXPD move whatever their tile is: one of 4,096 bytes, say. -/
theorem witness_whole_tiles (l : List Byte) :
    let t := { xfer (.cmpr 0 0 0 0 0 0 ⟨0, []⟩) (padShape 2 0 1024 1 0) [] with cfg := [(6, oneTile)], tile := l }
    let u := { xfer (.expd 0 0 0 0 0 0 ⟨0, []⟩) [] (padShape 2 0 1024 1 0) with cfg := [(6, oneTile)], tile := l, tat := 16 }
    (atWork t).MovesHere 0 1 t ∧ (atWork u).MovesHere 0 1 u := by
  have lt : (0 : Nat) < 1024 := by decide
  refine ⟨⟨⟨rfl, lt, ⟨rfl, rfl⟩, ⟨rfl, rfl⟩, rfl, rfl, rfl, by with_unfolding_all rfl⟩, rfl, Nat.le_refl 0⟩,
    ⟨⟨rfl, lt, ⟨rfl, rfl⟩, ⟨rfl, rfl⟩, rfl, rfl, rfl, by with_unfolding_all rfl⟩, rfl, Nat.le_refl 0⟩⟩

/-- The block of R281's example. -/
def blockBytes : List Byte :=
  [0x31, 0x42, 0x45, 0x43, 1, 0, 0, 0, 3, 0, 0, 0, 0x01, 0x20, 0x30, 0, 0x30, 0, 0, 0, 1, 0, 0, 0, 0, 0, 0, 0, 0, 0, 0, 0, 0xB6]

theorem witness_block_pieces :
    let t := xfer (.decode 0 1 0 0 0 0 ⟨0, []⟩) (padShape 3 0 33 1 0) (padShape 9 0x100 3 1 0)
    pieceOk { t with dst := [] } (t.sSrc.runLen 0) 0 = true ∧ t.work = [] ∧ 0 < t.sSrc.runLen 0 ∧
    (let u := { t with tile := blockBytes }
     movesB (atWork u) 1 u = true ∧ u.sSrc.count ≤ u.tile.length ∧ u.badBlock 0 = false ∧ u.badBlock 1 = true) ∧
    (let u := { t with tile := blockBytes, work := [0, 0xFFFFFFFF, 0] }
     movesB (atWork u) 1 u = true ∧ @decide _ (nearDec (atWork u) u u.sDst 0 3) = true) := by decide +kernel

/-- 10, example of R281: the payload 0xB6 decodes to 3, 5, 5. -/
theorem test_block_symbols : let codes := canonCodes (lensOf (ofBytes ((blockBytes.drop 12).take 8)))
    symbols [0xB6] codes 3 3 0 = ([3, 5, 5], 8, none) ∧ (crcSymbols [3, 5, 5] (0xFFFFFFFF, 0)).2 = 6 := by decide +kernel

theorem witness_load_pieces : let t (i : Instr) (x : Nat) : Transfer := { xfer i (padShape 3 0 32 1 0) [] with xr := .ofNat 64 x }
    (∀ e ∈ [(t (.ldhcw 0 0 0 0 0 ⟨0, []⟩) 0x3FE0, 0x4000), (t (.ldpln 0 0 0 0 0 ⟨0, []⟩) 0xFFE0, 0x10000),
        (t (.ldpair 0 0 0 0 0 ⟨0, []⟩) 0x18260, 0x18280)],
      pieceOk e.1 (e.1.sSrc.runLen 0) 0 = true ∧ e.1.xr.toNat + 0 + 32 ≤ e.2) := by decide +kernel

/-- SEND of a die's own cluster 1, in shared mode and by a plan entry; a RAMO. -/
theorem witness_message_pieces :
    (let t := { xfer (.send 0 0 0 0 0 ⟨0, []⟩) (padShape 9 0 7 1 0) [] with
         far := true, asked := 1, xr := .ofNat 64 (1 * 2 ^ 26 + 5 * 2 ^ 21 + (2 ^ 21 - 4)) }
     let s := atWork t
     movesB s 1 t = true ∧ s.reqFree s.curDie 0 = true ∧ s.cl.locked = false ∧ t.sendRun 1 = 3 ∧
       (∀ f < 7, @decide _ (nearDec s t t.sSrc f 1) = true) ∧
     (let p : PlanEnt := { start := 0, len := 64, cl := 0, ch := 0, ddie := 0, dcl := 1, slack := false, bytes := 2 }
      let u : State := { s with cl := { s.cl with locked := true }, jobs := [{ (job []) with cexp := 10, plans := [(0, [p])] }] }
      movesB u 1 t = true ∧ u.entryNow 0 t = some (p, 0) ∧ u.entryLeft 0 (p, 0) = 2)) ∧
    (let t := { someXfer (.ramoCas 0 1 0 1 2 0 ⟨0, []⟩) with xr := 8, xv := 5, src := [7], far := true, tr := [(0, 0x4000000)] }
     movesB (atWork t) 1 t = true ∧ (atWork t).reqFree 0 0 = true) := by decide +kernel

/-! Queues, images, faults, messages, the host and power. -/

/-- A locked SEND without a plan entry; its page count is within the limit. -/
theorem witness_send_unplanned : let s := xWith (padShape 3 0 64 1 0) [] []
    ({ s with cl := { s.cl with locked := true } } : State).cl.locked = true ∧ s.plan = [] ∧
    (match s.sides [shapeOf (s.shapeW 0)] [] with
     | .ok (ps, _) => decide ((distinctPages ps).length ≤ 128)
     | .error _ => false) = true := by decide +kernel

/-- What admits a launch, in either mode, and what makes it wait. -/
theorem witness_admission : let shared := ready (launchWords 0)
    let locked := block []
    let owned (s : State) : State := s.updDie 0 fun x => { x with owner := some (1, 0) }
    let mine : Claim := { lead := 0, queue := 3, dies := [0] }
    (shared.die 0).owner = none ∧ shared.claims = [] ∧ ((owned shared).die 0).owner ≠ none ∧ locked.claims = [] ∧
    ({ locked with claims := [mine] } : State).claims = mine :: [] ∧ mine.lead = 0 ∧ mine.queue = 3 ∧
    (∀ n < 16, (locked.cluster (16 * 0 + n)).task = none ∧ (locked.cluster (16 * 0 + n)).pendl = []) ∧
    ({ locked with claims := [mine] } : State).headOf 0 3 = .admits [0] ∧
    (owned { locked with claims := [mine] }).headOf 0 3 = .wait ∧ (owned shared).headOf 0 3 = .wait := by decide +kernel

/-- A restore on a cluster that is switched out, a portable image of another geometry, and an image of a locked job. -/
theorem witness_restores : let r : TaskRef := ⟨0, 0, 0⟩
    (let s := saving { saved := [r], frz := { out := true } } { rst := true } (imageWords 0x1000000000 1)
     imageOwner s = some r ∧ s.cl.task = none ∧ s.cl.frz.out = true ∧ s.checkImage 0x1000000000 1 = .ok false) ∧
    (∀ g ∈ [0x01D5200810081040, 0x01D5200810081041],
      let s := saving {} { rst := true } [(0x1000000000, 4, 0x43585431), (0x1000000008, 8, g), (0x1000000018, 4, 1)]
      s.checkImage 0x1000000000 1 = .ok true) ∧
    (let s : State := { (inLocked { lockedJob with saved := true }) with images := [{}] }
     s.rdLE (lockedImage 0 + 0x1000) 8 < s.images.length) := by decide +kernel

/-- A fault of transfer 1 of channel 0, which is asked to be taken as complete; a job with a resident task. -/
theorem witness_xdone : let x := { someXfer .nop with out := [5] }
    let s := withChan [x, { someXfer .nop with id := 2 }]
      { (faulted (job []) false) with cl := { (faulted (job []) false).cl with flt := { valid := true, cause := 0x14, xv := true, id := 1 } } }
    s.cl.flt.valid = true ∧ s.cl.flt.xv = true ∧ s.cl.heldF = [] ∧ (s.cl.chan 0).q = x :: [{ someXfer .nop with id := 2 }] ∧
    x.id = s.cl.flt.id ∧ x.heldW = [] ∧ (∀ y ∈ [{ someXfer .nop with id := 2 }], y.done = false ∧ y.id ≠ x.id) ∧
    (s.die 0).reqs = [] ∧ 0 ∈ (faulted lockedJob true).jobKeys lockedJob := by decide +kernel

/-- A SEND that is refused for each reason, and one sent again without a route. -/
theorem witness_nacks : let m := aMsg mSend (3 * 2 ^ 21) (bytesOf 1 8)
    let r := aReq m
    let with_ (f : Cluster → Cluster) : State := { (talking m {}) with cl := f (talking m {}).cl }
    let why (s : State) : Option Nat := s.sendRefusal 0 0 0 false 3
    (asking r).reqOf 0 5 = some r ∧ ((asking r).xferOf 0 0 1).isSome = true ∧ r.retry = none ∧ r.stopped = false ∧
    64 ≤ ({ r with nacks := 63 } : Req).nacks + 1 ∧ (0 : Nat) ≠ 2 ∧
    (let q := { r with retry := some 0, msg := { m with ddie := 63 } }
     (asking q).retryDue 0 q = true ∧ (asking q).hops 0 63 = none) ∧
    why { (talking m {}) with dies := [] } = some 0 ∧ why (with_ fun c => { c with resetBy := [(0, 0)] }) = some 3 ∧
    why (with_ fun c => { c with saved := [⟨0, 0, 7⟩] }) = some 2 ∧ why (with_ fun c => { c with task := none }) = some 1 := by decide +kernel

/-- The answer to a held effect's request, and an error that its request meets. -/
theorem witness_held_reads : let r := { aReq (aMsg mReadReq 0x1000000000 []) with held := some (0, 0) }
    let e : HeldEff := { lead := 0, slot := 0, cl := 0, ch := 0 }
    let s : State := { dies := [(0, { present := true, reqs := [r], commit := [e] }), (1, { present := true, reqs := [r] })]
                       bad := [0x1000000000 / 8] }
    s.reqOf 0 5 = some r ∧ s.reqOf 1 5 = some r ∧ r.held = some (0, 0) ∧ r.orphan = none ∧ (s.die 0).commit = e :: [] ∧
    (s.badRead 0x1000000000 1).isSome = true := by decide +kernel

/-- BAR 2 over windows: the last bytes of a scratchpad, of the banks, and of cluster 1, which is switched out. -/
theorem witness_host_windows :
    (∀ off ∈ [0x2FFFFC, 0x3FFFFC], ∀ i < 4, let b := (running.portOf false).mapped (off + i)
      tierOf b = .window ∧ 0x100000 ≤ paOff b ∧ (running.die (paDie b)).present = true ∧ (running.cluster (paKey b)).frz.out = false) ∧
    (let s : State := { running with park := [(1, { frz := { out := true } })] }
     let a := (s.portOf false).mapped 0x6FFFF8
     a % 8 + 8 ≤ 8 ∧ tierOf a = .window ∧ 0x100000 ≤ paOff a ∧ paOff a < 0x300000 ∧ (s.cluster (paKey a)).frz.out = true) ∧
    (∀ off ∈ [0, 0x8827F, 0x8C000], paOff ((running.portOf false).mapped off) < 0x88280 ∨
      0x8C000 ≤ paOff ((running.portOf false).mapped off)) := by decide +kernel

/-- Offsets of a window that name an active and a draining counter, and others. -/
theorem witness_counter_granules : counterAt 0x08C000 = some 0 ∧ counterAt 0x0FFFF8 = some 0xE7FF ∧ counterAt 0x064000 = some 0xE800 ∧
    counterAt 0x100000 = none ∧ (snapping 50).uvMet = [(0x100000, some (0, 0))] ∧
    ({ me := { pass := some somePass } } : Cluster).me.pass = some somePass := by decide +kernel

/-- A record of the cause of M stands alone, and one of C joins it. -/
theorem witness_join : let x : Trap := { str := .m, cause := 0x0A }
    let y : Trap := { str := .c, cause := 0x0B }
    let q : CycRun := { s := busy, traps := [y] }
    q.causes = [y] ∧ y.str.num < x.str.num ∧ (∀ w : Trap, ({ s := busy, traps := [w] } : CycRun).traps = [w]) ∧
    (let o : CycRun := { s := { busy with cl := { busy.cl with sem := [(3, 255)], engP := [(3, 0)] } } }
     ∃ z ∈ o.causes, o.causes = [z] ∧ z.str = x.str ∧ z ∉ o.traps) := by
  refine ⟨by decide, by decide, fun _ => rfl, by decide⟩

theorem witness_on_time : oneEnd.lateCycle = false ∧
    (match oneEnd.decoded .c with | .ok b => usesClash (oneEnd.usesHere .c b) | .error _ => true) = false := by decide +kernel

end Sys2Proof.Tests
end

section
/-! The loop-end event (R140) and the immediate moves (R137): what the retirement of a bundle leaves in the loop levels and the
program counter of its stream, and what a write of an index operand leaves in every register. -/
namespace Sys2Proof.Machine

/-- The stream of the context after an update of it. -/
@[simp] theorem strm_updStrm (s : State) (f : StreamSt → StreamSt) : (s.updStrm f).strm = f s.strm := by
  unfold State.strm State.updStrm
  cases s.ctx.str <;> rfl

/-! One level: its count, its start, and its registers after the event. -/

/-- The count that a loop-end event looks at: the pending one, else the committed one (R141). -/
def LoopLevel.count (x : LoopLevel) : Word32 := x.plc.getD x.lc

/-- The address that a back-edge goes to. -/
def LoopLevel.start (x : LoopLevel) : BitVec 17 := x.pls.getD x.ls

/-- The level after its loop-end event: counted down, its shadows committed. -/
def LoopLevel.afterEnd (x : LoopLevel) : LoopLevel :=
  { lc := if 1 < x.count.toNat then x.count - 1 else 0, ls := x.start, le := x.ple.getD x.le }

theorem loopEnd_eq (x : LoopLevel) :
    x.loopEnd = (x.afterEnd, if 1 < x.count.toNat then some x.start else none) := by
  unfold LoopLevel.loopEnd LoopLevel.afterEnd LoopLevel.count LoopLevel.start
  by_cases h : 1 < (x.plc.getD x.lc).toNat <;> simp [h]

theorem ends_iff (x : LoopLevel) (seq : BitVec 17) : x.ends seq = true ↔ x.lc ≠ 0 ∧ x.le = seq := by
  simp [LoopLevel.ends]

/-- The level meets its end at the sequential address `seq` and branches back. -/
def LoopLevel.goesBack (x : LoopLevel) (seq : BitVec 17) : Prop := x.ends seq = true ∧ 1 < x.count.toNat

/-! Sequential flow, level 1 first (R140). -/

/-- The part of the flow that examines level 0. -/
def StreamSt.flow0 (t : StreamSt) (addr seq : BitVec 17) : StreamSt :=
  if t.l0.ends seq then
    if 1 < t.l0.count.toNat then { t with l0 := t.l0.afterEnd, pc := t.l0.start, src := some addr }
    else { t with l0 := t.l0.afterEnd, pc := seq }
  else { t with pc := seq }

theorem flow_eq (t : StreamSt) (addr seq : BitVec 17) :
    t.flow addr seq =
      if t.l1.ends seq then
        if 1 < t.l1.count.toNat then { t with l1 := t.l1.afterEnd, pc := t.l1.start, src := some addr }
        else { t with l1 := t.l1.afterEnd }.flow0 addr seq
      else t.flow0 addr seq := by
  unfold StreamSt.flow StreamSt.flow0
  simp only [loopEnd_eq]
  by_cases h1 : 1 < t.l1.count.toNat <;> by_cases h0 : 1 < t.l0.count.toNat <;> simp only [h1, h0] <;> rfl

theorem flow0_l1 (t : StreamSt) (addr seq : BitVec 17) : (t.flow0 addr seq).l1 = t.l1 := by
  unfold StreamSt.flow0
  split
  · split <;> rfl
  · rfl

theorem flow0_l0 (t : StreamSt) (addr seq : BitVec 17) :
    (t.flow0 addr seq).l0 = if t.l0.ends seq then t.l0.afterEnd else t.l0 := by
  unfold StreamSt.flow0
  split
  · split <;> rfl
  · rfl

theorem flow0_pc (t : StreamSt) (addr seq : BitVec 17) :
    (t.flow0 addr seq).pc = if t.l0.ends seq ∧ 1 < t.l0.count.toNat then t.l0.start else seq := by
  unfold StreamSt.flow0
  by_cases he : t.l0.ends seq = true
  · by_cases hc : 1 < t.l0.count.toNat <;> simp [he, hc]
  · simp [he]

/-- Level 1 after the flow: its event takes place exactly where it meets its end. -/
theorem flow_l1 (t : StreamSt) (addr seq : BitVec 17) :
    (t.flow addr seq).l1 = if t.l1.ends seq then t.l1.afterEnd else t.l1 := by
  rw [flow_eq]
  split
  · split
    · rfl
    · rw [flow0_l1]
  · rw [flow0_l1]

/-- A level 1 that branches back keeps level 0 out of the flow. -/
theorem flow_of_goesBack (t : StreamSt) (addr seq : BitVec 17) (h : t.l1.goesBack seq) :
    (t.flow addr seq).l0 = t.l0 ∧ (t.flow addr seq).pc = t.l1.start := by
  obtain ⟨hend, hcnt⟩ := h
  rw [flow_eq, if_pos hend, if_pos hcnt]
  exact ⟨rfl, rfl⟩

/-- Where level 1 does not branch back, level 0 and the program counter are those of level 0 examined alone. -/
theorem flow_of_not_goesBack (t : StreamSt) (addr seq : BitVec 17) (h : ¬ t.l1.goesBack seq) :
    (t.flow addr seq).l0 = (t.flow0 addr seq).l0 ∧ (t.flow addr seq).pc = (t.flow0 addr seq).pc := by
  rw [flow_eq]
  by_cases hend : t.l1.ends seq = true
  · have hcnt : ¬ 1 < t.l1.count.toNat := fun c => h ⟨hend, c⟩
    rw [if_pos hend, if_neg hcnt]
    simp only [flow0_l0, flow0_pc, and_self]
  · rw [if_neg hend]
    exact ⟨rfl, rfl⟩

/-! The retirement of a bundle. -/

/-- A bundle that executed END or took a branch meets no loop end. -/
theorem retire_keeps_levels (s : State) (more : Bool) (h : s.ctx.fin = true ∨ s.ctx.next ≠ none) :
    (s.retire more).strm.l1 = s.strm.l1 ∧ (s.retire more).strm.l0 = s.strm.l0 := by
  unfold State.retire
  rw [strm_updStrm]
  by_cases hf : s.ctx.fin = true
  · simp only [hf, if_true, and_self]
  · obtain ⟨a, ha⟩ := Option.ne_none_iff_exists'.1 (h.resolve_left hf)
    simp only [hf, ha]
    exact ⟨rfl, rfl⟩

/-- Any other bundle, its repetitions over, flows on from the stream as it stood. -/
theorem retire_flows (s : State) (hf : s.ctx.fin = false) (hn : s.ctx.next = none) :
    (s.retire false).strm =
      { { s.strm with wait := none, src := none, served := false }.flow s.ctx.addr s.seqPc with rep := 0, bubble := 0 } := by
  unfold State.retire
  rw [strm_updStrm]
  simp only [hf, hn]
  rfl

/-- Settles O7: the flow of R140, level by level, in terms of the stream before the retirement. -/
theorem loopEndEvent : Obligations.LoopEndEvent := by
  intro s x seq t atEnd cnt after
  refine ⟨retire_keeps_levels s false, fun hf hn => ?_⟩
  have ht : t = _ := retire_flows s hf hn
  have hends (y : LoopLevel) : y.ends seq = true ↔ atEnd y := ends_iff y seq
  have hback : x.l1.goesBack seq ↔ atEnd x.l1 ∧ 1 < (cnt x.l1).toNat := and_congr_left' (hends _)
  have hl1 : t.l1 = if x.l1.ends seq then after x.l1 else x.l1 := by rw [ht]; exact flow_l1 _ _ _
  have hin (h : x.l1.goesBack seq) : t.l0 = x.l0 ∧ t.pc = x.l1.start := by
    rw [ht]; exact flow_of_goesBack _ _ _ h
  have hout (h : ¬ x.l1.goesBack seq) :
      t.l0 = (if x.l0.ends seq then after x.l0 else x.l0) ∧
      t.pc = if x.l0.ends seq ∧ 1 < (cnt x.l0).toNat then x.l0.start else seq := by
    obtain ⟨h0, hpc⟩ := flow_of_not_goesBack { s.strm with wait := none, src := none, served := false } s.ctx.addr seq h
    rw [flow0_l0] at h0
    rw [flow0_pc] at hpc
    rw [ht]
    exact ⟨h0, hpc⟩
  simp only [hends, hback] at hl1 hin hout
  refine ⟨fun he hc => ?_, fun he _ => ?_, fun he => ?_, fun hb he => ?_, fun hb he => ?_⟩
  · exact ⟨hl1.trans (if_pos he), hin ⟨he, hc⟩⟩
  · exact hl1.trans (if_pos he)
  · exact hl1.trans (if_neg he)
  · obtain ⟨h0, hpc⟩ := hout hb
    simp only [he, true_and] at hpc
    exact ⟨h0.trans (if_pos he), hpc⟩
  · obtain ⟨h0, hpc⟩ := hout hb
    exact ⟨h0.trans (if_neg he), hpc.trans (if_neg fun c => he c.1)⟩

/-! Index operands (R103): what is read after one is written. -/

theorem reg_of_c (s : State) (r : BitVec 6) (h : s.ctx.str = .c) : s.reg r = s.sreg r.toNat := by
  simp only [State.reg, h]

theorem reg_of_ne_c (s : State) (r : BitVec 6) (h : s.ctx.str ≠ .c) :
    s.reg r = if r.toNat < 8 then s.strm.idx.get 0 r.toNat else s.kreg (r.toNat - 32) := by
  unfold State.reg
  split
  · contradiction
  · rfl

theorem setReg_of_c (s : State) (r : BitVec 6) (v : Word64) (h : s.ctx.str = .c) : s.setReg r v = s.setS r.toNat v := by
  simp only [State.setReg, h]

theorem setReg_of_ne_c (s : State) (r : BitVec 6) (v : Word64) (h : s.ctx.str ≠ .c) :
    s.setReg r v = s.updStrm fun t => { t with idx := t.idx.set 0 r.toNat v } := by
  unfold State.setReg
  split
  · contradiction
  · rfl

@[simp] theorem setS_zero (s : State) (v : Word64) : s.setS 0 v = s := rfl

theorem sreg_setS (s : State) (r n : Nat) (v : Word64) (h : r ≠ 0) :
    (s.setS r v).sreg n = if n = r then v else s.sreg n := by
  unfold State.sreg State.setS
  rw [if_neg h]
  by_cases hn : n = 0
  · simp [hn, h.symm]
  · simp [hn]

@[simp] theorem kreg_updStrm (s : State) (f : StreamSt → StreamSt) (n : Nat) : (s.updStrm f).kreg n = s.kreg n := by
  unfold State.kreg State.updStrm Cluster.setStr
  cases s.ctx.str <;> rfl

/-- The operand written reads back wherever the stream has a register there to write. -/
theorem reg_setReg_same (s : State) (r : BitVec 6) (v : Word64) (h : if s.ctx.str = .c then r ≠ 0 else r.toNat < 8) :
    (s.setReg r v).reg r = v := by
  by_cases hc : s.ctx.str = .c
  · rw [if_pos hc] at h
    have hr : r.toNat ≠ 0 := fun c => h (BitVec.eq_of_toNat_eq c)
    rw [reg_of_c _ _ (by rwa [setReg_ctx]), setReg_of_c _ _ _ hc, sreg_setS _ _ _ _ hr, if_pos rfl]
  · rw [if_neg hc] at h
    rw [reg_of_ne_c _ _ (by rwa [setReg_ctx]), if_pos h, setReg_of_ne_c _ _ _ hc, strm_updStrm, SMap.get_set, if_pos rfl]

/-- Every other operand reads as before. -/
theorem reg_setReg_ne (s : State) (r q : BitVec 6) (v : Word64) (h : q ≠ r) : (s.setReg r v).reg q = s.reg q := by
  have hn : q.toNat ≠ r.toNat := fun c => h (BitVec.eq_of_toNat_eq c)
  by_cases hc : s.ctx.str = .c
  · rw [reg_of_c _ _ (by rwa [setReg_ctx]), reg_of_c _ _ hc, setReg_of_c _ _ _ hc]
    by_cases hr : r.toNat = 0
    · rw [hr, setS_zero]
    · rw [sreg_setS _ _ _ _ hr, if_neg hn]
  · rw [reg_of_ne_c _ _ (by rwa [setReg_ctx]), reg_of_ne_c _ _ hc, setReg_of_ne_c _ _ _ hc, strm_updStrm, kreg_updStrm,
      SMap.get_set, if_neg hn]

/-- A write of an operand changes the registers s of the stream C, the index registers of any other, and nothing else. -/
theorem setReg_frame (s : State) (r : BitVec 6) (v : Word64) :
    if s.ctx.str = .c then s.setReg r v = { s with cl := { s.cl with s := (s.setReg r v).cl.s } }
    else s.setReg r v = s.updStrm fun u => { u with idx := (s.setReg r v).strm.idx } := by
  by_cases hc : s.ctx.str = .c
  · rw [if_pos hc, setReg_of_c _ _ _ hc]
    unfold State.setS
    split <;> rfl
  · rw [if_neg hc, setReg_of_ne_c _ _ _ hc, strm_updStrm]
    rfl

/-! The immediate moves (R137). -/

theorem ofNat_ofInt (w : Nat) (x : Int) : BitVec.ofNat w (ofInt w x) = BitVec.ofInt w x := by
  have h : ofInt w x = (BitVec.ofInt w x).toNat := (BitVec.toNat_ofInt x).symm
  rw [h, BitVec.ofNat_toNat, BitVec.setWidth_eq]

theorem immS_eq {n : Nat} (i : Imm n) : immS i = .ofInt 64 (toSigned (immWidth i) (immRaw i)) := ofNat_ofInt 64 _

theorem exec_imov (s : State) (rd : BitVec 6) (i : Imm 19) : exec (.imov rd i) s = .next (s.setReg rd (immS i)) := rfl

theorem exec_iadd (s : State) (rd ra : BitVec 6) (i : Imm 13) :
    exec (.iadd rd ra i) s = .next (s.setReg rd (s.reg ra + immS i)) := rfl

/-- A 64-bit sum with an immediate is the sum of integers modulo 2^64. -/
theorem add_immS {n : Nat} (a : Word64) (i : Imm n) :
    a + immS i = .ofInt 64 (a.toNat + toSigned (immWidth i) (immRaw i)) := by
  rw [immS_eq, BitVec.ofInt_add]
  simp

/-- `t` is `s` with `v` written to the operand `rd` and nothing else changed; s0 discards the write. -/
def WritesOnly (s t : State) (rd : BitVec 6) (v : Word64) : Prop :=
  (if s.ctx.str = .c ∧ rd = 0 then t = s
    else t.reg rd = (if s.ctx.str = .c ∨ rd.toNat < 8 then v else t.reg rd) ∧ ∀ r, r ≠ rd → t.reg r = s.reg r) ∧
  (if s.ctx.str = .c then t = { s with cl := { s.cl with s := t.cl.s } } else t = s.updStrm fun u => { u with idx := t.strm.idx })

theorem setReg_writesOnly (s : State) (rd : BitVec 6) (v : Word64) : WritesOnly s (s.setReg rd v) rd v := by
  refine ⟨?_, setReg_frame s rd v⟩
  split
  case isTrue h =>
    obtain ⟨hc, rfl⟩ := h
    exact setReg_of_c s 0 v hc
  case isFalse h =>
    refine ⟨?_, fun r hr => reg_setReg_ne s rd r v hr⟩
    split
    case isTrue hw =>
      refine reg_setReg_same s rd v ?_
      split
      · exact fun hz => h ⟨‹_›, hz⟩
      · exact hw.resolve_left ‹_›
    case isFalse => rfl

/-- Settles O12: both instructions are one write of an operand. -/
theorem immediateMoveResults : Obligations.ImmediateMoveResults := by
  intro s rd ra i19 i13 moves
  have moved (i : Instr) (v : Word64) (h : exec i s = .next (s.setReg rd v)) : moves i v :=
    ⟨s.setReg rd v, h, setReg_writesOnly s rd v⟩
  refine ⟨moved _ _ ?_, moved _ _ ?_⟩
  · rw [exec_imov, immS_eq]
  · rw [exec_iadd, add_immS]

end Sys2Proof.Machine
end

section
/-! NSWP (R226): which words are one, what memory reads as after two adjacent regions change places, and what its issue answers. -/
namespace Sys2Proof

/-- Where the numbers of two files lie on either side of `b`, the side decides which file answers. -/
theorem SMap.get_append_of_split {α : Type} (d : α) (l m : SMap α) (b k : Nat) (hl : ∀ e ∈ l, e.1 < b) (hm : ∀ e ∈ m, b ≤ e.1) :
    SMap.get d (l ++ m) k = if k < b then SMap.get d l k else SMap.get d m k := by
  rw [SMap.get_append]
  by_cases hk : k ∈ l.map (·.1)
  · obtain ⟨e, he, rfl⟩ := List.mem_map.1 hk
    rw [if_pos hk, if_pos (hl e he)]
  · rw [if_neg hk]
    by_cases hb : k < b
    · have hkm : k ∉ m.map (·.1) := fun h => by
        obtain ⟨e, he, rfl⟩ := List.mem_map.1 h
        exact absurd (hm e he) (Nat.not_le.2 hb)
      rw [if_pos hb, SMap.get_of_not_mem d m k hkm, SMap.get_of_not_mem d l k hk]
    · rw [if_neg hb]

end Sys2Proof

namespace Sys2Proof.Machine

/-! The word. -/

theorem decodeSubRaw_major_nswp (u : SubUnit) (w v : Nat) (h : majorOf w = 0x17) :
    decodeSubRaw u w v = if w % 2 ^ 25 = 0 then some .nswp else none := by
  unfold majorOf at h
  unfold decodeSubRaw
  rw [h]
  simp [fld]

/-- No other major gives an NSWP: each branch of the decoder makes an operation of its own. -/
theorem majorOf_of_decodeSubRaw_nswp (u : SubUnit) (w v : Nat) (h : decodeSubRaw u w v = some .nswp) : majorOf w = 0x17 := by
  unfold decodeSubRaw at h
  split at h
  case h_6 hw => exact hw
  all_goals grind

theorem decodeSub_eq_nswp_iff (u : SubUnit) (w v : Nat) :
    decodeSub u w v = .ok .nswp ↔ decodeSubRaw u w v = some .nswp := by
  unfold decodeSub
  cases hr : decodeSubRaw u w v with
  | none => simp
  | some i =>
    by_cases hi : wellFormed .m i = true
    · simp [hi]
    · have hne : i ≠ .nswp := by
        rintro rfl
        exact hi rfl
      simp [hi, hne]

theorem decodeSub_nswp_iff (u : SubUnit) (w v : Nat) :
    decodeSub u w v = .ok .nswp ↔ majorOf w = 0x17 ∧ w % 2 ^ 25 = 0 := by
  rw [decodeSub_eq_nswp_iff]
  constructor
  · intro h
    have hm := majorOf_of_decodeSubRaw_nswp u w v h
    rw [decodeSubRaw_major_nswp u w v hm] at h
    exact ⟨hm, by simpa using h⟩
  · rintro ⟨hm, hz⟩
    rw [decodeSubRaw_major_nswp u w v hm, if_pos hz]

/-! The exchange of two adjacent regions. -/

theorem swapKey_first (a n k : Nat) (h : k < n) : swapKey a n (a + k) = a + n + k := by
  unfold swapKey
  rw [if_neg (by omega), if_pos (by omega)]
  omega

theorem swapKey_second (a n k : Nat) (h : k < n) : swapKey a n (a + n + k) = a + k := by
  unfold swapKey
  rw [if_neg (by omega), if_neg (by omega), if_pos (by omega)]
  omega

theorem swapKey_outside (a n x : Nat) (h : x < a ∨ a + 2 * n ≤ x) : swapKey a n x = x := by
  unfold swapKey
  split
  · rfl
  · rw [if_neg (by omega), if_neg (by omega)]

/-- The entries of m numbered from lo to below hi, renumbered by f. -/
def movedRange (m : SMap Byte) (f : Nat → Nat) (lo hi : Nat) : SMap Byte :=
  (m.filter fun e => decide (lo ≤ e.1) && decide (e.1 < hi)).map fun e => (f e.1, e.2)

theorem swapRegions_mem (s : State) (a n : Nat) :
    (s.swapRegions a n).mem = (s.mem.filter fun e => decide (e.1 < a)) ++ movedRange s.mem (· - n) (a + n) (a + 2 * n)
      ++ movedRange s.mem (· + n) a (a + n) ++ s.mem.filter fun e => decide (a + 2 * n ≤ e.1) := rfl

theorem key_of_mem_movedRange {m : SMap Byte} {f : Nat → Nat} {lo hi : Nat} {e : Nat × Byte} (he : e ∈ movedRange m f lo hi) :
    ∃ x, lo ≤ x ∧ x < hi ∧ e.1 = f x := by
  obtain ⟨x, hx, rfl⟩ := List.mem_map.1 he
  obtain ⟨hlo, hhi⟩ : lo ≤ x.1 ∧ x.1 < hi := by simpa using (List.mem_filter.1 hx).2
  exact ⟨x.1, hlo, hhi, rfl⟩

theorem get_movedRange (m : SMap Byte) (f : Nat → Nat) (lo hi k : Nat) (h1 : lo ≤ k) (h2 : k < hi)
    (hf : ∀ x, lo ≤ x → f x = f k → x = k) : SMap.get 0 (movedRange m f lo hi) (f k) = SMap.get 0 m k :=
  get_shift m f (fun x => decide (lo ≤ x) && decide (x < hi)) k (by simp [h1, h2])
    fun x hx => hf x (of_decide_eq_true (Bool.and_eq_true_iff.1 hx).1)

/-- The four pieces of memory after an exchange lie one above the other, so the place of a byte says which piece holds it. -/
theorem rd8_swapRegions_pieces (s : State) (a n x : Nat) :
    (s.swapRegions a n).rd8 x =
      if x < a + 2 * n then
        if x < a + n then
          if x < a then s.rd8 x else SMap.get 0 (movedRange s.mem (· - n) (a + n) (a + 2 * n)) x
        else SMap.get 0 (movedRange s.mem (· + n) a (a + n)) x
      else s.rd8 x := by
  have below : ∀ e ∈ s.mem.filter fun e => decide (e.1 < a), e.1 < a := fun e he => by simpa using (List.mem_filter.1 he).2
  have above : ∀ e ∈ s.mem.filter fun e => decide (a + 2 * n ≤ e.1), a + 2 * n ≤ e.1 :=
    fun e he => by simpa using (List.mem_filter.1 he).2
  have first : ∀ e ∈ movedRange s.mem (· - n) (a + n) (a + 2 * n), a ≤ e.1 ∧ e.1 < a + n := fun e he => by
    obtain ⟨y, h1, h2, hy⟩ := key_of_mem_movedRange he
    omega
  have second : ∀ e ∈ movedRange s.mem (· + n) a (a + n), a + n ≤ e.1 ∧ e.1 < a + 2 * n := fun e he => by
    obtain ⟨y, h1, h2, hy⟩ := key_of_mem_movedRange he
    omega
  have upToFirst : ∀ e ∈ (s.mem.filter fun e => decide (e.1 < a)) ++ movedRange s.mem (· - n) (a + n) (a + 2 * n),
      e.1 < a + n := fun e he => by
    rcases List.mem_append.1 he with he | he
    · exact Nat.lt_of_lt_of_le (below e he) (Nat.le_add_right a n)
    · exact (first e he).2
  have upToSecond : ∀ e ∈ (s.mem.filter fun e => decide (e.1 < a)) ++ movedRange s.mem (· - n) (a + n) (a + 2 * n)
      ++ movedRange s.mem (· + n) a (a + n), e.1 < a + 2 * n := fun e he => by
    rcases List.mem_append.1 he with he | he
    · exact Nat.lt_of_lt_of_le (upToFirst e he) (by omega)
    · exact (second e he).2
  unfold State.rd8
  rw [swapRegions_mem, SMap.get_append_of_split 0 _ _ _ x upToSecond above,
    SMap.get_append_of_split 0 _ _ _ x upToFirst fun e he => (second e he).1,
    SMap.get_append_of_split 0 _ _ _ x below fun e he => (first e he).1,
    SMap.get_filter 0 fun k => decide (k < a), SMap.get_filter 0 fun k => decide (a + 2 * n ≤ k)]
  grind

/-- Each byte reads as the byte that it changed places with. -/
theorem rd8_swapRegions (s : State) (a n x : Nat) : (s.swapRegions a n).rd8 x = s.rd8 (swapKey a n x) := by
  rw [rd8_swapRegions_pieces]
  unfold swapKey
  by_cases hlow : x < a
  · rw [if_pos (by omega), if_pos (by omega), if_pos hlow, if_pos hlow]
  by_cases hfirst : x < a + n
  · rw [if_pos (by omega), if_pos hfirst, if_neg hlow, if_neg hlow, if_pos hfirst]
    have h := get_movedRange s.mem (· - n) (a + n) (a + 2 * n) (x + n) (by omega) (by omega) (by intros; omega)
    simpa [State.rd8] using h
  by_cases hsecond : x < a + 2 * n
  · rw [if_pos hsecond, if_neg hfirst, if_neg hlow, if_neg hfirst, if_pos hsecond]
    have h := get_movedRange s.mem (· + n) a (a + n) (x - n) (by omega) (by omega) (by intros; omega)
    simpa [State.rd8, Nat.sub_add_cancel (show n ≤ x by omega)] using h
  · rw [if_neg hsecond, if_neg hlow, if_neg hfirst, if_neg hsecond]

/-! The instruction. -/

/-- The state with NSWP as the current operation of the north sub-unit. -/
def State.withNswp (s : State) : State := s.setCur 1 { op := some .nswp, base := 0, addr := 0 }

@[simp] theorem withNswp_mem (s : State) : s.withNswp.mem = s.mem := rfl

theorem exec_nswp_of_idle (s : State) (hp : s.cl.me.pass = none) (hn : s.cl.me.nld = none) :
    exec .nswp s = .next (s.withNswp.swapRegions (winBase s.cur + offPlane) 0x10000) := by
  have ready : (s.cl.me.pass.isNone && s.cl.me.nld.isNone) = true := by rw [hp, hn]; rfl
  exact if_pos ready

theorem exec_nswp_of_busy (s : State) (h : s.cl.me.pass ≠ none ∨ s.cl.me.nld ≠ none) :
    exec .nswp s = .next s.withNswp.waits := by
  have notReady : ¬ (s.cl.me.pass.isNone && s.cl.me.nld.isNone) = true := by
    simpa [Decidable.imp_iff_not_or, Option.isSome_iff_ne_none] using h
  exact if_neg notReady

/-- The shadow plane lies directly above the active one. -/
theorem shadow_eq_plane_add (k : Nat) : winBase k + offShadow = winBase k + offPlane + 0x10000 := by
  rw [show offShadow = offPlane + 0x10000 by decide, Nat.add_assoc]

/-- Settles O24: a byte of either plane reads as the byte that changed places with it, 65536 bytes away. -/
theorem planeSwapResult : Obligations.PlaneSwapResult := by
  intro s hok
  refine ⟨decodeSub_nswp_iff .en, fun hp hn => ⟨_, exec_nswp_of_idle s hp hn, swapRegions_wf _ _ _ hok, ?_, ?_, rfl⟩,
    fun hbusy => ⟨_, exec_nswp_of_busy s hbusy, ?_, ?_⟩⟩
  · intro k hk
    rw [shadow_eq_plane_add, rd8_swapRegions, rd8_swapRegions, swapKey_first _ _ _ hk, swapKey_second _ _ _ hk]
    exact ⟨rd8_congr (withNswp_mem s) _, rd8_congr (withNswp_mem s) _⟩
  · intro x hx
    rw [rd8_swapRegions, swapKey_outside _ _ _ hx, rd8_congr (withNswp_mem s)]
  · rw [waits_ctx]
  · rw [waits_mem, withNswp_mem]

end Sys2Proof.Machine
end
